-- ==== Sys2Proof/Word.lean ====
section
/-!
DEFINITION. The word types of the OX9 and their plainest arithmetic (R6, R9): bytes, 32-bit words, 64-bit double words,
register numbers, and the splitting and joining of little-endian values.
-/
namespace Sys2Proof

/-- One byte (R6). -/
abbrev Byte := BitVec 8
/-- A 32-bit word: one S-stream word, one lane register element, one W0, W1 or W2 (R7, R82). -/
abbrev Word := BitVec 32
/-- A 64-bit value: one scalar register, one generic address (R14, R82). -/
abbrev DWord := BitVec 64
/-- The number of a scalar register s0 to s63 (R82). -/
abbrev SReg := BitVec 6
/-- The number of a lane register v0 to v255 (R82). -/
abbrev VReg := BitVec 8

/-- The value of bytes stored at rising addresses, lowest first (R6: little-endian). -/
def leNat : List Byte → Nat
  | [] => 0
  | b :: bs => b.toNat + 256 * leNat bs

/-- The `n` low bytes of `v`, lowest first (R6). -/
def leBytes : Nat → Nat → List Byte
  | 0, _ => []
  | n + 1, v => BitVec.ofNat 8 v :: leBytes n (v / 256)

end Sys2Proof
end

