-- ==== Sys2Proof/Fields.lean ====
section
/-!
DEFINITION. The operand fields of the instruction formats (R95, R99) and the payloads of the device and host steps: which part
a step acts on, and what an outside party (host, another package, a failing part) brings with it.
-/
namespace Sys2Proof

/-- Ordering scopes (R15). Code 7 has no constructor: it is illegal wherever a scope is encoded. -/
inductive Scope | grp | team | clu | die | pkg | dom | sys
deriving DecidableEq, Repr

/-- The guard field of the SG and SC formats (R96): a slot, or 31 for unguarded; 16 to 30 have no constructor. -/
inductive GuardSel
  | slot (n : BitVec 4)
  | none
deriving DecidableEq, Repr

/-- Branch conditions of the SB format (R145). -/
inductive BrCond | eq | ne | ltI | geI | ltN | geN
deriving DecidableEq, Repr

/-- Address modes of the SM format (R95, R140); mode 11 has no constructor. -/
inductive SMode
  | offset (disp : BitVec 10)
  | postInc (disp : BitVec 10)
  | modulo (m : BitVec 3) (inc : BitVec 7)
deriving DecidableEq, Repr

/-- Lane types (R101); codes 11 to 15 have no constructor. -/
inductive LTy | b32 | i32 | n32 | f32 | bf16x2 | f8e4x4 | f8e5x4 | nq4x8 | i8x4 | n8x4 | b64
deriving DecidableEq, Repr

/-- Source selects of the L format (R99): lane register, scalar, immediate; code 3 has no constructor. -/
inductive Sel | vec | scalar | imm
deriving DecidableEq, Repr

/-- The guard of a lane instruction (R99): always (gp = 31), or a predicate with an optional negation. -/
inductive LGuard
  | always
  | pred (p : BitVec 5) (neg : Bool)
deriving DecidableEq, Repr

/-- The fields of the L format but op10 (R99). What `mod5` and `w2` hold is the entry of each instruction. -/
structure LF where
  guard : LGuard
  feA : Bool
  feB : Bool
  feC : Bool
  ty : LTy
  bsel : Sel
  csel : Sel
  mod5 : BitVec 5
  d : VReg
  a : VReg
  b : VReg
  c : VReg
  w2 : Word
deriving DecidableEq, Repr

/-- A core by its place in the physical mesh of its die (R63): die 0 to 15, column 0 to 15, row 0 to 9. -/
structure CoreKey where
  die : Nat
  col : Nat
  row : Nat
deriving DecidableEq, Repr

/-- A request of the host for bytes (R35): a read of `n` bytes, or a write of bytes. -/
inductive HostRw
  | read (n : Nat)
  | write (bytes : List Byte)
deriving DecidableEq, Repr

/-- The registers of BAR0 that a host write reaches and that have no step of their own (R13, R39 to R47, R53, R356, R414).
`c` is a context, `q` a launch queue, `k` an interrupt source. -/
inductive HostReg
  | halt (c : BitVec 6) | qerr (c : BitVec 6) | ptroot (c : BitVec 6)
  | qbase (c : BitVec 6) (q : BitVec 3) | qlog2 (c : BitVec 6) (q : BitVec 3)
  | cqbase (c : BitVec 6) | cqlog2 (c : BitVec 6) | cqvec (c : BitVec 6) | cqie (c : BitVec 6)
  | reqLo | reqHi | go | mboxDone
  | intVec (k : BitVec 3) | intEn (k : BitVec 3) | intPend (k : BitVec 3)
  | snapCtx | liveBase | liveLen | slot0 | slot1 | sstep | snapGroup (w : BitVec 2) | snapTag
  | member | recEn | memPkg (w : BitVec 1) | frag0 | frag1 | lost | adopter | adoptBase
  | readOnly (offset : Nat)
deriving DecidableEq, Repr

/-- The kind of a collective command (R331). -/
inductive CollKind | xmar | xred | xnorm | xbar
deriving DecidableEq, Repr

/-- The fields of a collective command that the engines compare across ranks (R333). -/
structure CollHdr where
  kind : CollKind
  nr : Nat
  pbase : Nat
  comm : BitVec 16
  matched : List DWord
deriving DecidableEq, Repr

/-- One element of an exchange piece: where it lands in the destination block (local linear index) and its bytes;
`none` is a poisoned element (R339). -/
structure PieceElem where
  index : Nat
  bytes : Option (List Byte)
deriving DecidableEq, Repr

/-- What one rank's engine tells the others of its instance (R335 to R344). `start` announces the command and its matched
fields; a discarded `xmar` says so (R336), and so does a rank that is fenced as lost; `pieceAck` says that a piece has landed or been
dropped, `released` that the release of an `xbar` has completed. -/
inductive CollBody
  | start
  | piece (elems : List PieceElem)
  | pieceDropped (bytes : Nat)
  | values (vs : List (Option DWord))
  | norm (psq : Word) (flag : Bool)
  | normResult (sq mult : Word) (skip : Bool)
  | normAck
  | normCommit
  | pieceAck
  | released
  | lost
deriving DecidableEq, Repr

/-- A message of a collective instance (R333), from the rank `rank` on package `src`. -/
structure CollMsg where
  ctx : BitVec 6
  inst : Word
  src : Nat
  rank : Nat
  hdr : CollHdr
  body : CollBody
deriving DecidableEq, Repr

/-- The round need of a remote load (R319, R323): the region and the package of its home, the need, now mode, and the counter that the region
home gives the line home (R312). -/
structure RemoteNeed where
  region : BitVec 12
  home : Nat
  need : Word
  now : Bool := false
  rc : Word := 0
deriving DecidableEq, Repr

/-- What a remote access asks of the home package (R326): a load, which in a round region carries its need; a write carries its step tag (R355);
`rnd.reg` and the arrival of `rnd.adv` go to the home of their record (R310). -/
inductive RemoteOp
  | load (n : Nat) (need : Option RemoteNeed)
  | store (bytes : List (Option Byte)) (durable : Bool) (tag : BitVec 16)
  | atomic (op : BitVec 4) (ty : LTy) (operand comparand : DWord) (tag : BitVec 16)
  | roundReg (region : BitVec 12) (slot : DWord)
  | roundArrive (region : BitVec 12) (slot : Nat)
deriving DecidableEq, Repr

/-- What a home package answers to a remote access (R327): data (`stale` when its round tag was below the need, R319), an
acknowledgement, or a rejection by cause (R363). -/
inductive RemoteAnswer
  | data (bytes : List Byte) (stale : Bool)
  | done
  | reject (cause : BitVec 8)
deriving DecidableEq, Repr

/-- What the fabric carries between packages (R326 to R330, R358, R416). -/
inductive FabricMsg
  | access (src : Nat) (id : Nat) (ctx : BitVec 6) (gen : BitVec 12) (pa : Nat) (op : RemoteOp)
  | answer (id : Nat) (ans : RemoteAnswer)
  | coll (m : CollMsg)
  | drained (src : Nat) (step : DWord)
  | fragment (src : Nat) (id : Nat) (pa : Nat) (bytes : Option (List Byte)) (tag : BitVec 16)
  | fragmentsAccepted (src : Nat) (step : DWord)
  | roundAdopt (src : Nat) (ctx : BitVec 6) (region : BitVec 12) (round : Word)
  | roundAck (src : Nat) (ctx : BitVec 6) (region : BitVec 12) (round : Word)
  | roundDemand (src : Nat) (ctx : BitVec 6) (region : BitVec 12) (need : Word)
deriving DecidableEq, Repr

/-- What an NCU operation serves (R228): one part of a load, a message in flight, or the eviction of a dirty L2 line. -/
inductive NcuOp
  | loadPart (req : Nat) (lane : Nat)
  | message (id : Nat)
  | evict (line : Nat)
deriving DecidableEq, Repr

/-- Where a double-bit error of a core was detected (R401), or which ECC word of memory has lost a bit, or more (`none`, R398). -/
inductive EccTarget
  | register (gid : Nat)
  | scratch (team : Nat) (word : Nat)
  | l1 (core : CoreKey) (line : Nat) (word : Nat)
  | memory (word : Nat) (bit : Option Nat)
deriving DecidableEq, Repr

/-- How a package came to be declared lost (R413). -/
inductive LostHow
  | silent (pkg : Nat)
  | localFailure
deriving DecidableEq, Repr

end Sys2Proof
end

