-- ==== Sys2Proof/Config.lean ====
section
/-!
DEFINITION. What one implementation fixes and what the spec leaves open. An opaque constant has no body that Lean can see, so
a statement proved about the machine holds for every value of it (log 3 to 5).
-/
namespace Sys2Proof.Config

/-- An undefined 32-bit value (R11), one for each ticket that the step draws from `State.fresh` (log 3). -/
opaque freeWord : Nat → Word
/-- An undefined 64-bit value (R11), one for each ticket (log 3). -/
opaque freeDWord : Nat → DWord
/-- An undefined byte (R11), one for each ticket (log 3). -/
opaque freeByte : Nat → Byte

/-- XMSS-SHAKE256_20_256 verification under the Svawen root key (R51): image bytes, answer (log 4). -/
opaque xmssVerify : List Byte → Bool
/-- The package's XMSS signature of a report under a leaf (R52): 2,820 bytes (log 4). -/
opaque xmssSign : Nat → List Byte → List Byte
/-- SHAKE256-256 (R45): 32 bytes (log 4). -/
opaque shake256 : List Byte → List Byte
/-- The security version that a firmware image carries (R51; the image format is not given) (log 4). -/
opaque imageVersion : List Byte → Word
/-- The gaffer's signed policy on mailbox requests 0x03 and 0x04 (R44, R45): whether the setting is allowed (log 5). -/
opaque policyAllows : BitVec 128 → Bool

/-- Bytes of a copy of the retirement tables (R402; the form is not given): CFGGEN, whether it is signed, entries (log 5). -/
opaque tableBytes : Word → Bool → List (Nat × Nat × Nat) → List Byte
/-- Whether the package belongs to an erasure group (R38), which is settled when its domain is brought up (log 80). -/
opaque inErasureGroup : Bool

/-- VENDOR, DEVICE, STEPPING, SERIAL and KEYDIG are fused at manufacture (R40) (log 5). -/
opaque vendor : BitVec 16
opaque device : BitVec 16
opaque stepping : BitVec 8
opaque serial : DWord
opaque keydig : BitVec 256

/-- The largest WBQ occupancy of one base die in 64-byte granule images: 8 MiB (R1). -/
def wbqGranules : Nat := 131072
/-- The quarantine length in cycles (R378). -/
def quarantine : Nat := 512
/-- The strike-free wait of `rgn` in cycles (R380). -/
def regionWait : Nat := 384

end Sys2Proof.Config
end

