-- ==== Sys2Proof/Machine/Tbl.lean ====
section
/-!
DEFINITION. Tables: sparse data by a number key, as a list of pairs. Every register file, every collection of groups, teams,
requests and messages of the machine is one. Reading what was just written, and reading elsewhere, need no assumption about
the list.
-/
namespace Sys2Proof.Machine

/-- A table from numbers to `β`. -/
abbrev Tbl (β : Type) := List (Nat × β)

/-- The entry under `k`. -/
def aget {β : Type} : Tbl β → Nat → Option β
  | [], _ => none
  | (j, w) :: t, k => if k = j then some w else aget t k

/-- The table with `v` under `k`; keys written by this operation stand in rising order. -/
def aset {β : Type} : Tbl β → Nat → β → Tbl β
  | [], k, v => [(k, v)]
  | (j, w) :: t, k, v =>
    if k = j then (k, v) :: t else if k < j then (k, v) :: (j, w) :: t else (j, w) :: aset t k v

/-- The table without `k`. -/
def adel {β : Type} : Tbl β → Nat → Tbl β
  | [], _ => []
  | (j, w) :: t, k => if k = j then adel t k else (j, w) :: adel t k

/-- The table with `f` applied under `k`, if `k` is there. -/
def amod {β : Type} (t : Tbl β) (k : Nat) (f : β → β) : Tbl β :=
  match aget t k with
  | some v => aset t k (f v)
  | none => t

end Sys2Proof.Machine
end

