-- ==== Sys2Proof/Syntax.lean ====
section
/-!
DEFINITION. The syntax of the OX9: one constructor per row of spec/opcode_table.json. The S-stream instructions carry their
fields, the L-stream instructions carry the fields of the L format, and the device and host steps carry what they act on.
-/
namespace Sys2Proof

/-- The steps of the machine (R97, R104 and the device and host steps of the opcode table), one constructor per row. -/
inductive Instr
  /-- ADD (R136). Adds two scalar registers, in 64-bit or 32-bit form, reduced modulo 2^w. -/
  | add (w : Bool) (d a b : SReg)
  /-- SUB (R136). Subtracts s[b] from s[a], modulo 2^w. -/
  | sub (w : Bool) (d a b : SReg)
  /-- MUL (R136). Writes the low w bits of the product of two scalar registers. -/
  | mul (w : Bool) (d a b : SReg)
  /-- MULH_I (R136). Writes the high w bits of the signed 2w-bit product. -/
  | mulhI (w : Bool) (d a b : SReg)
  /-- MULH_N (R136). Writes the high w bits of the unsigned 2w-bit product. -/
  | mulhN (w : Bool) (d a b : SReg)
  /-- DIV_I (R136). Signed division rounded toward zero, with fixed results for division by zero and overflow. -/
  | divI (w : Bool) (d a b : SReg)
  /-- DIV_N (R136). Unsigned division; division by zero gives all ones. -/
  | divN (w : Bool) (d a b : SReg)
  /-- REM_I (R136). Signed remainder with the dividend's sign. -/
  | remI (w : Bool) (d a b : SReg)
  /-- REM_N (R136). Unsigned remainder; division by zero gives the dividend. -/
  | remN (w : Bool) (d a b : SReg)
  /-- AND (R136). Bitwise and of two scalar registers. -/
  | and (w : Bool) (d a b : SReg)
  /-- OR (R136). Bitwise or of two scalar registers. -/
  | or (w : Bool) (d a b : SReg)
  /-- XOR (R136). Bitwise exclusive or of two scalar registers. -/
  | xor (w : Bool) (d a b : SReg)
  /-- ANDN (R136). s[a] and not s[b]. -/
  | andn (w : Bool) (d a b : SReg)
  /-- SHL (R136). Shifts left by s[b] mod w. -/
  | shl (w : Bool) (d a b : SReg)
  /-- SHR (R136). Logical right shift by s[b] mod w. -/
  | shr (w : Bool) (d a b : SReg)
  /-- SRA (R136). Arithmetic right shift by s[b] mod w. -/
  | sra (w : Bool) (d a b : SReg)
  /-- MIN_I (R136). Signed minimum. -/
  | minI (w : Bool) (d a b : SReg)
  /-- MAX_I (R136). Signed maximum. -/
  | maxI (w : Bool) (d a b : SReg)
  /-- MIN_N (R136). Unsigned minimum. -/
  | minN (w : Bool) (d a b : SReg)
  /-- MAX_N (R136). Unsigned maximum. -/
  | maxN (w : Bool) (d a b : SReg)
  /-- SLT_I (R136). Writes 1 if s[a] is less than s[b] signed, else 0. -/
  | sltI (w : Bool) (d a b : SReg)
  /-- SLT_N (R136). Writes 1 if s[a] is less than s[b] unsigned, else 0. -/
  | sltN (w : Bool) (d a b : SReg)
  /-- SEQ (R136). Writes 1 if the operands are equal, else 0. -/
  | seq (w : Bool) (d a b : SReg)
  /-- CLZ (R136). Counts the leading zero bits of s[a]. -/
  | clz (w : Bool) (d a : SReg)
  /-- POPC (R136). Counts the one bits of s[a]. -/
  | popc (w : Bool) (d a : SReg)
  /-- ADDI (R138). Adds a sign-extended 14-bit immediate to s[a]. -/
  | addi (d a : SReg) (imm : BitVec 14)
  /-- ANDI (R138). Ands s[a] with a sign-extended immediate. -/
  | andi (d a : SReg) (imm : BitVec 14)
  /-- ORI (R138). Ors s[a] with a sign-extended immediate. -/
  | ori (d a : SReg) (imm : BitVec 14)
  /-- XORI (R138). Exclusive-ors s[a] with a sign-extended immediate. -/
  | xori (d a : SReg) (imm : BitVec 14)
  /-- SHLI (R138). Shifts s[a] left by an immediate amount. -/
  | shli (d a : SReg) (n : BitVec 6)
  /-- SHRI (R138). Shifts s[a] logically right by an immediate amount. -/
  | shri (d a : SReg) (n : BitVec 6)
  /-- SRAI (R138). Shifts s[a] arithmetically right by an immediate amount. -/
  | srai (d a : SReg) (n : BitVec 6)
  /-- ROTLI (R138). Rotates s[a] left by an immediate amount. -/
  | rotli (d a : SReg) (n : BitVec 6)
  /-- LUI (R138). Writes the sign-extended 20-bit immediate shifted left by 12. -/
  | lui (d : SReg) (imm : BitVec 20)
  /-- LHI (R138). Writes the immediate into bits [63:44] of s[d] and keeps its other bits. -/
  | lhi (d : SReg) (imm : BitVec 20)
  /-- SLTI (R138). Writes 1 if s[a] is less than the signed immediate, else 0. -/
  | slti (d a : SReg) (imm : BitVec 14)
  /-- FADD (R139). Scalar FP32 addition rounded RNE. -/
  | fadd (d a b : SReg)
  /-- FSUB (R139). Scalar FP32 subtraction rounded RNE. -/
  | fsub (d a b : SReg)
  /-- FMUL (R139). Scalar FP32 multiplication rounded RNE. -/
  | fmul (d a b : SReg)
  /-- FMAC (R139). Scalar fused multiply-add into s[d], rounded once. -/
  | fmac (d a b : SReg)
  /-- FMIN (R139). Scalar minimumNumber. -/
  | fmin (d a b : SReg)
  /-- FMAX (R139). Scalar maximumNumber. -/
  | fmax (d a b : SReg)
  /-- FSQRT (R139). Correctly rounded scalar square root. -/
  | fsqrt (d a : SReg)
  /-- FDIV (R139). Correctly rounded scalar division. -/
  | fdiv (d a b : SReg)
  /-- FCVT_I (R139). Rounds an f32 RNE to an i64, saturating. -/
  | fcvtI (d a : SReg)
  /-- ICVT_F (R139). Converts an i64 to f32 rounded RNE. -/
  | icvtF (d a : SReg)
  /-- FLT (R139). Writes 1 if a is less than b as f32. -/
  | flt (d a b : SReg)
  /-- FEQ (R139). Writes 1 if a equals b as f32. -/
  | feq (d a b : SReg)
  /-- LD (R140). Scalar zero-extending load in offset, post-increment or modulo mode; a producer. -/
  | ld (size : BitVec 2) (t a : SReg) (mode : SMode)
  /-- LDX (R140). Scalar sign-extending load; a producer. -/
  | ldx (size : BitVec 2) (t a : SReg) (mode : SMode)
  /-- ST (R140). Scalar store of the low N bits of s[t]. -/
  | st (size : BitVec 2) (t a : SReg) (mode : SMode)
  /-- BR (R145). Compares two scalar registers and branches on the condition. -/
  | br (cond : BrCond) (a b : SReg) (off : BitVec 11)
  /-- JMP (R145). Jumps by a signed word offset. -/
  | jmp (off : BitVec 26)
  /-- CALL (R145). Writes the return address to s63 and jumps. -/
  | call (off : BitVec 26)
  /-- JR (R146). Jumps to the address in s[a]. -/
  | jr (a : SReg)
  /-- RET (R146). Jumps to the address in s63. -/
  | ret
  /-- DCALL (R146). Calls through the S dispatch table after the range check. -/
  | dcall (a : SReg)
  /-- DJMP (R146). Jumps through the S dispatch table after the range check. -/
  | djmp (a : SReg)
  /-- LRUN (R148). Enqueues a lane block into the group's L-queue under a guard. -/
  | lrun (g : GuardSel) (off : BitVec 21)
  /-- GSET (R149). Resolves an unresolved guard slot true if s[a] is nonzero. -/
  | gset (slot : BitVec 4) (a : SReg)
  /-- GNOT (R149). Resolves an unresolved guard slot true if s[a] is zero. -/
  | gnot (slot : BitVec 4) (a : SReg)
  /-- GFREE (R149). Returns a guard slot to unresolved, waiting while queued commands name it. -/
  | gfree (slot : BitVec 4)
  /-- MLD (R264). Enqueues a weight-latch command for the core's array. -/
  | mld (g : GuardSel) (a : SReg)
  /-- MLD_PAIR (R261). Enqueues a weight-latch command for a leader and follower array pair. -/
  | mldPair (g : GuardSel) (a : SReg)
  /-- MMUL (R267). Enqueues a stream of activation rows along K against the latched tile. -/
  | mmul (g : GuardSel) (a : SReg)
  /-- MMT (R267). Enqueues a stream of rows along N through the transposed latched tile. -/
  | mmt (g : GuardSel) (a : SReg)
  /-- MFENCE (R275). Closes and numbers the open matrix batch. -/
  | mfence (g : GuardSel) (a b : SReg)
  /-- MREL (R277). Enqueues the release of the group's arrays. -/
  | mrel (g : GuardSel)
  /-- OFENCE (R278). Enqueues an order fence in both the M-queue and the C-queue. -/
  | ofence (g : GuardSel)
  /-- CPT (R249). Enqueues a strided engine copy from an eight-register layout record. -/
  | cpt (g : GuardSel) (a b : SReg)
  /-- CPT_IDX (R253). Enqueues an indexed row gather. -/
  | cptIdx (g : GuardSel) (a b : SReg)
  /-- CPT_WS (R254). Enqueues a copy into a die's weight store. -/
  | cptWs (g : GuardSel) (a b : SReg)
  /-- CPT_P (R351). Enqueues a copy into the persistence tier with a persist scope. -/
  | cptP (g : GuardSel) (a b : SReg)
  /-- PBAR (R352). Enqueues a persist barrier that orders the group's persist-scope writes. -/
  | pbar (g : GuardSel) (b : SReg)
  /-- XMAR (R337). Enqueues a marver exchange of a multidimensional array among ranks. -/
  | xmar (g : GuardSel) (a b : SReg)
  /-- XRED (R340). Enqueues a small all-reduce across ranks. -/
  | xred (g : GuardSel) (a b : SReg)
  /-- XNORM (R342). Enqueues the clipping collective that commits NORMBOX. -/
  | xnorm (g : GuardSel) (a b : SReg)
  /-- XBAR (R341). Enqueues a domain barrier across ranks. -/
  | xbar (g : GuardSel) (a b : SReg)
  /-- FENCE_REL (R293). S-stream release fence at a scope. -/
  | fenceRel (scope : Scope)
  /-- FENCE_ACQ (R293). S-stream acquire fence at a scope. -/
  | fenceAcq (scope : Scope)
  /-- FENCE_AR (R302). S-stream fence that both releases and acquires at a scope. -/
  | fenceAr (scope : Scope)
  /-- BINIT (R289). Sends an initialise update to a barrier object. -/
  | binit (a b : SReg)
  /-- BEXP (R289). Sends an arm update adding expected bytes to a barrier. -/
  | bexp (a b : SReg)
  /-- BARR (R289). Releases and sends a group arrival to a barrier, optionally returning PHASE. -/
  | barr (d a : SReg)
  /-- BWAIT (R289). Holds the S-stream until a barrier phase has passed, then acquires. -/
  | bwait (a b : SReg)
  /-- BTEST (R289). Tests whether a barrier phase has passed, acquiring if so. -/
  | btest (d a b : SReg)
  /-- RND_REG (R314). Joins or leaves a producer slot of a round region at its home. -/
  | rndReg (d a b : SReg)
  /-- RND_ADV (R315). Releases the group's writes, arrives for the round and waits for the advance. -/
  | rndAdv (a b : SReg)
  /-- RND_GET (R321). Acquires a region's round counter and raises the core's floor. -/
  | rndGet (d a : SReg)
  /-- RND_FLR (R322). Returns and raises the core's floor for a region without an acquire. -/
  | rndFlr (d a b : SReg)
  /-- CSRR (R150). Reads a CSR into s[d]; a slow CSR makes it a producer. -/
  | csrr (d : SReg) (num : BitVec 14)
  /-- CSRW_SEMPTY (R88). Marks empty each scalar register named in the mask. -/
  | csrwSempty (a : SReg)
  /-- CSRW_CGSEED (R84). Replaces the core's converter generator state after the cycle's steps. -/
  | csrwCgseed (a : SReg)
  /-- CSRW_OVFL (R120). Clears the sticky conversion-overflow flag unless it is set in the same cycle. -/
  | csrwOvfl (a : SReg)
  /-- CSRW_NVAL (R120). Clears the sticky NaN-encoding flag unless it is set in the same cycle. -/
  | csrwNval (a : SReg)
  /-- CSRW_MOD (R151). Writes a modulo register base and nonzero length. -/
  | csrwMod (m : BitVec 3) (a : SReg)
  /-- TRAP (R153). Raises the software program trap with s[a] as TRAPADDR. -/
  | trap (a : SReg)
  /-- ERET (R154). Leaves the handler and resumes at the resume point, resuming a stopped lane block. -/
  | eret
  /-- ERET_TO (R368). Leaves the handler, resumes at s[a] and abandons a stopped lane block. -/
  | eretTo (a : SReg)
  /-- YIELD (R155). Makes the group's next S word not ready until another group issues or 64 cycles pass. -/
  | yield
  /-- EXIT (R156). Ends the group's S-stream and resolves unresolved guard slots false. -/
  | exit
  /-- KLAUNCH (R157). Releases at package scope and copies a launch record into the kernel queue. -/
  | klaunch (d a : SReg)
  /-- RGN (R380). Opens a new idempotent region after the strike-free wait. -/
  | rgn
  /-- NOP (R159). Does nothing. -/
  | nop
  /-- EVSET (R160). Releases at package scope and ORs s[a] into an event window. -/
  | evset (n : BitVec 2) (a : SReg)
  /-- L_ADD (R172). Lane addition, wrapping or saturating. -/
  | lAdd (f : LF)
  /-- L_SUB (R172). Lane subtraction, wrapping or saturating. -/
  | lSub (f : LF)
  /-- L_MUL (R172). Low 32 bits of the lane product. -/
  | lMul (f : LF)
  /-- L_MULHI (R172). High 32 bits of the 64-bit lane product. -/
  | lMulhi (f : LF)
  /-- L_MAD (R172). Low 32 bits of A times B plus C. -/
  | lMad (f : LF)
  /-- L_MADW (R174). 64-bit multiply-add into a register pair. -/
  | lMadw (f : LF)
  /-- L_AND (R172). Lane bitwise and. -/
  | lAnd (f : LF)
  /-- L_OR (R172). Lane bitwise or. -/
  | lOr (f : LF)
  /-- L_XOR (R172). Lane bitwise exclusive or. -/
  | lXor (f : LF)
  /-- L_ANDN (R172). Lane A and not B. -/
  | lAndn (f : LF)
  /-- L_SHL (R172). Lane left shift by B mod 32. -/
  | lShl (f : LF)
  /-- L_SHR (R172). Lane right shift, arithmetic for i32. -/
  | lShr (f : LF)
  /-- L_ROTL (R172). Lane left rotation. -/
  | lRotl (f : LF)
  /-- L_MIN (R172). Lane minimum. -/
  | lMin (f : LF)
  /-- L_MAX (R172). Lane maximum. -/
  | lMax (f : LF)
  /-- L_ABS (R172). Lane absolute value, optionally saturating. -/
  | lAbs (f : LF)
  /-- L_POPC (R172). Lane population count. -/
  | lPopc (f : LF)
  /-- L_CLZ (R172). Lane leading-zero count. -/
  | lClz (f : LF)
  /-- L_BREV (R172). Lane bit reversal. -/
  | lBrev (f : LF)
  /-- L_BFE (R175). Extracts a bit field. -/
  | lBfe (f : LF)
  /-- L_BFI (R175). Inserts a bit field into v[d]. -/
  | lBfi (f : LF)
  /-- L_MOV (R176). Moves a 32-bit or 64-bit value. -/
  | lMov (f : LF)
  /-- L_SEL (R176). Selects A or B by a predicate. -/
  | lSel (f : LF)
  /-- L_SREG (R177). Writes a lane context value selected by mod5. -/
  | lSreg (f : LF)
  /-- L_DP4 (R174). Four-element packed dot product plus C. -/
  | lDp4 (f : LF)
  /-- L_DIV (R172). Lane 32-bit division. -/
  | lDiv (f : LF)
  /-- L_REM (R172). Lane 32-bit remainder. -/
  | lRem (f : LF)
  /-- L_CMP (R179). Compares A with B into a predicate, optionally combined. -/
  | lCmp (f : LF)
  /-- L_PAND (R180). Predicate and with optional negations. -/
  | lPand (f : LF)
  /-- L_POR (R180). Predicate or with optional negations. -/
  | lPor (f : LF)
  /-- L_PXOR (R180). Predicate exclusive or with optional negations. -/
  | lPxor (f : LF)
  /-- L_PNOT (R180). Predicate negation. -/
  | lPnot (f : LF)
  /-- L_PTOV (R180). Copies one or all predicates into a lane register. -/
  | lPtov (f : LF)
  /-- L_VTOP (R180). Sets one or all predicates from a lane register. -/
  | lVtop (f : LF)
  /-- L_PSET (R180). Sets a predicate to a constant. -/
  | lPset (f : LF)
  /-- L_BRA (R182). Branches the performing lanes to a relative target. -/
  | lBra (f : LF)
  /-- L_CALL (R182). Calls: writes the return offset, increments depth and branches. -/
  | lCall (f : LF)
  /-- L_RET (R182). Returns: decrements depth and jumps to v[a]. -/
  | lRet (f : LF)
  /-- L_DCALL (R182). Calls through the L dispatch table after the range check. -/
  | lDcall (f : LF)
  /-- L_DJMP (R182). Jumps through the L dispatch table after the range check. -/
  | lDjmp (f : LF)
  /-- L_LEND (R183). Makes the performing lanes at-end; the block ends when every slice is done. -/
  | lLend (f : LF)
  /-- L_DEMOTE (R165). Demotes the performing live lanes. -/
  | lDemote (f : LF)
  /-- L_EXIT (R166). Exits the performing lanes and lowers the team's LIVE count. -/
  | lExit (f : LF)
  /-- L_BARR (R291). Releases and sends the performing lanes' arrivals to their barriers. -/
  | lBarr (f : LF)
  /-- L_BWAIT (R292). Holds the sub-gang until each lane's barrier phase has passed, then acquires. -/
  | lBwait (f : LF)
  /-- L_FENCE (R293). Lane release, acquire or both fence at a scope. -/
  | lFence (f : LF)
  /-- L_RGN (R185). Opens an idempotent region where the group is one sub-gang. -/
  | lRgn (f : LF)
  /-- L_TRAP (R185). Raises the software trap with the lowest performing lane's operand. -/
  | lTrap (f : LF)
  /-- L_NOP (R182). Does nothing. -/
  | lNop (f : LF)
  /-- L_REGANG (R186). Holds its sub-gang until the slices gather or n cycles pass, then acts as nop. -/
  | lRegang (f : LF)
  /-- L_FADD (R190). FP32 addition under the rounding code. -/
  | lFadd (f : LF)
  /-- L_FSUB (R190). FP32 subtraction under the rounding code. -/
  | lFsub (f : LF)
  /-- L_FMUL (R190). FP32 multiplication under the rounding code. -/
  | lFmul (f : LF)
  /-- L_FMA (R190). FP32 fused multiply-add rounded once. -/
  | lFma (f : LF)
  /-- L_FMIN (R190). FP32 minimumNumber. -/
  | lFmin (f : LF)
  /-- L_FMAX (R190). FP32 maximumNumber. -/
  | lFmax (f : LF)
  /-- L_FRCP (R190). Correctly rounded reciprocal. -/
  | lFrcp (f : LF)
  /-- L_FRSQRT (R190). Correctly rounded reciprocal square root. -/
  | lFrsqrt (f : LF)
  /-- L_FSQRT (R190). Correctly rounded square root. -/
  | lFsqrt (f : LF)
  /-- L_FDIV (R190). Correctly rounded division. -/
  | lFdiv (f : LF)
  /-- L_FEXP2 (R190). Correctly rounded 2 to the power A. -/
  | lFexp2 (f : LF)
  /-- L_FLOG2 (R190). Correctly rounded base-2 logarithm. -/
  | lFlog2 (f : LF)
  /-- L_FRINT (R191). Rounds to an integral f32. -/
  | lFrint (f : LF)
  /-- L_FCVT_I (R191). Converts f32 to a clamped i32 or n32. -/
  | lFcvtI (f : LF)
  /-- L_ICVT_F (R191). Converts i32 or n32 to f32. -/
  | lIcvtF (f : LF)
  /-- L_FSCALE (R191). Multiplies A by 2 to the power B. -/
  | lFscale (f : LF)
  /-- L_FCLASS (R192). Writes the one-hot class mask of A. -/
  | lFclass (f : LF)
  /-- L_HADD2 (R193). Packed BF16 addition. -/
  | lHadd2 (f : LF)
  /-- L_HMUL2 (R193). Packed BF16 multiplication. -/
  | lHmul2 (f : LF)
  /-- L_HFMA2 (R193). Packed BF16 fused multiply-add. -/
  | lHfma2 (f : LF)
  /-- L_CVT (R194). Converts between FP32, BF16 and the 8-bit formats. -/
  | lCvt (f : LF)
  /-- L_PACK (R195). Packs two elements into v[d]. -/
  | lPack (f : LF)
  /-- L_UNPK (R196). Extracts one element of A. -/
  | lUnpk (f : LF)
  /-- L_NQENC (R197). Encodes one NQ4 element. -/
  | lNqenc (f : LF)
  /-- L_NQDEC (R197). Decodes one NQ4 element to f32. -/
  | lNqdec (f : LF)
  /-- L_NQSCL (R197). Computes an NQ4 block scale. -/
  | lNqscl (f : LF)
  /-- L_RHASH (R198). Writes the counter-based hash H(key, counter) to a pair. -/
  | lRhash (f : LF)
  /-- L_SRBITS (R199). Rounds stochastically with bits that the program supplies. -/
  | lSrbits (f : LF)
  /-- L_XLANE (R203). Moves A between lanes within a segment. -/
  | lXlane (f : LF)
  /-- L_CANVASS (R204). Gathers a predicate over the active lanes. -/
  | lCanvass (f : LF)
  /-- L_RDC (R205). Reduces A over the group in the fixed tree. -/
  | lRdc (f : LF)
  /-- L_RDCX (R206). Finds the extreme value of A with its index. -/
  | lRdcx (f : LF)
  /-- L_SCAN (R207). Writes an inclusive or exclusive prefix fold. -/
  | lScan (f : LF)
  /-- L_VTOS (R208). Writes one lane's value to a scalar register after convergence. -/
  | lVtos (f : LF)
  /-- L_BCAST (R209). Broadcasts one lane's A to every active lane. -/
  | lBcast (f : LF)
  /-- L_LD (R238). Lane load; a producer. -/
  | lLd (f : LF)
  /-- L_ST (R238). Lane store, partially performed on a fault. -/
  | lSt (f : LF)
  /-- L_LDS (R240). Scratchpad load in offset, post-increment or modulo mode. -/
  | lLds (f : LF)
  /-- L_STS (R240). Scratchpad store in offset, post-increment or modulo mode. -/
  | lSts (f : LF)
  /-- L_LDB (R319). Bounded load served by any copy whose round tag meets the need, in stall or now mode. -/
  | lLdb (f : LF)
  /-- L_LDACQ (R238). Lane load that acquires at a scope. -/
  | lLdacq (f : LF)
  /-- L_STREL (R238). Lane store that releases at a scope. -/
  | lStrel (f : LF)
  /-- L_LDWS (R239). Lane load from the own die's weight store. -/
  | lLdws (f : LF)
  /-- L_LDCL (R241). Load from a cluster member's scratchpad. -/
  | lLdcl (f : LF)
  /-- L_STCL (R241). Store into a cluster member's scratchpad. -/
  | lStcl (f : LF)
  /-- L_ATOM (R243). Atomic read-modify-write at each lane's home. -/
  | lAtom (f : LF)
  /-- L_ACAS (R244). Atomic compare-and-swap at the home. -/
  | lAcas (f : LF)
  /-- L_APUSH (R245). Combines lanes per address and sends non-returning reductions. -/
  | lApush (f : LF)
  /-- L_CPL (R247). Per-lane copy between scratchpad and a generic address with barrier credit. -/
  | lCpl (f : LF)
  /-- L_SPATOM (R246). Atomic on scratchpad at the owning core. -/
  | lSpatom (f : LF)
  /-- ILLEGAL_INSTRUCTION (R98). An S word that matches no instruction or breaks a field rule, including csrw to an RO or absent CSR, raises the illegal-instruction trap when it comes to issue. -/
  | illegalInstruction (word : Word)
  /-- ILLEGAL_LANE_INSTRUCTION (R105). A lane instruction with an absent op10 or an illegal field raises the illegal-instruction trap for every active lane of the sub-gang that fetches it. -/
  | illegalLaneInstruction (w0 w1 w2 : Word)
  /-- PACKAGE_RESET (R2). Power-on of the package restarts counts, boots the gaffer and loads the retirement tables. -/
  | packageReset
  /-- POWER_FAILURE (R349). Every WBQ stops accepting at one instant and drains into the modules. -/
  | powerFailure
  /-- HOST_LINK_TRAINING (R42). Link training sets the negotiated width, rate and protocols of the host port. -/
  | hostLinkTraining (width rate : Nat) (flit cxlIo cxlCache cxlMem ide : Bool)
  /-- HOST_BAR2_REQUEST (R42). A host read or write through the second memory BAR reaches HBM4E under the world check. -/
  | hostBar2Request (off : BitVec 36) (rw : HostRw)
  /-- HOST_CXL_MEM_REQUEST (R47). A host CXL.mem access reaches the persistence tier; writes are accepted before completion returns. -/
  | hostCxlMemRequest (x : Nat) (rw : HostRw)
  /-- HOST_CXL_CACHE_SNOOP (R230). A host snoop or write under CXL.cache reaches the home slice and invalidates the L2 copy. -/
  | hostCxlCacheSnoop (pa : Nat) (bytes : Option (List Byte))
  /-- GLOBAL_PERSISTENT_FLUSH (R362). Writes back every dirty granule of the tier in L2 and L3. -/
  | globalPersistentFlush
  /-- GPF_COMPLETE (R362). The flush completes once its images are accepted; GPFCOUNT and GPFOK update. -/
  | gpfComplete
  /-- HWIN_WRITE (R42). Moves the HBM4E window of the second memory BAR for later requests. -/
  | hwinWrite (v : DWord)
  /-- LOAD_FIRMWARE (R51). Mailbox request 0x01: verifies and installs a signed firmware image. -/
  | loadFirmware
  /-- ATTEST (R52). Mailbox request 0x02: writes a signed attestation report, subject to spacing and leaves. -/
  | attest
  /-- SET_CONTEXT_WORLD (R45). Mailbox request 0x03: sets a disabled idle context's SECURE bit. -/
  | setContextWorld
  /-- SET_WINDOW (R45). Mailbox request 0x04: programs a world window of a base die, refusing overlaps. -/
  | setWindow
  /-- RETRY (R372). Park action 0: reissues the faulted instruction or restarts the wait. -/
  | retry
  /-- CONTINUE (R372). Park action 1: resumes after the faulted instruction. -/
  | continue
  /-- KILL (R373). Park action 2: retires the parked group, exits its lanes and drops unstarted commands. -/
  | kill
  /-- DELIVER (R372). Park action 3: delivers the fault to the handler as a program trap. -/
  | deliver
  /-- MAILBOX_REQUEST_END (R44). The gaffer ends a request, writes STATUS, WAITS and RESP, sets DONE and signals source 4. -/
  | mailboxRequestEnd
  /-- CONTEXT_ENABLE (R54). Writing EN := 1 enables the context's queues. -/
  | contextEnable (c : BitVec 6)
  /-- CONTEXT_DISABLE (R54). Writing EN := 0 discards unstarted launches with status 0x11 and empties the queues. -/
  | contextDisable (c : BitVec 6)
  /-- GENBUMP (R219). Starts a generation advance for the context across the package. -/
  | genbump (c : BitVec 6)
  /-- GENBUMP_CORE_ADOPT (R219). A core adopts the new generation, writes back and invalidates the context's L1 lines. -/
  | genbumpCoreAdopt (c : BitVec 6) (core : CoreKey)
  /-- GENBUMP_CORE_REPORT (R219). A core reports phase 1 done once its write-backs are acknowledged. -/
  | genbumpCoreReport (c : BitVec 6) (core : CoreKey)
  /-- GENBUMP_PHASE2 (R219). Homes, controllers and engines adopt the new generation and GEN shows it. -/
  | genbumpPhase2 (c : BitVec 6)
  /-- TAIL_WRITE (R56). Advances a launch queue's TAIL, submitting records or overflowing. -/
  | tailWrite (c : BitVec 6) (q : BitVec 3) (v : Word)
  /-- CQHEAD_WRITE (R62). Consumes completion records and lets held records be written. -/
  | cqheadWrite (c : BitVec 6) (v : Word)
  /-- CQERR_CLEAR (R62). Clearing CQERR makes the device write the held completion records again. -/
  | cqerrClear (c : BitVec 6)
  /-- EVSET_WRITE (R58). Host sets event bits in one indivisible update. -/
  | evsetWrite (c : BitVec 6) (v : BitVec 256)
  /-- EVCLR_WRITE (R58). Host clears event bits in one indivisible update. -/
  | evclrWrite (c : BitVec 6) (v : BitVec 256)
  /-- ARM (R358). Arms the lehr capture of step SSTEP into its slot. -/
  | arm
  /-- STEPLOAD (R356). Sets NORMBOX.STEP when no team is resident and no xnorm is outstanding. -/
  | stepload (x : DWord)
  /-- OPTLOAD (R356). Sets NORMBOX.OPTSTEP when no team is resident and no xnorm is outstanding. -/
  | optload (x : DWord)
  /-- RECOVERY_GO (R417). Starts the adopter's recovery of a lost member's shard. -/
  | recoveryGo
  /-- REGISTER_WRITE (R13). A write to any register without a row of its own, per its access code. -/
  | registerWrite (r : HostReg) (v : DWord)
  /-- QUEUE_SLOT_READ (R56). The distributor reads a queue slot's record, checks it, accepts or rejects it and releases the slot. -/
  | queueSlotRead (c : BitVec 6) (q : BitVec 3)
  /-- KERNEL_QUEUE_TAKE (R59). The distributor takes the kernel queue head, checks and accepts or rejects it. -/
  | kernelQueueTake (c : BitVec 6)
  /-- LAUNCH_START (R57). Tests WAIT against EVVAL and, indivisibly, applies CLEAR and starts the candidate. -/
  | launchStart (c : BitVec 6) (q : BitVec 4)
  /-- AGEING_STEP (R70). Every 2^20 cycles a waiting launch's effective priority rises by one. -/
  | ageingStep (launch : Nat)
  /-- CLUSTER_PLACE (R72). Places a whole cluster on a free rectangle, charging budgets and assigning slice homes. -/
  | clusterPlace (launch : Nat) (die col row : Nat)
  /-- PLACEMENT_RESERVATION (R73). After 2^22 cycles of failing to fit, lower-eff placements stop until it is placed. -/
  | placementReservation (launch : Nat)
  /-- PREEMPT (R76). Selects victim clusters and stops their issue at an instruction boundary. -/
  | preempt (launch : Nat) (victim cluster : Nat)
  /-- PREEMPT_SAVE (R77). Once producers land and started commands complete, saves the cluster state and returns resources. -/
  | preemptSave (launch : Nat) (cluster : Nat)
  /-- CLUSTER_RESUME (R78). Resumes a pre-empted cluster on a free rectangle, re-latching saved array tiles. -/
  | clusterResume (launch : Nat) (cluster die col row : Nat)
  /-- DIE_RENUMBER (R66). A die's new logical mesh takes effect once no team is resident there. -/
  | dieRenumber (die : Nat)
  /-- LAUNCH_COMPLETE (R62). ORs SET into EVVAL, writes the completion record, advances CQTAIL and signals CQVEC. -/
  | launchComplete (launch : Nat)
  /-- GROUP_RETIRE (R156). After its queues, blocks and producers settle, the group retires and returns its registers. -/
  | groupRetire (gid : Nat)
  /-- PRODUCER_LAND (R86). A long-latency result lands in every lane it writes and marks its destination full. -/
  | producerLand (id : Nat)
  /-- QUARANTINE_LEAVE (R378). A side-effecting instruction leaves the quarantine 512 cycles after issue and is performed or sent. -/
  | quarantineLeave (gid : Nat)
  /-- L1_WRITE_BACK (R222). A core sends a line's dirty words with a word mask to the home. -/
  | l1WriteBack (core : CoreKey) (line : Nat) (evict : Bool)
  /-- PAGE_WALK (R217). A walker completes a table walk, filling TLBs or faulting. -/
  | pageWalk (core : CoreKey) (c : BitVec 6) (ea : DWord)
  /-- LATE_FAULT (R144). A home rejects an access or returns faulting data and the group's S-issue stops. -/
  | lateFault (id : Nat) (lane : Nat)
  /-- STALE_GENERATION_REJECT (R375). A home rejects a stale-generation access and the core stops the group's streams. -/
  | staleGenerationReject (id : Nat) (lane : Nat)
  /-- STALE_GENERATION_REISSUE (R375). Once outstanding accesses settle, rejected accesses are retranslated and reissued in order. -/
  | staleGenerationReissue (gid : Nat)
  /-- BARRIER_HANG (R89). A counted wait exceeds HANGLIM and the group parks with the barrier-hang fault. -/
  | barrierHang (gid : Nat)
  /-- ROUND_HANG (R320). A held bounded load or rnd.adv wait exceeds HANGLIM and the group parks. -/
  | roundHang (gid : Nat)
  /-- YIELD_EXPIRY (R155). 64 cycles after a yield the group's next S word becomes eligible. -/
  | yieldExpiry (gid : Nat)
  /-- REGANG_TIMEOUT (R186). n cycles after reaching regang the sub-gang issues it as nop. -/
  | regangTimeout (gid : Nat) (pc : Word) (depth : Nat)
  /-- GFREE_RELEASE (R92). Once no queued command names the slot, gfree returns it to unresolved. -/
  | gfreeRelease (gid : Nat)
  /-- RELEASE_COMPLETE (R304). The gathered query's counts match and the release's write, arrival or credit issues. -/
  | releaseComplete (id : Nat)
  /-- RGN_CHECKPOINT (R380). After 384 strike-free cycles the region's checkpoint is recorded and the log cleared. -/
  | rgnCheckpoint (gid : Nat)
  /-- STRIKE (R386). A strike report stops the zone's groups and discards their region's quarantined effects. -/
  | strike (core : CoreKey)
  /-- STRIKE_REPLAY (R386). Once released effects settle, the checkpoint is restored and the region replays. -/
  | strikeReplay (gid : Nat)
  /-- WEIGHT_STORE_REFRESH (R226). A weight-store bank enters its refresh slot. -/
  | weightStoreRefresh (die : Nat)
  /-- WEIGHT_STORE_BANK_RETURN (R226). A bank leaves refresh and waiting accesses are served in arrival order. -/
  | weightStoreBankReturn (die : Nat)
  /-- NCU_OPERATION (R228). An access, write-back or atomic arrives at its home slice and is applied indivisibly. -/
  | ncuOperation (op : NcuOp)
  /-- ACTIVE_MESSAGE (R229). A store packet arrives at its home, is applied as a masked store and acknowledged. -/
  | activeMessage (id : Nat)
  /-- CLUSTER_SCRATCHPAD_ARRIVAL (R224). A cluster scratchpad access arrives at the owning core and is performed or faults. -/
  | clusterScratchpadArrival (id : Nat) (lane : Nat)
  /-- REMOTE_ACCESS_ARRIVAL (R327). An access arriving over the fabric is generation-checked and homed on this package. -/
  | remoteAccessArrival (id : Nat)
  /-- WBQ_ACCEPT (R348). A granule image enters the write-back queue and becomes durable. -/
  | wbqAccept (granule : Nat)
  /-- LANE_BLOCK_START (R170). A block at the head of the L-queue starts once the previous block has ended. -/
  | laneBlockStart (gid : Nat)
  /-- MLD_START (R266). Claims the array, waits for earlier streams and latches the tile. -/
  | mldStart (gid : Nat)
  /-- MLD_PAIR_START (R261). Claims both arrays of a pair in one step and latches the 256 by 256 tile. -/
  | mldPairStart (gid : Nat)
  /-- MMUL_START (R268). Streams activation rows along K and sends each row's partials to the accumulator tile. -/
  | mmulStart (gid : Nat)
  /-- MMT_START (R268). Streams rows along N through the transposed tile and sends partials. -/
  | mmtStart (gid : Nat)
  /-- MATRIX_ACCUMULATION (R274). A partial arrives at its home slice and is added RNE, setting OVF when not finite. -/
  | matrixAccumulation (id : Nat) (m o : Nat)
  /-- BATCH_COMPLETE (R276). The closed batch completes: barrier arrival, BATCHSTAT and any fault. -/
  | batchComplete (gid : Nat)
  /-- MREL_START (R277). Frees the group's arrays once earlier matrix commands finish with them. -/
  | mrelStart (gid : Nat)
  /-- OFENCE_START (R278). The order fence starts on reaching the head of both queues. -/
  | ofenceStart (gid : Nat)
  /-- OFENCE_COMPLETE (R278). Completes once earlier blocks have ended and their scratchpad writes are visible. -/
  | ofenceComplete (gid : Nat)
  /-- CPT_START (R252). The copy engine starts a strided copy. -/
  | cptStart (gid : Nat)
  /-- CPT_IDX_START (R253). The copy engine starts an indexed row gather. -/
  | cptIdxStart (gid : Nat)
  /-- CPT_WS_START (R254). Checks for resident teams of the context on the die, then copies into the weight store. -/
  | cptWsStart (gid : Nat)
  /-- CPT_P_START (R351). The copy engine starts a persist-scoped copy into the tier. -/
  | cptPStart (gid : Nat)
  /-- COPY_ELEMENT_LAND (R257). A copy element lands and its bytes are credited to the barrier. -/
  | copyElementLand (id : Nat) (j i e : Nat) (fetch : Bool)
  /-- COPY_COMPLETE (R255). The copy writes COPYSTAT and the group takes any recorded fault. -/
  | copyComplete (id : Nat)
  /-- PBAR_START (R352). The persist barrier starts at the head and holds later persist writes. -/
  | pbarStart (gid : Nat)
  /-- PBAR_COMPLETE (R352). Earlier blocks, commands and persist writes settle; held writes are released. -/
  | pbarComplete (gid : Nat)
  /-- BARRIER_INITIALISE (R284). A binit update arrives at the owning core and writes the barrier fields. -/
  | barrierInitialise (id : Nat)
  /-- BARRIER_ARM (R285). A bexp update adds expected bytes and tests the phase. -/
  | barrierArm (id : Nat)
  /-- LANE_ARRIVAL (R285). Lane arrivals of one issue add to ARRCNT and test the phase. -/
  | laneArrival (id : Nat)
  /-- GROUP_ARRIVAL (R285). A group arrival adds one to ARRCNT and tests the phase. -/
  | groupArrival (id : Nat)
  /-- BARRIER_CREDIT (R257). Copy credit adds bytes to BYTCNT and tests the phase. -/
  | barrierCredit (id : Nat)
  /-- XMAR_START (R338). The collective engine takes an instance number and sends the rank's pieces. -/
  | xmarStart (gid : Nat)
  /-- XMAR_PIECE_ARRIVAL (R338). An arriving flit's elements are placed by the layout unit once the receiver has started. -/
  | xmarPieceArrival (id : Nat) (src index : Nat)
  /-- XRED_START (R340). The engine starts a small all-reduce instance. -/
  | xredStart (gid : Nat)
  /-- XNORM_START (R343). Forms the rank's flag, optionally clears OVFL and OVF, and sends PSQ to rank 0. -/
  | xnormStart (gid : Nat)
  /-- XNORM_RESULT (R343). Rank 0 forms SQ, SKIPV and MULT and sends the result. -/
  | xnormResult (id : Nat)
  /-- XNORM_COMMIT (R344). On the commit each rank replaces NORMBOX, arrives and writes COLLSTAT. -/
  | xnormCommit (id : Nat)
  /-- XBAR_START (R341). Releases at domain scope and enters the domain barrier instance. -/
  | xbarStart (gid : Nat)
  /-- COLLECTIVE_COMPLETE (R335). An instance completes on a rank: results written, barrier credited, COLLSTAT written. -/
  | collectiveComplete (id : Nat)
  /-- ROUND_ADVANCE (R312). The region home starts advancing RC and sends adopt to the line homes. -/
  | roundAdvance (c : BitVec 6) (region : BitVec 12)
  /-- ROUND_ADOPT (R312). A line home sets its RCL to the new round and acknowledges. -/
  | roundAdopt (c : BitVec 6) (region : BitVec 12) (die slice : Nat)
  /-- ROUND_ADVANCE_COMMIT (R312). All acknowledgements in, RC advances, ARR clears and waiting rnd.adv complete. -/
  | roundAdvanceCommit (c : BitVec 6) (region : BitVec 12)
  /-- LDB_HELD_SERVE (R319). A held bounded-load request is served once RCL meets its need. -/
  | ldbHeldServe (id : Nat) (lane : Nat)
  /-- FLIT_RECEIVE (R328). A fabric port checks a flit and retries it on failure, delivering once in order. -/
  | flitReceive (port : Nat) (good : Bool) (msg : FabricMsg)
  /-- FABRIC_LANE_FAILURE (R328). A repeatedly failing lane is retired; a port below 6 lanes is retired whole. -/
  | fabricLaneFailure (port : Nat)
  /-- FABRIC_PORT_STATE_CHANGE (R329). A port's LANES or UP changes and interrupt source 2 signals. -/
  | fabricPortStateChange (port lanes : Nat) (up : Bool) (peer pport : Nat)
  /-- PACKAGE_LOST (R413). A package is declared lost, by local failure or 10 ms of fabric silence. -/
  | packageLost (how : LostHow)
  /-- LEHR_CAPTURE_START (R358). At the commit ending step s the lehr records CSTEP and begins copy-on-write and sweep. -/
  | lehrCaptureStart (line : Nat)
  /-- LEHR_DRAIN (R358). Writes back old dirty granules and, once earlier writes settle, sends drained s to the group. -/
  | lehrDrain
  /-- DRAINED_MESSAGE (R358). A drained s message arrives from a package of the snapshot group. -/
  | drainedMessage
  /-- LEHR_COMPLETE (R359). Writes the VALID header, then the snapshot completion record, and clears BUSY. -/
  | lehrComplete
  /-- CULLET_ENCODE (R416). After a capture, invalidates PROT and writes erasure fragments to the members. -/
  | culletEncode (stripe : Nat)
  /-- CULLET_PROTECT (R416). Once every member reports its fragments accepted, PROT is set valid for the step. -/
  | culletProtect
  /-- RECOVERY_SERVE (R417). The adopter takes the newest protected step and sets SERVING. -/
  | recoveryServe
  /-- STRIPE_REBUILD (R418). The adopter rebuilds a stripe from 12 fragments, or sets FAILED. -/
  | stripeRebuild (stripe : Nat) (fragments : List (Nat × List Byte))
  /-- REBUILD_DONE (R417). All stripes rebuilt, the adopter sets DONE. -/
  | rebuildDone
  /-- REGISTER_ECC_ERROR (R401). A detected double-bit error parks the group, poisons scratchpad or refetches L1. -/
  | registerEccError (target : EccTarget)
  /-- PATROL_SCRUB (R398). The scrubber reads an ECC word and writes back a corrected one. -/
  | patrolScrub (word : Nat)
  /-- CORE_RETIRE (R405). A failed core is retired; its groups park with 0x0D and its scratchpads are lost. -/
  | coreRetire (core : CoreKey)
  /-- L2_SLICE_FAILURE (R406). A failed slice hands its number to a spare and its dirty lines are poisoned. -/
  | l2SliceFailure (die slice : Nat)
  /-- SLICE_480_SWITCH (R406). With spares exhausted, after drains the die moves from 512 to 480 slices. -/
  | slice480Switch (die : Nat)
  /-- PSEUDO_CHANNEL_FAILURE (R407). A failed pseudo-channel is retired, lines move and HBMSIZE shrinks. -/
  | pseudoChannelFailure (stack : Nat) (lines : List Nat)
  /-- DIE_LOSS (R410). A lost compute die is stopped, its lines poisoned and its granules rehomed on SIB. -/
  | dieLoss (die : Nat)
  /-- RETIREMENT_TABLE_UPDATE (R402). Once the new table copy is accepted, CFGGEN rises and source 0 signals. -/
  | retirementTableUpdate
deriving DecidableEq, Repr

end Sys2Proof
end

