-- ==== Sys2Proof/Machine/Records.lean ====
section
/-!
DEFINITION. The records that the state of the machine is made of: what the spec gives a lane, a group, a team, a core, a die,
a context, a launch, an engine command, a message in flight, a capability.
-/
namespace Sys2Proof.Machine

/-! ## Traps and waits -/

/-- What a trap or fault writes into TRAPCAUSE, TRAPPC, TRAPLPC and TRAPADDR (R364), before delivery is decided; `issue` is the
issue whose homes rejected an access (R237). -/
structure Cause where
  code : BitVec 8
  sub : BitVec 8 := 0
  lane : Bool := false
  late : Bool := false
  pc : DWord
  lpc : Word := 0xFFFFFFFF
  addr : DWord := 0
  donemask : DWord := 0
  issue : Option Nat := none
deriving DecidableEq, Repr

/-- The trap registers of a group (R83): TRAPCAUSE, TRAPPC, TRAPLPC, TRAPADDR, DONEMASK, TRAPRP. -/
structure TrapRegs where
  cause : DWord := 0
  pc : DWord := 0
  lpc : DWord := 0
  addr : DWord := 0
  donemask : DWord := 0
  rp : DWord := 0
deriving DecidableEq, Repr

/-- A sticky flag (R120): whether it stood set before the cycle `at_`, and that cycle when it was set in it. -/
structure Flag where
  old : Bool := false
  at_ : Option Nat := none
deriving DecidableEq, Repr

/-- Which watchdog counts a wait (R451). -/
inductive HangKind | none | barrier | round
deriving DecidableEq, Repr

/-- A wait of a group (R87, R202, R262, R287, R320): since which cycle, which instruction, who counts it; `seen` is the last cycle in
which it was found still to stand. -/
structure Wait where
  since : Nat
  kind : HangKind
  pc : DWord
  lpc : Word := 0xFFFFFFFF
  addr : DWord := 0
  seen : Nat := since
deriving DecidableEq, Repr

/-- A word of the S-stream that has begun and holds the stream (fences, `klaunch`, `evset`, round instructions, `rgn`, `gfree`):
its address, how far it is, and the release or message that it waits for. -/
structure SHold where
  pc : DWord
  stage : Nat
  since : Nat
  ids : List Nat := []
  val : DWord := 0
deriving DecidableEq, Repr

/-- A parked group (R369): what parked it. -/
structure Park where
  cause : Cause
  nest : Bool
  precise : Bool
  system : Bool
deriving DecidableEq, Repr

/-! ## Lanes and slices -/

/-- The life state of a lane (R161). -/
inductive Life | live | demoted | exited
deriving DecidableEq, Repr

/-- One lane: its written registers, its predicates p23 to p0, its life state, whether it is at-end in the block. A register
that nothing wrote reads as the free value of `seed` plus its number (R30). `relPend` is the scope of a fence whose release the lane's next
write makes (R294). -/
structure Lane where
  regs : Tbl Word := []
  preds : BitVec 24 := 0
  life : Life := .live
  atEnd : Bool := false
  seed : Nat := 0
  relPend : Option Scope := none
deriving DecidableEq, Repr

/-- A state of a slice sequencer (R167). -/
structure SliceState where
  pc : Word
  depth : Nat
  mask : BitVec 4
deriving DecidableEq, Repr

/-- The running lane block of a group (R108): its queue entry, its start offset, whether a trap has stopped it, whether that was a lane trap
(R392). -/
structure Block where
  cmd : Nat
  start : Word
  stopped : Bool := false
  byLane : Bool := false
deriving DecidableEq, Repr

/-- The fault of a partially performed instruction at its issue, which is raised once the lanes sent have been answered (R237): its cause and
address, and the lane. -/
structure Pend where
  code : BitVec 8
  ea : DWord
  lane : Nat
deriving DecidableEq, Repr

/-- What is kept for a sub-gang while it stands at one instruction: passed-over cycles (R109), the cycle at which a `regang` ends
(R186), the release that a fence has begun with the lanes it covers (R298), the lanes that a partially performed instruction has sent with the
number of its issue and its fault while the homes have not answered (R237), whether it stands where a lane fault has stopped the block. -/
structure SubGang where
  pc : Word
  depth : Nat
  passed : Nat := 0
  regang : Option Nat := none
  rel : Option (Nat × List Nat) := none
  done : DWord := 0
  issue : Option Nat := none
  pend : Option Pend := none
  stuck : Bool := false
deriving DecidableEq, Repr

/-! ## Commands -/

/-- The kinds of queued command (R90). -/
inductive CmdKind
  | lrun | mld | mldPair | mmul | mmt | mfence | mrel | ofence | cpt | cptIdx | cptWs | cptP | pbar | xmar | xred | xnorm | xbar
deriving DecidableEq, Repr

/-- A queued command (R81, R90): its guard slot, its S word's address, the registers read at issue, its scalar destination.
`batch` is the batch of a matrix command (R275), `released` says that it has left the quarantine (R378), `ordinal`
places it in its region (R383), `stamp` is the write stamp at its issue (R280),
`started` says that its engine runs it, `req` are the reads of its tile (R265), `pool` names the queues in
which it holds an entry of the shared pool (R91), `later` is the issue number at which the first lane block after an `ofence` started (R278). -/
structure Cmd where
  kind : CmdKind
  guard : Option Nat
  pc : DWord
  args : List DWord := []
  dst : SReg := 0
  batch : Nat := 0
  released : Bool := false
  ordinal : Nat := 0
  stamp : Nat := 0
  started : Bool := false
  req : Option Nat := none
  pool : List Nat := []
  later : Option Nat := none
deriving DecidableEq, Repr

/-! ## Accesses -/

/-- Where an access is performed (R211, R215): a package-physical address of this package, one of another package, a team's
scratchpad, or already answered. -/
inductive Place
  | home (pa : Nat)
  | remote (pkg : Nat) (pa : Nat)
  | scratch (team off : Nat)
deriving DecidableEq, Repr

/-- How a page is reached (R217): NC and HOSTP. -/
structure PageAttr where
  nc : Bool := false
  hostp : Bool := false
deriving DecidableEq, Repr

/-- One part of a load or returning access: lane, offset of its bytes in the element, where it is read, and what came back:
bytes once served, or the cause that rejected it. `region` is the round region and the need (R319, R323); `fwd` holds the bytes
of the party's own quarantined writes (R379), `stale` says that the copy served had a tag below the need (R319), `asLd` that the part is served as `ld` would be: its bytes lie in
no region, or in another one than the first byte of its lane (R319). -/
structure Part where
  lane : Nat
  byteOff : Nat := 0
  n : Nat
  ea : DWord
  place : Place
  attr : PageAttr := {}
  gen : BitVec 12
  region : Option (Nat × Word) := none
  value : Option (List Byte) := none
  reject : Option (BitVec 8) := none
  sent : Option Nat := none
  fwd : List (Option Byte) := []
  stale : Bool := false
  asLd : Bool := false
deriving DecidableEq, Repr

/-- What a producer writes when it lands (R86): a scalar register, a lane register, a slow CSR, a round counter; `record` is the
record read of `klaunch` (R157), `none` a fetch from another package, `silent` an acquiring atomic that returns nothing. -/
inductive ReqDst
  | scalar (d : SReg) (sext : Bool) (size : Nat)
  | lanes (d : VReg) (size : Nat) (sext : Bool) (psel : Option (BitVec 5))
  | slowCsr (d : SReg) (num : Nat)
  | roundGet (d : SReg) (ctx : Nat) (region : Nat)
  | value (d : SReg) (v : DWord)
  | record
  | none
  | silent
deriving DecidableEq, Repr

/-- An outstanding producer of a group (R86): its destination, its parts, the instruction, the lanes it writes, the acquire it
performs when it lands (R294), its key in the release log (R383), as S ordinal or by lane. `zeros` are demoted lanes that receive zero
(R165), `atomic` marks what is answered otherwise than by serving its parts: a returning atomic, a tile read of `mld`; `faulted` a fault that has been reported; `ovfl` raises OVFL as it lands (R120). -/
structure Req where
  gid : Nat
  lane : Bool
  pc : DWord
  lpc : Word
  dst : ReqDst
  parts : List Part
  acquire : Option Scope := none
  now : Bool := false
  log : Option Nat := none
  core : CoreKey
  ctx : Nat
  since : Nat := 0
  zeros : List Nat := []
  atomic : Bool := false
  faulted : Bool := false
  llog : Tbl Nat := []
  ovfl : Bool := false
deriving DecidableEq, Repr

/-- What a message does where it arrives (R224, R228, R229, R285). -/
inductive MsgKind
  | store (bytes : List (Option Byte)) (persist : Nat) (writeBack : Bool)
  | atomic (op : BitVec 4) (ty : LTy) (operand comparand : DWord) (cas : Bool) (req : Option (Nat × Nat))
  | scratchStore (bytes : List Byte)
  | scratchAtomic (op : BitVec 4) (ty : LTy) (operand comparand : DWord) (req : Option (Nat × Nat))
  | barInit (v : DWord)
  | barArm (n : DWord)
  | barLanes (n : Nat)
  | barGroup (req : Option Nat) (batch : Option Nat)
  | barCredit (n : Nat) (copy : Option Nat)
  | roundReg (region : Nat) (slot : DWord) (d : SReg) (log : Option Nat)
  | roundArrive (region slot : Nat)
deriving DecidableEq, Repr

/-- A message in flight (R229, R304): who issued it, with which generation and release round, where it goes; `held` is the persist
barrier that holds it at the core (R353). `issue` numbers the instruction that issued it, `covers` are the lanes that it performs, `gang`
the lanes that its instruction was to perform and the demoted ones (R237), `ords` its ordinals in the region (R383): the stream's under 0, lane l's
under l + 1. -/
structure Msg where
  kind : MsgKind
  gid : Nat
  core : CoreKey
  ctx : Nat
  gen : BitVec 12
  ea : DWord
  place : Place
  lane : Nat := 0
  isLane : Bool := false
  pc : DWord := 0
  lpc : Word := 0xFFFFFFFF
  rho : Nat := 0
  tag : BitVec 16 := 0
  persist : Nat := 0
  hostp : Bool := false
  uoff : Nat := 0
  held : Option Nat := none
  rejected : Option (BitVec 8) := none
  sentOut : Bool := false
  issue : Nat := 0
  covers : List Nat := []
  gang : DWord := 0
  ords : List (Nat × Nat) := []
deriving DecidableEq, Repr

/-- What leaves the quarantine (R378). -/
inductive Effect
  | msg (m : Msg)
  | l1Store (m : Msg)
  | releaseThen (scope : Option Scope) (m : Msg) (team off : Nat)
  | cmd (queue : Nat) (id : Nat)
  | hold
  | perLaneCopy (toScratch : Bool) (m : Msg) (team spOff n : Nat) (bar : Option Nat) (scope : Scope)
deriving DecidableEq, Repr

/-- An entry of the quarantine: the cycle of its issue, its effect, and its place in the release log (R383): the stream
ordinal, or the lanes and their ordinals. -/
structure Quar where
  at_ : Nat
  effects : List Effect
  sOrdinal : Nat := 0
  lanes : List Nat := []
  lOrdinals : Tbl Nat := []
  sinceOpen : Bool := true
deriving DecidableEq, Repr

/-- A release that waits for its accesses to be performed (R298, R304). `after` is sent when it completes. -/
structure Release where
  gid : Nat
  core : CoreKey
  ctx : Nat
  scope : Scope
  rho : Nat
  waitIds : List Nat := []
  after : List Msg := []
deriving DecidableEq, Repr

/-! ## Cores -/

/-- A valid word of an L1 line (R221): its data and its dirty bit. -/
structure L1Word where
  data : Word
  dirty : Bool
deriving DecidableEq, Repr

/-- An L1 line (R221, R316): physical address, context, valid words by index, the region and tag of a round-region line. -/
structure L1Line where
  pa : Nat
  ctx : Nat
  words : Tbl L1Word := []
  region : Option (Nat × Word) := none
  fresh : Bool := true
deriving DecidableEq, Repr

/-- A TLB entry (R218): context, generation, page base, page size, the leaf. -/
structure TlbEntry where
  ctx : Nat
  gen : BitVec 12
  base : Nat
  size : Nat
  leaf : DWord
deriving DecidableEq, Repr

/-- A code, table or rodata word that a core has fetched and may use again (R22). -/
structure CodeWord where
  ctx : Nat
  gen : BitVec 12
  va : DWord
  data : Word
deriving DecidableEq, Repr

/-- A latched tile (R265): weight format, element codes by column n and row k, block scales, super-scales. -/
structure Tile where
  fmt : Nat
  codes : List (List Nat)
  bsc : List Nat := []
  ssc : List Word := []
deriving DecidableEq, Repr

/-- The state of a core's array (R260): the owning group, whether this array is its follower, the latched tile (kept with the
leader). -/
structure Array where
  owner : Nat
  follower : Bool
  tile : Option Tile := none
deriving DecidableEq, Repr

/-- A floor of a region on a core (R321, R323). -/
structure Floor where
  ctx : Nat
  region : Nat
  value : Word
  pending : Bool := false
deriving DecidableEq, Repr

/-- Resources of a core that returned in cycle `at_` (R75): group slots, lanes, register-lanes, a scratchpad run. -/
structure Freed where
  at_ : Nat
  slots : List Nat := []
  lanes : Nat := 0
  regs : Nat := 0
  base : Nat := 0
  size : Nat := 0
deriving DecidableEq, Repr

/-- A core of the physical mesh. `freed` holds what returned in the last cycle in which something did (R75). -/
structure Core where
  spz : Nat := 65536
  cg : DWord := 0
  cgWrite : Option (Nat × DWord) := none
  cgOld : Option (Nat × DWord) := none
  l1 : List L1Line := []
  tlb : List TlbEntry := []
  code : List CodeWord := []
  floors : List Floor := []
  pendingFloors : List Nat := []
  array : Option Array := none
  rho : Nat := 0
  sCycle : Option Nat := none
  laneCycle : Option Nat := none
  laneSlices : BitVec 16 := 0
  laneGroups : List Nat := []
  freed : List Freed := []
  dead : Bool := false
deriving DecidableEq, Repr

/-- The records of a compute die (R63, R226, R403, R404). `width` and `colmap` are the numbering in force; `dead` names the
dead cores (column, row). -/
structure Die where
  inService : Bool := true
  width : Nat := 15
  colmap : Tbl (List Nat) := []
  dead : List (Nat × Nat) := []
  renumber : Bool := false
  sib : Nat
  n480 : Bool := false
  sdead : Nat := 0
  wsOrigin : Nat := 0
  wsEpoch : Nat := 0
  wsBank : Nat := 0
  wsBusy : Bool := true
  tlb : List TlbEntry := []
deriving DecidableEq, Repr

/-! ## Launches, clusters, teams, groups -/

/-- A launch record (R24): its sixteen 64-bit words. -/
structure LaunchRec where
  w : Tbl DWord := []
deriving DecidableEq, Repr

/-- A launch (R57, R70): context, queue 0 to 8, SLOT, record; when it was accepted (A counts from `ageFrom`), whether it has
started, how many clusters it has placed, how many groups were killed, since when its next cluster fails to fit. -/
structure Launch where
  ctx : Nat
  queue : Nat
  slot : Word
  lrec : LaunchRec
  ageFrom : Nat
  aged : Nat := 0
  started : Bool := false
  placed : Nat := 0
  kills : Nat := 0
  failSince : Option Nat := none
  reserved : Bool := false
deriving DecidableEq, Repr

/-- A cluster (R72): launch, ordinal in the order of R73, physical place, its teams; `stopping` while it is being saved (R77). -/
structure Cluster where
  launch : Nat
  ord : Nat
  die : Nat
  col : Nat
  row : Nat
  teams : List Nat
  placedAt : Nat
  stopping : Bool := false
  saved : Bool := false
  savedAt : Nat := 0
deriving DecidableEq, Repr

/-- A written scratchpad byte with the stamp of its write (R280). -/
structure SpByte where
  b : Byte
  stamp : Nat := 0
deriving DecidableEq, Repr

/-- A team (R18, R223): its place in grid and cluster, its core, its scratchpad run, its LIVE count (R166), live barriers
(R284), the cycle in which an `exit` completed a phase of one (R166). A scratchpad byte that nothing wrote reads as the free byte of `seed` plus its offset (R30). `frame` is the frame of a saved team (R77), `lost` says
that its core is retired (R405). -/
structure Team where
  launch : Nat
  cluster : Nat
  member : Nat
  x : Nat
  y : Nat
  z : Nat
  core : CoreKey
  col : Nat
  row : Nat
  base : Nat
  size : Nat
  live : Nat
  groups : List Nat
  retired : Bool := false
  sp : Tbl SpByte := []
  seed : Nat := 0
  liveBars : List Nat := []
  liveDone : Tbl Nat := []
  poisoned : List Nat := []
  frame : Option Nat := none
  frameSeed : Nat := 0
  lost : Bool := false
deriving DecidableEq, Repr

/-- The registers as they stood at a region entry. The machine does not record them (R381): the model holds them to tell which of them have been
written since, whose values are undefined in a replay that reads them (R382, log 90). -/
structure Snapshot where
  sregs : Tbl DWord := []
  mods : Tbl DWord := []
  lanes : Tbl Lane := []
deriving DecidableEq, Repr

/-- What a region entry restores (R381): S resume address and whether the S-stream had ended, slice and lane states, block, L-queue with
its commands, guards, full/empty bits, batch counter, DONEMASK, the releases that fences have left to the next writes (R294). -/
structure Checkpoint where
  spc : DWord
  sExited : Bool
  slices : Tbl (List SliceState)
  lives : List (Life × Bool)
  block : Option Block
  lq : List (Nat × Cmd)
  guards : Tbl Bool
  sfe : DWord
  vfe : BitVec 256
  batchCtr : Word
  donemask : DWord
  relPend : Option Scope := none
  laneRel : List (Option Scope) := []
  regs : Snapshot := {}
deriving DecidableEq, Repr

/-- A logged returning instruction (R383, R384): by S-stream ordinal, or by lane with its ordinal; the value. -/
structure LogVal where
  lane : Option Nat
  ordinal : Nat
  value : DWord
deriving DecidableEq, Repr

/-- The idempotent region of a group (R380 to R385): checkpoint, released counts RS and RL, ordinals issued so far, logged
values, how many returning instructions it holds, how many `rnd.flr` it has issued; the first issue number after it opened; the ordinals released and
then dropped as rejected, which the replay performs (R396). -/
structure Region where
  ck : Checkpoint
  rs : Nat := 0
  rl : Tbl Nat := []
  sOrd : Nat := 0
  lOrd : Tbl Nat := []
  log : List LogVal := []
  returning : Nat := 0
  flr : Nat := 0
  opened : Nat := 0
  again : List (Nat × Nat) := []
deriving DecidableEq, Repr

/-- A group (R79, R82): its place, its S-stream, its L-stream, its queues, its traps, its quarantine, its region. `savedArray` is the array
of a saved group (R77): whether it is a pair, and its tile. `kept` is the `rnd.adv` whose wait was interrupted by a round hang (R320), `relPend` the scope of a
fence whose release the S-stream's next write makes (R294), `dmIssue` the issue whose lanes DONEMASK names (R237). -/
structure Group where
  team : Nat
  idx : Nat
  slot : Nat
  home : Nat
  since : Nat
  width : Nat
  spc : DWord
  sregs : Tbl DWord := []
  sfe : DWord := 0xFFFFFFFFFFFFFFFF
  mods : Tbl DWord := []
  guards : Tbl Bool := []
  ovfl : Flag := {}
  nval : Flag := {}
  trap : TrapRegs := {}
  inHandler : Bool := false
  sExited : Bool := false
  done : Bool := false
  park : Option Park := none
  late : List Cause := []
  hold : Option SHold := none
  lrgn : Option SHold := none
  waits : Tbl Wait := []
  yieldFrom : Option Nat := none
  lanes : Tbl Lane := []
  vfe : BitVec 256 := BitVec.allOnes 256
  slices : Tbl (List SliceState) := []
  block : Option Block := none
  gangs : List SubGang := []
  lq : List Nat := []
  mq : List Nat := []
  cq : List Nat := []
  batchCtr : Word := 0
  openBatch : Nat := 0
  quar : List Quar := []
  region : Option Region := none
  striking : Bool := false
  staleWait : Bool := false
  rejected : List Nat := []
  savedArray : Option (Bool × Option Tile) := none
  kept : Option SHold := none
  relPend : Option Scope := none
  dmIssue : Option Nat := none
deriving DecidableEq, Repr

/-! ## Engines -/

/-- A fault recorded by an engine (R256, R269): its CAUSE, S word and address; `key` orders faults of one command. -/
structure EngFault where
  key : Nat
  cause : Nat
  pc : DWord
  addr : DWord
deriving DecidableEq, Repr

/-- What has come of a copy element (R252): asked of another package, one half of 16 bytes read, read but not written (`none` bytes: poison), one half
written, sent to another package, waiting for its images, landed, faulted. -/
inductive ElemState
  | asked (id : Nat)
  | half (upper : Bool) (bytes : Option (List Byte))
  | fetched (bytes : Option (List Byte))
  | halfWritten (upper : Bool) (bytes : List Byte) (images : List Nat)
  | sent (id : Nat) (bytes : Option (List Byte))
  | awaiting (images : List Nat) (poisoned : Bool)
  | landed
  | faulted
deriving DecidableEq, Repr

/-- A running engine copy (R252 to R257) or one lane's transfer of a `cpl` (R248). Elements are numbered (j·N1 + i)·N0 + e. `rows`
holds the index read for a row of `cpt.idx` (none for a faulted read), `rowAsk` the reads asked of another package; `wsDie` is the die of
`cpt.ws`. A transfer has `perLane`, and the record [address, scratchpad offset, N, barrier offset + 1 or 0, scope code]. -/
structure Copy where
  gid : Nat
  kind : CmdKind
  pc : DWord
  args : List DWord
  dst : SReg
  core : CoreKey
  ctx : Nat
  team : Nat
  gen : BitVec 12
  elems : Tbl ElemState := []
  rows : Tbl (Option Word) := []
  rowAsk : Tbl Nat := []
  faults : List EngFault := []
  frows : List Nat := []
  oor : Bool := false
  inv : Bool := false
  psn : Bool := false
  busy : Bool := false
  wsDie : Option Nat := none
  ordinal : Nat := 0
  tag : BitVec 16 := 0
  perLane : Bool := false
  toScratch : Bool := false
  lane : Nat := 0
  lpc : Word := 0xFFFFFFFF
  issue : Nat := 0
  gang : DWord := 0
  reject : Option (BitVec 8) := none
  ords : List (Nat × Nat) := []
deriving DecidableEq, Repr

/-- A batch of matrix commands (R275, R276): its number, its closing `mfence`, the commands not yet complete, what it records,
whether the undefined values of its elements stand (R280). -/
structure Batch where
  gid : Nat
  number : Word := 0
  closed : Bool := false
  disc : Bool := false
  barw : DWord := 0
  dst : SReg := 0
  pc : DWord := 0
  pending : List Nat := []
  faults : List EngFault := []
  ovf : Bool := false
  psn : Bool := false
  ordinal : Nat := 0
  settled : Bool := false
  arriving : Option Nat := none
deriving DecidableEq, Repr

/-- An `mmul` or `mmt` from its issue to the completion of its batch (R268, R280), under its command's number: what it captured at its
start (`len` bytes of each row), and which accumulations have been applied. The partial of row m and output o is at m·outs + o. `stamp` is the scratchpad write
stamp at its issue, `touched` holds the elements that another party has written, `faulted` those whose accumulation faulted, `asked` and `hdrAsked` the accumulations and header
updates sent to another package. -/
structure Stream where
  gid : Nat
  batch : Nat
  pc : DWord
  core : CoreKey
  ctx : Nat
  gen : BitVec 12
  args : List DWord
  transposed : Bool
  outs : Nat
  rows : Nat
  len : Nat := 0
  started : Bool := false
  partials : List Word := []
  applied : List Nat := []
  stamp : Nat := 0
  tag : BitVec 16 := 0
  touched : List Nat := []
  faulted : List Nat := []
  asked : Tbl Nat := []
  hdrAsked : List Nat := []
deriving DecidableEq, Repr

/-- A running collective command on this package (R333 to R344), under its command's number. `inputs` holds what was read: the elements of
`xred`, the header addresses of `xnorm`; `srcs` the parts of the source of `xmar`; `asked` the reads, header updates and writes asked of another package, by element; `landed`
the elements that have landed (of `xnorm`: the headers read). `stage` is 0 while inputs are read, 1 once the contribution has been sent, 2 once `xnorm`
has its result, 3 once the credit or arrival of its completion has been sent. `cause` is 6 or 7 for a mismatch or a lost rank. -/
structure Coll where
  gid : Nat
  kind : CollKind
  pc : DWord
  args : List DWord
  dst : SReg
  core : CoreKey
  ctx : Nat
  team : Nat
  gen : BitVec 12
  inst : Word
  disc : Bool
  hdr : CollHdr
  since : Nat
  tag : BitVec 16 := 0
  inputs : Tbl (Option DWord) := []
  srcs : Tbl (Option (List Byte)) := []
  asked : Tbl Nat := []
  landed : List Nat := []
  faulted : List Nat := []
  faults : List EngFault := []
  psn : Bool := false
  stage : Nat := 0
  flag : Bool := false
  result : Option (Word × Word × Bool) := none
  committed : Bool := false
  relId : Option Nat := none
  ordinal : Nat := 0
  cause : Nat := 0
deriving DecidableEq, Repr

/-- An advance of a region between its steps 2 and 3 (R312). -/
structure Advance where
  ctx : Nat
  region : Nat
  to_ : Word
  homes : List Nat
  acked : List Nat := []
deriving DecidableEq, Repr

/-! ## Contexts and the host's side -/

/-- A host launch queue (R53 to R56); `part` holds the fields of the slot at HEAD that the distributor has read (R23, R55). -/
structure HostQueue where
  base : DWord := 0
  log2 : Nat := 1
  tail : Word := 0
  head : Word := 0
  part : Tbl DWord := []
  stopped : Bool := false
deriving DecidableEq, Repr

/-- A completion record (R60). -/
structure CompRec where
  typ : BitVec 8
  status : BitVec 8
  queue : BitVec 4
  slot : Word
  ctag : DWord
  time : DWord
  info : DWord
deriving DecidableEq, Repr

/-- A kernel-queue entry (R59): its record and SLOT. -/
structure KqEntry where
  lrec : LaunchRec
  slot : Word
deriving DecidableEq, Repr

/-- A generation bump in progress (R219): the new value, the first issue number after its start, cores that have adopted it, cores that have reported. -/
structure Bump where
  new : BitVec 12
  start : Nat := 0
  adopted : List Nat := []
  reported : List Nat := []
deriving DecidableEq, Repr

/-- A context block (R53); `cqAsk` is the record write that another package has still to answer (R62, R326). -/
structure Context where
  en : Bool := false
  secure : Bool := false
  halt : Bool := false
  qerr : Bool := false
  cqfull : Bool := false
  cqerr : Bool := false
  ptroot : DWord := 0
  gen : BitVec 12 := 0
  queues : Tbl HostQueue := []
  kq : List KqEntry := []
  cqbase : DWord := 0
  cqlog2 : Nat := 2
  cqhead : Word := 0
  cqtail : Word := 0
  cqvec : BitVec 9 := 0
  cqie : Bool := false
  ev : BitVec 256 := 0
  held : List CompRec := []
  cqAsk : Option Nat := none
  hanglim : DWord := 0x04000000
  bump : Option Bump := none
  bumpsPending : Nat := 0
deriving DecidableEq, Repr

/-- A region record as it is read: V, P, BASE, LEN and the counters. -/
structure RegionRec where
  pa : Nat
  p : Nat
  base : Nat
  len : Nat
  rc : Word
  reg : DWord
  arr : DWord
  ret : DWord
deriving DecidableEq, Repr

/-- Where a record lies and its validity: unreadable, invalid, or valid (R309, R310). -/
inductive RegionRead
  | bad (code : BitVec 8)
  | invalid
  | valid (r : RegionRec)
deriving DecidableEq, Repr

/-- What the device has asked of another package (R326): a field of a queue slot, to write the first held completion record, a region record for the
cores (R310), the counter of a region for a line home (R312), a record again for a group's round instruction. -/
inductive DevAsk
  | slot (ctx queue field : Nat)
  | record (ctx : Nat)
  | table (ctx region : Nat)
  | counter (ctx region : Nat)
  | reread (gid ctx region : Nat)
deriving DecidableEq, Repr

/-- An event source of capability 0x0007 (R46). -/
structure IntEntry where
  vec : BitVec 9 := 0
  en : Bool := false
  pend : Bool := false
deriving DecidableEq, Repr

/-- The gaffer mailbox (R44). -/
structure Mailbox where
  req : BitVec 128 := 0
  busy : Bool := false
  done : Bool := false
  status : BitVec 8 := 0
  waits : Word := 0
  resp : DWord := 0
  result : Option (BitVec 8 × Word × DWord) := none
  secver : Word := 0
  leaf : DWord := 0
  tableLeaf : Nat := 986176
  lastReport : Option Nat := none
  firmware : List (List Byte) := []
deriving DecidableEq, Repr

/-- A world window (R43, R49). -/
structure Window where
  en : Bool := false
  sec : Bool := false
  base : BitVec 36 := 0
  limit : BitVec 36 := 0
deriving DecidableEq, Repr

/-- The host port (R42, R43, R47); `cxlWait` holds the images of each CXL.mem write that has not completed (R347). -/
structure HostPort where
  width : Nat := 0
  rate : Nat := 0
  flit : Bool := false
  cxlIo : Bool := false
  cxlCache : Bool := false
  cxlMem : Bool := false
  ide : Bool := false
  hwin : DWord := 0
  secure : Bool := false
  gpfBusy : Bool := false
  gpfOk : Bool := false
  gpfCount : Word := 0
  gpfWait : List Nat := []
  cxlWait : List (List Nat) := []
deriving DecidableEq, Repr

/-- What the device sends the host (R42, R46, R50, R400). -/
inductive HostOut
  | data (bytes : List Byte) (poisoned : Bool)
  | completerAbort
  | writeDone
  | msix (vec : BitVec 9)
deriving DecidableEq, Repr

/-- A fabric port (R328, R329): `failed` lanes have been retired, `trained` says that it has trained since reset, `silentSince` is the last cycle in which a flit came from it. -/
structure Port where
  lanes : Nat := 0
  up : Bool := false
  peer : Nat := 0
  pport : Nat := 0
  retry : Word := 0
  failed : Nat := 0
  trained : Bool := false
  silentSince : Nat := 0
deriving DecidableEq, Repr

/-- NORMBOX (R344). -/
structure NormBox where
  sq : Word := 0
  mult : Word := 0
  skip : Bool := false
  optstep : DWord := 0
  step : DWord := 0
deriving DecidableEq, Repr

/-- The check state of an ECC word that is not clean (R397, R398). -/
inductive Ecc
  | poisoned
  | poisonedBit (bit : Nat)
  | bit (n : Nat)
  | broken
deriving DecidableEq, Repr

/-- A persist granule image (R348): granule number, bytes, poison of its two ECC words, the tag of its line (R355), and the group whose
write sent it (0 for none). -/
structure Image where
  id : Nat
  granule : Nat
  bytes : List Byte
  psn : List Bool
  tag : BitVec 16
  gid : Nat := 0
deriving DecidableEq, Repr

/-- A line copied before the slot's header has been cleared (R358, R360): its number, its bytes, the poison of its eight ECC words. The copy is
put into the slot at step 2. -/
structure EarlyLine where
  line : Nat
  bytes : List Byte
  psn : List Bool
deriving DecidableEq, Repr

/-- The snapshot capability (R356) and the lehr's run (R358 to R360). `stage` is 1 armed, 2 the cleared header sent, 4 capturing, 6 the
valid header sent, 7 the header cleared again after a failure; `hdr0`, `hdrWait`, `drainWait` are the images that it waits for: of the cleared header, of the slot, of the drain. `copied` holds the captured lines (256 bytes), `early` those of them
that were copied while the header still stood, `fail` the status of a capture that
cannot complete (R359). -/
structure Lehr where
  ctx : BitVec 6 := 0
  liveBase : BitVec 52 := 0
  liveLen : BitVec 52 := 0
  slot0 : BitVec 52 := 0
  slot1 : BitVec 52 := 0
  sstep : DWord := 0
  group : BitVec 256 := 0
  snapTag : DWord := 0
  busy : Bool := false
  stage : Nat := 0
  hdr0 : List Nat := []
  hdrWait : List Nat := []
  cstep : DWord := 0
  coptstep : DWord := 0
  committed : Bool := false
  copied : List Nat := []
  early : List EarlyLine := []
  drainWait : List Nat := []
  drainStarted : Bool := false
  drainSent : Bool := false
  drained : List Nat := []
  fail : BitVec 8 := 0
deriving DecidableEq, Repr

/-- The recovery capability (R414) and the cullet's work (R416 to R418): `stripes` are rebuilt, `failedStripes` unrecoverable, `serveStep` is the step
whose shard is rebuilt; `encoding` is the step being encoded, `later` those captured since then that wait for it, `wait` and `asked` its fragments that have not been accepted here or on other packages. -/
structure Cullet where
  member : BitVec 4 := 0
  en : Bool := false
  mempkg : BitVec 128 := 0
  frag0 : BitVec 52 := 0
  frag1 : BitVec 52 := 0
  prot0 : DWord := 0
  prot1 : DWord := 0
  lost : BitVec 4 := 0
  adopter : BitVec 4 := 0
  go : Bool := false
  serving : Bool := false
  done : Bool := false
  failed : Bool := false
  adoptBase : BitVec 52 := 0
  rebuilt : DWord := 0
  stripes : List Nat := []
  failedStripes : List Nat := []
  encoding : Option DWord := none
  later : List DWord := []
  serveStep : Nat := 0
  encoded : List Nat := []
  wait : List Nat := []
  asked : List Nat := []
  reported : Bool := false
deriving DecidableEq, Repr

/-! ## Retirement tables (R402) -/

/-- One copy of the retirement tables: CFGGEN, whether it is signed (else an extension), its entries (kind, part, item), its signature, and
whether it was written whole. -/
structure TableCopy where
  gen : Word := 0
  signed : Bool := true
  entries : List (Nat × Nat × Nat) := []
  sig : List Byte := []
  whole : Bool := true
deriving DecidableEq, Repr

/-- The retirement tables (R402): copies A and B in the reserved area, which of them is in use, the retirements in effect, and the copy
that is being written (B or not). -/
structure Tables where
  a : TableCopy := {}
  b : TableCopy := {}
  useB : Bool := false
  entries : List (Nat × Nat × Nat) := []
  writing : Option (Bool × TableCopy) := none
deriving DecidableEq, Repr

/-! ## The agenda -/

/-- Whose step comes next (log 1): a core's S-issue, a core's lane issue, or a step of the opcode table's device and host rows. -/
inductive Turn
  | sIssue (core : CoreKey)
  | lIssue (core : CoreKey)
  | event (i : Instr)
deriving DecidableEq, Repr

/-- An entry of the agenda: how many cycles pass before it, whether the code it fetches is kept for later use (R22). -/
structure Entry where
  dt : Nat := 1
  keep : Bool := false
  turn : Turn
deriving DecidableEq, Repr

/-- The stream position for which `exec` runs an instruction: the group, and for a lane instruction the sub-gang's PC and depth.
`stalled` is set by an instruction that does not issue, `keep` says that its words may be kept ones (R22). -/
structure Cur where
  gid : Nat
  sub : Option (Word × Nat) := none
  stalled : Bool := false
  keep : Bool := false
deriving DecidableEq, Repr

end Sys2Proof.Machine
end

