-- ==== Sys2Proof/Machine/State.lean ====
section
/-!
DEFINITION. The state of one OX9 package, as plain data, and the state right after package reset (R2).
-/
namespace Sys2Proof.Machine

/-- Why a step stops. -/
inductive Fault
  /-- An S-stream or L-stream instruction was given to `exec` while no group is issuing, or the issuing group does not exist.
  Raised by every S and L meaning; no run of `step` raises it, since `step` names the group. Safe. -/
  | noIssuer
deriving DecidableEq, Repr

/-- Why an instruction has no meaning. -/
inductive Refusal
  /-- The instruction has no meaning in this model yet. Safe. -/
  | notModelled (mnemonic : String)
deriving DecidableEq, Repr

/-- The state of one package. -/
structure State where
  cycle : Nat
  agenda : List Entry
  cur : Option Cur
  fresh : Nat
  nextId : Nat
  mem : List Host.Cell
  stamp : Nat
  ecc : Tbl Ecc
  tags : Tbl (BitVec 16)
  l2dirty : List Nat
  l2tierDirty : List Nat
  images : List Image
  wbq : List Image
  modules : List Host.Cell
  moduleEcc : List Nat
  moduleTags : Tbl (BitVec 16)
  powered : Bool
  ctxs : Tbl Context
  launches : Tbl Launch
  clusters : Tbl Cluster
  teams : Tbl Team
  groups : Tbl Group
  cores : Tbl Core
  dies : Tbl Die
  lastDie : Nat
  rrPos : Nat
  cmds : Tbl Cmd
  reqs : Tbl Req
  net : Tbl Msg
  rels : Tbl Release
  copies : Tbl Copy
  batches : Tbl Batch
  streams : Tbl Stream
  colls : Tbl Coll
  commCounts : Tbl Word
  collIn : List CollMsg
  rcls : Tbl Word
  advances : List Advance
  demand : List (Nat × Nat × Word)
  arrivedSince : List (Nat × Nat)
  normbox : NormBox
  windows : Tbl Window
  wfcount : Word
  mbox : Mailbox
  ints : Tbl IntEntry
  hport : HostPort
  lehr : Lehr
  cullet : Cullet
  hbmSize : Nat
  rsvSize : Nat
  cfggen : Word
  cfgPending : Nat
  pcdead : Tbl Nat
  tables : Tables
  ports : Tbl Port
  self : Nat
  domain : List Nat
  lostPkgs : List Nat
  lost : Bool
  fabricOut : List (Nat × FabricMsg)
  fabricIn : List FabricMsg
  hostOut : List HostOut
  remoteAcks : Tbl (Nat × List Nat)
  devAsks : Tbl DevAsk
  regionCopies : Tbl (BitVec 12 × Option RegionRec)
  recReads : Tbl RegionRead
  frames : List (Nat × Nat)
deriving DecidableEq, Repr

/-- The package right after power-on (R2): no context enabled, nothing resident, every register at the reset value of its map.
Values that the spec calls Boot, Link, Table or leaves out are those of log 7. -/
def State.reset : State where
  cycle := 0
  agenda := []
  cur := none
  fresh := 0
  nextId := 1
  mem := []
  stamp := 0
  ecc := []
  tags := []
  l2dirty := []
  l2tierDirty := []
  images := []
  wbq := []
  modules := []
  moduleEcc := []
  moduleTags := []
  powered := true
  ctxs := []
  launches := []
  clusters := []
  teams := []
  groups := []
  cores := []
  dies := [(0, { sib := 0 }), (1, { sib := 1 }), (2, { sib := 2 }), (3, { sib := 3 }),
    (4, { sib := 4 }), (5, { sib := 5 }), (6, { sib := 6 }), (7, { sib := 7 }),
    (8, { sib := 8 }), (9, { sib := 9 }), (10, { sib := 10 }), (11, { sib := 11 }),
    (12, { sib := 12 }), (13, { sib := 13 }), (14, { sib := 14 }), (15, { sib := 15 })]
  lastDie := 15
  rrPos := 0
  cmds := []
  reqs := []
  net := []
  rels := []
  copies := []
  batches := []
  streams := []
  colls := []
  commCounts := []
  collIn := []
  rcls := []
  advances := []
  demand := []
  arrivedSince := []
  normbox := {}
  windows := []
  wfcount := 0
  mbox := {}
  ints := []
  hport := {}
  lehr := {}
  cullet := {}
  hbmSize := 1099511627776
  rsvSize := 1073741824
  cfggen := 0
  cfgPending := 0
  pcdead := []
  tables := {}
  ports := []
  self := 0
  domain := [0]
  lostPkgs := []
  lost := false
  fabricOut := []
  fabricIn := []
  hostOut := []
  remoteAcks := []
  devAsks := []
  regionCopies := []
  recReads := []
  frames := []

end Sys2Proof.Machine
end

