-- ==== Sys2Proof/WellFormed.lean ====
section
/-!
DEFINITION. Which instructions the encodings permit (R95 to R105 and the entry of each instruction): the checks that decoding
makes, on the syntax. What depends on the group (REGS, W, RGN) is checked by the meanings.
-/
namespace Sys2Proof

/-- Bits `hi` down to `lo` of `x` as a number (R6). -/
def bitsOf (x hi lo : Nat) : Nat := x / 2 ^ lo % 2 ^ (hi + 1 - lo)

/-- The guard names p0 to p23 (R99). -/
def LGuard.ok : LGuard → Bool
  | .always => true
  | .pred p _ => p.toNat < 24

/-- Some source is the immediate, so W2 holds it and its fields read as zero (R100). -/
def LF.imm (f : LF) : Bool := f.bsel == .imm || f.csel == .imm

/-- W2 as the fields of an instruction whose immediate may replace them (R100, R188). -/
def LF.fields (f : LF) : Nat := if f.imm then 0 else f.w2.toNat

/-- What a source field must satisfy (R100): `used` or all zero. -/
def srcOk (used : Bool) (sel : Sel) (r : VReg) (fe : Bool) : Bool :=
  if used then
    match sel with
    | .vec => true
    | .scalar => r.toNat < 64
    | .imm => r == 0 && !fe
  else sel == .vec && r == 0 && !fe

/-- Which operands an entry uses. -/
structure Uses where
  d : Bool := false
  a : Bool := false
  b : Bool := false
  c : Bool := false

/-- The operand rules of R100 for what an entry uses. -/
def LF.uses (f : LF) (u : Uses) : Bool :=
  (u.d || f.d == 0) && (u.a || (f.a == 0 && !f.feA)) && srcOk u.b f.bsel f.b f.feB && srcOk u.c f.csel f.c f.feC

/-- An even register number (R103). -/
def isEven (r : VReg) : Bool := r.toNat % 2 == 0

/-- A source that is a lane register pair is even (R103). -/
def pairSrc (sel : Sel) (r : VReg) : Bool := sel != .vec || isEven r

/-- W2 holds nothing but an immediate (R171). -/
def LF.w2z (f : LF) : Bool := f.imm || f.w2 == 0

/-- W2 holds only the fields of the mask `m`, or an immediate. -/
def LF.w2in (f : LF) (m : Nat) : Bool := f.imm || (f.w2.toNat &&& m) == f.w2.toNat

/-- The predicate field at `lo` names p0 to p23 (R178). -/
def LF.pf (f : LF) (lo : Nat) : Bool := bitsOf f.w2.toNat (lo + 4) lo < 24

/-- Elements of a packed type (R116). -/
def LTy.elems : LTy → Nat
  | .bf16x2 => 2
  | .f8e4x4 | .f8e5x4 | .i8x4 | .n8x4 => 4
  | .nq4x8 => 8
  | _ => 1

/-- Integer instructions (R171 to R177). -/
def legalInt (op : Nat) (f : LF) : Bool :=
  let m := f.mod5.toNat
  let t := f.ty
  let dab : Uses := { d := true, a := true, b := true }
  let da : Uses := { d := true, a := true }
  let dabc : Uses := { d := true, a := true, b := true, c := true }
  let i2 := t == .i32 || t == .n32
  let p4 := i2 || t == .i8x4 || t == .n8x4
  match op with
  | 0x01 | 0x02 => p4 && f.uses dab && m ≤ 1 && f.w2z
  | 0x03 | 0x04 => i2 && f.uses dab && m == 0 && f.w2z
  | 0x05 => i2 && f.uses dabc && m == 0 && f.w2z
  | 0x06 => i2 && f.uses dabc && m == 0 && f.w2z && isEven f.d && pairSrc f.csel f.c
  | 0x07 | 0x08 | 0x09 | 0x0A | 0x0B | 0x0D => t == .b32 && f.uses dab && m == 0 && f.w2z
  | 0x0C => (t == .b32 || i2) && f.uses dab && m == 0 && f.w2z
  | 0x0E | 0x0F => p4 && f.uses dab && m == 0 && f.w2z
  | 0x10 => (t == .i32 || t == .i8x4) && f.uses da && m ≤ 1 && f.w2z
  | 0x11 | 0x12 | 0x13 => t == .b32 && f.uses da && m == 0 && f.w2z
  | 0x14 => i2 && f.uses dabc && m == 0 && f.w2z
  | 0x15 => t == .b32 && f.uses dabc && m == 0 && f.w2z
  | 0x16 => (t == .b32 || t == .b64) && f.uses { d := true, b := true } && m == 0 && f.w2z &&
      (t == .b32 || (isEven f.d && pairSrc f.bsel f.b))
  | 0x17 => (t == .b32 || t == .b64) && f.uses dab && f.bsel != .imm && m == 0 && f.w2in 0x3E0 && f.pf 5 &&
      (t == .b32 || (isEven f.d && isEven f.a && pairSrc f.bsel f.b))
  | 0x18 => t == .b32 && f.uses { d := true } && m ≤ 10 && f.w2z
  | 0x19 => (t == .i8x4 || t == .n8x4) && f.uses dabc && m ≤ 1 && f.w2z
  | 0x1A | 0x1B => i2 && f.uses dab && m == 0 && f.w2z
  | _ => false

/-- Predicate instructions (R178 to R180). -/
def legalPred (op : Nat) (f : LF) : Bool :=
  let m := f.mod5.toNat
  let cond := m % 8
  let ty0 := f.ty == .b32
  match op with
  | 0x40 => f.uses { a := true, b := true } && f.bsel != .imm && f.w2in 0x3FF && f.pf 0 &&
      (if m / 8 == 0 then bitsOf f.w2.toNat 9 5 == 0 else f.pf 5) &&
      (match f.ty with
       | .b32 => cond ≤ 1
       | .i32 | .n32 => cond ≤ 5
       | .f32 => true
       | _ => false)
  | 0x41 | 0x42 | 0x43 => ty0 && f.uses {} && m ≤ 3 && f.w2in 0x7FFF && f.pf 0 && f.pf 5 && f.pf 10
  | 0x44 => ty0 && f.uses {} && m == 0 && f.w2in 0x3FF && f.pf 0 && f.pf 5
  | 0x45 => ty0 && f.uses { d := true } && m ≤ 1 && (if m == 0 then f.w2in 0x3E0 && f.pf 5 else f.w2 == 0)
  | 0x46 => ty0 && f.uses { a := true } && m ≤ 1 && (if m == 0 then f.w2in 0x1F && f.pf 0 else f.w2 == 0)
  | 0x47 => ty0 && f.uses {} && m ≤ 1 && f.w2in 0x1F && f.pf 0
  | _ => false

/-- Control instructions (R181, R182, R185, R186) and the lane barrier and fence (R291 to R293). -/
def legalCtrl (op : Nat) (f : LF) : Bool :=
  let m := f.mod5.toNat
  let fe0 := !f.feA && !f.feB && !f.feC
  f.ty == .b32 &&
  match op with
  | 0x1C0 => m == 0 && fe0 && f.uses {}
  | 0x1C1 => m == 0 && fe0 && f.uses { d := true }
  | 0x1C2 => m == 0 && fe0 && f.uses { a := true } && f.w2 == 0
  | 0x1C3 => m == 0 && fe0 && f.uses { d := true, a := true } && f.w2 == 0
  | 0x1C4 => m == 0 && fe0 && f.uses { a := true } && f.w2 == 0
  | 0x1C5 | 0x1C6 | 0x1C7 => m == 0 && fe0 && f.uses {} && f.w2 == 0
  | 0x1C8 => m == 0 && f.uses { b := true } && f.w2z
  | 0x1C9 => m == 0 && f.uses { b := true, c := true } && f.w2z
  | 0x1CA => m % 8 != 7 && m / 8 != 3 && f.uses {} && f.w2 == 0
  | 0x1CB => m == 0 && fe0 && f.uses {} && f.w2 == 0 && f.guard == .always
  | 0x1CC => m == 0 && fe0 && f.uses { a := true } && f.w2 == 0
  | 0x1CD => m == 0 && fe0 && f.uses {} && f.w2 == 0
  | 0x1CE => m == 0 && fe0 && f.uses {} && f.w2.toNat ≤ 65535 && f.guard == .always
  | _ => false

/-- Modifier and width fields of the floating forms (R188): the sign modifiers in `mods`, and under code 4 a width r of 1 to 24. -/
def legalFpW2 (f : LF) (code mods : Nat) : Bool :=
  if code == 4 then
    !f.imm && f.w2in (mods + 0x1F00) && 1 ≤ bitsOf f.w2.toNat 12 8 && bitsOf f.w2.toNat 12 8 ≤ 24
  else f.w2in mods

/-- FP32 and packed BF16 instructions (R190 to R193). A sign-modifier bit of a source that the form does not use is illegal when it is set (log 94). -/
def legalFp (op : Nat) (f : LF) : Bool :=
  let m := f.mod5.toNat
  let code := m % 8
  let dab : Uses := { d := true, a := true, b := true }
  let da : Uses := { d := true, a := true }
  let dabc : Uses := { d := true, a := true, b := true, c := true }
  match op with
  | 0x80 | 0x81 | 0x82 | 0x89 => f.ty == .f32 && f.uses dab && m ≤ 4 && legalFpW2 f code 7
  | 0x83 => f.ty == .f32 && f.uses dabc && m ≤ 4 && legalFpW2 f code 15
  | 0x84 | 0x85 => f.ty == .f32 && f.uses dab && m == 0 && legalFpW2 f code 7
  | 0x86 | 0x87 | 0x88 | 0x8A | 0x8B => f.ty == .f32 && f.uses da && m ≤ 4 && legalFpW2 f code 3
  | 0x8C => f.ty == .f32 && f.uses da && m ≤ 3 && legalFpW2 f code 3
  | 0x8D => (f.ty == .i32 || f.ty == .n32) && f.uses da && m ≤ 3 && legalFpW2 f code 3
  | 0x8E => (f.ty == .i32 || f.ty == .n32) && f.uses da && m ≤ 3 && legalFpW2 f code 0
  | 0x8F => f.ty == .f32 && f.uses dab && m ≤ 3 && legalFpW2 f code 3
  | 0x90 => f.ty == .f32 && f.uses da && m == 0 && legalFpW2 f code 3
  | 0xC0 | 0xC1 => f.ty == .bf16x2 && f.uses dab && m < 16 && (code == 0 || code == 4) && legalFpW2 f code 7
  | 0xC2 => f.ty == .bf16x2 && f.uses dabc && m < 16 && (code == 0 || code == 4) && legalFpW2 f code 15
  | _ => false

/-- The pairs of `cvt` (R194), by type codes: DST, SRC, and the element index e; narrowing or widening. -/
def cvtPair (dst src e : Nat) : Option Bool :=
  match dst, src with
  | 4, 3 => if e ≤ 1 then some true else none
  | 5, 3 | 6, 3 => some true
  | 5, 4 | 6, 4 => if e % 2 == 0 then some true else none
  | 6, 5 | 5, 6 => if e == 0 then some true else none
  | 3, 4 => if e ≤ 1 then some false else none
  | 3, 5 | 3, 6 => some false
  | 4, 5 | 4, 6 => if e % 2 == 0 then some false else none
  | _, _ => none

/-- The code of a lane type (R101). -/
def LTy.code : LTy → Nat
  | .b32 => 0 | .i32 => 1 | .n32 => 2 | .f32 => 3 | .bf16x2 => 4 | .f8e4x4 => 5 | .f8e5x4 => 6
  | .nq4x8 => 7 | .i8x4 => 8 | .n8x4 => 9 | .b64 => 10

/-- Conversion, packing, NQ4 and random bits (R194 to R199). -/
def legalCvt (op : Nat) (f : LF) : Bool :=
  let m := f.mod5.toNat
  let code := m % 8
  let w := f.w2.toNat
  let da : Uses := { d := true, a := true }
  let dab : Uses := { d := true, a := true, b := true }
  let dabc : Uses := { d := true, a := true, b := true, c := true }
  let packTy := f.ty == .bf16x2 || f.ty == .f8e4x4 || f.ty == .f8e5x4 || f.ty == .nq4x8 || f.ty == .i8x4 || f.ty == .n8x4
  match op with
  | 0xC3 => f.uses da && m < 16 &&
      (match cvtPair f.ty.code (bitsOf w 16 13) (w % 4) with
       | some true => (code == 0 || code == 4) && f.w2in 0x1FF03 &&
           (if code == 4 then 1 ≤ bitsOf w 12 8 && bitsOf w 12 8 ≤ 24 else bitsOf w 12 8 == 0)
       | some false => m == 0 && f.w2in 0x1E003
       | none => false)
  | 0xC4 => packTy && f.uses dab && m < 8 && 2 * (m % 4) < f.ty.elems &&
      (m < 4 || f.ty == .i8x4 || f.ty == .n8x4) && f.w2z
  | 0xC5 => packTy && f.uses da && m < f.ty.elems && f.w2z
  | 0xC6 | 0xC7 => f.ty == .nq4x8 && f.uses dabc && m < 8 && f.w2z
  | 0xC8 => f.ty == .f32 && f.uses dab && m == 0 && f.w2z
  | 0xC9 => f.ty == .b64 && f.uses dabc && m == 0 && f.w2z && isEven f.d && isEven f.a
  | 0xCA => (f.ty == .bf16x2 || f.ty == .f8e4x4 || f.ty == .f8e5x4) && f.uses dab && f.bsel != .imm &&
      m % 4 < f.ty.elems && (m / 4 == 0 || m / 4 == 2) && f.w2in 0x1F00 &&
      1 ≤ bitsOf w 12 8 && bitsOf w 12 8 ≤ 24
  | _ => false

/-- The types of a reduction operation (R205). -/
def redOk (op : Nat) (t : LTy) : Bool :=
  if op ≤ 2 then t == .i32 || t == .n32 || t == .f32 || t == .bf16x2 else op ≤ 5 && t == .b32

/-- Cross-lane instructions (R203 to R209). -/
def legalCross (op : Nat) (f : LF) : Bool :=
  let m := f.mod5.toNat
  let da : Uses := { d := true, a := true }
  let dab : Uses := { d := true, a := true, b := true }
  let wide := f.ty == .b64
  match op with
  | 0x100 => (f.ty == .b32 || wide) && f.uses dab && m / 4 != 7 && f.w2z && (!wide || (isEven f.d && isEven f.a))
  | 0x101 => m < 16 &&
      (if m % 4 < 3 then f.ty == .b32 && m < 8 && f.uses {} && f.w2in 0x3FF && f.pf 0 && f.pf 5
       else (if m / 8 == 1 then f.ty == .n32 else f.ty == .b32 || wide) && f.uses { d := true } &&
         f.w2in 0x3E0 && f.pf 5 && (!wide || isEven f.d))
  | 0x102 => redOk (m % 8) f.ty && m < 16 && f.uses da && f.w2z && (m < 8 || f.d.toNat < 64)
  | 0x103 => (f.ty == .i32 || f.ty == .n32 || f.ty == .f32) && m < 16 && m / 4 % 2 == 0 &&
      f.uses { d := true, a := true, b := m / 2 % 2 == 1 } && f.w2z &&
      (if m / 8 == 1 then f.d.toNat < 64 else isEven f.d)
  | 0x104 => redOk (m % 8) f.ty && f.ty != .bf16x2 && m < 16 && f.uses da && f.w2z
  | 0x105 => (f.ty == .b32 || f.ty == .i32 || wide) && m ≤ 1 && f.d.toNat < 64 && (!wide || isEven f.a) && f.w2z &&
      (if m == 1 then f.uses da else f.uses dab && f.bsel != .vec)
  | 0x106 => (f.ty == .b32 || wide) && m ≤ 1 && (!wide || (isEven f.d && isEven f.a)) && f.w2z &&
      (if m == 1 then f.uses da else f.uses dab && f.bsel != .vec)
  | _ => false

/-- The address form of R233 with SCALE at bits `hi` to `hi - 2` of W2. -/
def legalAddr (f : LF) (lo : Nat) : Bool :=
  let scale := bitsOf f.w2.toNat (lo + 2) lo
  f.bsel != .imm && pairSrc f.bsel f.b && scale ≤ 5 && (scale != 0 || (f.a == 0 && !f.feA))

/-- SIZE, SX and type of a plain access (R234). -/
def legalSize (f : LF) (load : Bool) : Bool :=
  let size := bitsOf f.w2.toNat 24 23
  let sx := bitsOf f.w2.toNat 25 25
  f.ty == (if size == 3 then LTy.b64 else LTy.b32) && (sx == 0 || (load && size ≤ 1)) &&
  (size != 3 || (if load then isEven f.d else pairSrc f.csel f.c))

/-- The types of an atomic operation (R242). -/
def atomOk (op : Nat) (t : LTy) : Bool :=
  match op with
  | 0 => t == .i32 || t == .n32 || t == .f32 || t == .bf16x2 || t == .b64
  | 1 | 2 => t == .i32 || t == .n32 || t == .f32
  | 3 | 4 | 5 | 6 | 8 => t == .b32 || t == .b64
  | 7 => t == .n32
  | _ => false

/-- Memory, atomic and per-lane copy instructions (R233 to R247, R318). -/
def legalMem (op : Nat) (f : LF) : Bool :=
  let m := f.mod5.toNat
  let w := f.w2.toNat
  let size := bitsOf w 24 23
  let dab : Uses := { d := true, a := true, b := true }
  let abc : Uses := { a := true, b := true, c := true }
  let dabc : Uses := { d := true, a := true, b := true, c := true }
  let aop := bitsOf w 26 23
  let wide := f.ty == .b64
  f.bsel != .imm && f.csel != .imm &&
  match op with
  | 0x140 | 0x147 => f.uses dab && m == 0 && legalAddr f 20 && legalSize f true && f.w2in 0x3FFFFFF
  | 0x141 => f.uses abc && m == 0 && legalAddr f 20 && legalSize f false && f.w2in 0x3FFFFFF
  | 0x144 => f.uses dabc && m ≤ 1 && legalAddr f 20 && legalSize f true && f.w2in 0x7FFFFFFF &&
      (if m == 1 then f.pf 26 else bitsOf w 30 26 == 0)
  | 0x145 => f.uses dab && m < 7 && legalAddr f 20 && legalSize f true && 2 ≤ size && f.w2in 0x3FFFFFF
  | 0x146 => f.uses abc && m < 7 && legalAddr f 20 && legalSize f false && 2 ≤ size && f.w2in 0x3FFFFFF
  | 0x142 => f.uses { d := true, a := true } && legalSize f true && f.w2in 0x38FFFFF &&
      m % 4 != 3 && (m % 4 == 2 || m / 4 == 0) && (m % 4 != 2 || bitsOf w 19 19 == 0) && (m % 4 == 0 || f.d != f.a)
  | 0x143 => f.uses { a := true, c := true } && legalSize f false && f.w2in 0x38FFFFF &&
      m % 4 != 3 && (m % 4 == 2 || m / 4 == 0) && (m % 4 != 2 || bitsOf w 19 19 == 0)
  | 0x148 => f.uses { d := true, a := true } && m == 0 && legalSize f true && f.w2in 0x38FFFFF
  | 0x149 => f.uses { a := true, c := true } && m == 0 && legalSize f false && f.w2in 0x38FFFFF
  | 0x180 => f.uses { d := m / 8 % 2 == 1, a := true, b := true, c := true } && m % 8 != 7 && legalAddr f 20 &&
      f.w2in 0x7FFFFFF && aop ≤ 7 && atomOk aop f.ty && (!wide || (isEven f.d && pairSrc f.csel f.c))
  | 0x181 => f.uses dabc && m % 8 != 7 && m / 8 % 2 == 0 && legalAddr f 20 && f.w2in 0x7FFFFF &&
      (f.ty == .b32 || wide) && (!wide || (isEven f.d && pairSrc f.csel f.c))
  | 0x182 => f.uses abc && m == 0 && legalAddr f 20 && f.w2in 0x7FFFFFF && aop ≤ 2 && atomOk aop f.ty && !wide
  | 0x183 => f.uses abc && f.csel == .vec && f.ty == .b32 && m < 16 && m % 8 != 7 && legalAddr f 12 &&
      bitsOf w 16 15 != 3 && (bitsOf w 31 31 == 0 || bitsOf w 30 17 == 0)
  | 0x184 => f.uses { d := m / 8 % 2 == 1, a := true, c := true } && m % 8 == 0 && m < 16 && f.w2in 0x278FFFFF &&
      aop ≤ 8 && atomOk aop f.ty && (aop != 8 || m == 8) && (!wide || (isEven f.d && pairSrc f.csel f.c))
  | _ => false

/-- The L-stream instructions of R104 under R99 to R103 and R105. -/
def legalL (op : Nat) (f : LF) : Bool :=
  f.guard.ok &&
  (if op < 0x40 then legalInt op f
   else if op < 0x80 then legalPred op f
   else if op < 0xC3 then legalFp op f
   else if op < 0x100 then legalCvt op f
   else if op < 0x140 then legalCross op f
   else if op < 0x1C0 then legalMem op f
   else legalCtrl op f)

/-- The op10 and the fields of an L-stream instruction (R104). -/
def Instr.lane : Instr → Option (Nat × LF)
  | .lAdd f => some (0x001, f)
  | .lSub f => some (0x002, f)
  | .lMul f => some (0x003, f)
  | .lMulhi f => some (0x004, f)
  | .lMad f => some (0x005, f)
  | .lMadw f => some (0x006, f)
  | .lAnd f => some (0x007, f)
  | .lOr f => some (0x008, f)
  | .lXor f => some (0x009, f)
  | .lAndn f => some (0x00a, f)
  | .lShl f => some (0x00b, f)
  | .lShr f => some (0x00c, f)
  | .lRotl f => some (0x00d, f)
  | .lMin f => some (0x00e, f)
  | .lMax f => some (0x00f, f)
  | .lAbs f => some (0x010, f)
  | .lPopc f => some (0x011, f)
  | .lClz f => some (0x012, f)
  | .lBrev f => some (0x013, f)
  | .lBfe f => some (0x014, f)
  | .lBfi f => some (0x015, f)
  | .lMov f => some (0x016, f)
  | .lSel f => some (0x017, f)
  | .lSreg f => some (0x018, f)
  | .lDp4 f => some (0x019, f)
  | .lDiv f => some (0x01a, f)
  | .lRem f => some (0x01b, f)
  | .lCmp f => some (0x040, f)
  | .lPand f => some (0x041, f)
  | .lPor f => some (0x042, f)
  | .lPxor f => some (0x043, f)
  | .lPnot f => some (0x044, f)
  | .lPtov f => some (0x045, f)
  | .lVtop f => some (0x046, f)
  | .lPset f => some (0x047, f)
  | .lBra f => some (0x1c0, f)
  | .lCall f => some (0x1c1, f)
  | .lRet f => some (0x1c2, f)
  | .lDcall f => some (0x1c3, f)
  | .lDjmp f => some (0x1c4, f)
  | .lLend f => some (0x1c5, f)
  | .lDemote f => some (0x1c6, f)
  | .lExit f => some (0x1c7, f)
  | .lBarr f => some (0x1c8, f)
  | .lBwait f => some (0x1c9, f)
  | .lFence f => some (0x1ca, f)
  | .lRgn f => some (0x1cb, f)
  | .lTrap f => some (0x1cc, f)
  | .lNop f => some (0x1cd, f)
  | .lRegang f => some (0x1ce, f)
  | .lFadd f => some (0x080, f)
  | .lFsub f => some (0x081, f)
  | .lFmul f => some (0x082, f)
  | .lFma f => some (0x083, f)
  | .lFmin f => some (0x084, f)
  | .lFmax f => some (0x085, f)
  | .lFrcp f => some (0x086, f)
  | .lFrsqrt f => some (0x087, f)
  | .lFsqrt f => some (0x088, f)
  | .lFdiv f => some (0x089, f)
  | .lFexp2 f => some (0x08a, f)
  | .lFlog2 f => some (0x08b, f)
  | .lFrint f => some (0x08c, f)
  | .lFcvtI f => some (0x08d, f)
  | .lIcvtF f => some (0x08e, f)
  | .lFscale f => some (0x08f, f)
  | .lFclass f => some (0x090, f)
  | .lHadd2 f => some (0x0c0, f)
  | .lHmul2 f => some (0x0c1, f)
  | .lHfma2 f => some (0x0c2, f)
  | .lCvt f => some (0x0c3, f)
  | .lPack f => some (0x0c4, f)
  | .lUnpk f => some (0x0c5, f)
  | .lNqenc f => some (0x0c6, f)
  | .lNqdec f => some (0x0c7, f)
  | .lNqscl f => some (0x0c8, f)
  | .lRhash f => some (0x0c9, f)
  | .lSrbits f => some (0x0ca, f)
  | .lXlane f => some (0x100, f)
  | .lCanvass f => some (0x101, f)
  | .lRdc f => some (0x102, f)
  | .lRdcx f => some (0x103, f)
  | .lScan f => some (0x104, f)
  | .lVtos f => some (0x105, f)
  | .lBcast f => some (0x106, f)
  | .lLd f => some (0x140, f)
  | .lSt f => some (0x141, f)
  | .lLds f => some (0x142, f)
  | .lSts f => some (0x143, f)
  | .lLdb f => some (0x144, f)
  | .lLdacq f => some (0x145, f)
  | .lStrel f => some (0x146, f)
  | .lLdws f => some (0x147, f)
  | .lLdcl f => some (0x148, f)
  | .lStcl f => some (0x149, f)
  | .lAtom f => some (0x180, f)
  | .lAcas f => some (0x181, f)
  | .lApush f => some (0x182, f)
  | .lCpl f => some (0x183, f)
  | .lSpatom f => some (0x184, f)
  | .add _ _ _ _ => none
  | .sub _ _ _ _ => none
  | .mul _ _ _ _ => none
  | .mulhI _ _ _ _ => none
  | .mulhN _ _ _ _ => none
  | .divI _ _ _ _ => none
  | .divN _ _ _ _ => none
  | .remI _ _ _ _ => none
  | .remN _ _ _ _ => none
  | .and _ _ _ _ => none
  | .or _ _ _ _ => none
  | .xor _ _ _ _ => none
  | .andn _ _ _ _ => none
  | .shl _ _ _ _ => none
  | .shr _ _ _ _ => none
  | .sra _ _ _ _ => none
  | .minI _ _ _ _ => none
  | .maxI _ _ _ _ => none
  | .minN _ _ _ _ => none
  | .maxN _ _ _ _ => none
  | .sltI _ _ _ _ => none
  | .sltN _ _ _ _ => none
  | .seq _ _ _ _ => none
  | .clz _ _ _ => none
  | .popc _ _ _ => none
  | .addi _ _ _ => none
  | .andi _ _ _ => none
  | .ori _ _ _ => none
  | .xori _ _ _ => none
  | .shli _ _ _ => none
  | .shri _ _ _ => none
  | .srai _ _ _ => none
  | .rotli _ _ _ => none
  | .lui _ _ => none
  | .lhi _ _ => none
  | .slti _ _ _ => none
  | .fadd _ _ _ => none
  | .fsub _ _ _ => none
  | .fmul _ _ _ => none
  | .fmac _ _ _ => none
  | .fmin _ _ _ => none
  | .fmax _ _ _ => none
  | .fsqrt _ _ => none
  | .fdiv _ _ _ => none
  | .fcvtI _ _ => none
  | .icvtF _ _ => none
  | .flt _ _ _ => none
  | .feq _ _ _ => none
  | .ld _ _ _ _ => none
  | .ldx _ _ _ _ => none
  | .st _ _ _ _ => none
  | .br _ _ _ _ => none
  | .jmp _ => none
  | .call _ => none
  | .jr _ => none
  | .ret => none
  | .dcall _ => none
  | .djmp _ => none
  | .lrun _ _ => none
  | .gset _ _ => none
  | .gnot _ _ => none
  | .gfree _ => none
  | .mld _ _ => none
  | .mldPair _ _ => none
  | .mmul _ _ => none
  | .mmt _ _ => none
  | .mfence _ _ _ => none
  | .mrel _ => none
  | .ofence _ => none
  | .cpt _ _ _ => none
  | .cptIdx _ _ _ => none
  | .cptWs _ _ _ => none
  | .cptP _ _ _ => none
  | .pbar _ _ => none
  | .xmar _ _ _ => none
  | .xred _ _ _ => none
  | .xnorm _ _ _ => none
  | .xbar _ _ _ => none
  | .fenceRel _ => none
  | .fenceAcq _ => none
  | .fenceAr _ => none
  | .binit _ _ => none
  | .bexp _ _ => none
  | .barr _ _ => none
  | .bwait _ _ => none
  | .btest _ _ _ => none
  | .rndReg _ _ _ => none
  | .rndAdv _ _ => none
  | .rndGet _ _ => none
  | .rndFlr _ _ _ => none
  | .csrr _ _ => none
  | .csrwSempty _ => none
  | .csrwCgseed _ => none
  | .csrwOvfl _ => none
  | .csrwNval _ => none
  | .csrwMod _ _ => none
  | .trap _ => none
  | .eret => none
  | .eretTo _ => none
  | .yield => none
  | .exit => none
  | .klaunch _ _ => none
  | .rgn => none
  | .nop => none
  | .evset _ _ => none
  | .packageReset => none
  | .powerFailure => none
  | .hostLinkTraining _ _ _ _ _ _ _ => none
  | .hostBar2Request _ _ => none
  | .hostCxlMemRequest _ _ => none
  | .hostCxlCacheSnoop _ _ => none
  | .globalPersistentFlush => none
  | .gpfComplete => none
  | .hwinWrite _ => none
  | .loadFirmware => none
  | .attest => none
  | .setContextWorld => none
  | .setWindow => none
  | .retry => none
  | .continue => none
  | .kill => none
  | .deliver => none
  | .mailboxRequestEnd => none
  | .contextEnable _ => none
  | .contextDisable _ => none
  | .genbump _ => none
  | .genbumpCoreAdopt _ _ => none
  | .genbumpCoreReport _ _ => none
  | .genbumpPhase2 _ => none
  | .tailWrite _ _ _ => none
  | .cqheadWrite _ _ => none
  | .cqerrClear _ => none
  | .evsetWrite _ _ => none
  | .evclrWrite _ _ => none
  | .arm => none
  | .stepload _ => none
  | .optload _ => none
  | .recoveryGo => none
  | .registerWrite _ _ => none
  | .queueSlotRead _ _ => none
  | .kernelQueueTake _ => none
  | .launchStart _ _ => none
  | .ageingStep _ => none
  | .clusterPlace _ _ _ _ => none
  | .placementReservation _ => none
  | .preempt _ _ _ => none
  | .preemptSave _ _ => none
  | .clusterResume _ _ _ _ _ => none
  | .dieRenumber _ => none
  | .launchComplete _ => none
  | .groupRetire _ => none
  | .producerLand _ => none
  | .quarantineLeave _ => none
  | .l1WriteBack _ _ _ => none
  | .pageWalk _ _ _ => none
  | .lateFault _ _ => none
  | .staleGenerationReject _ _ => none
  | .staleGenerationReissue _ => none
  | .barrierHang _ => none
  | .roundHang _ => none
  | .yieldExpiry _ => none
  | .regangTimeout _ _ _ => none
  | .gfreeRelease _ => none
  | .releaseComplete _ => none
  | .rgnCheckpoint _ => none
  | .strike _ => none
  | .strikeReplay _ => none
  | .weightStoreRefresh _ => none
  | .weightStoreBankReturn _ => none
  | .ncuOperation _ => none
  | .activeMessage _ => none
  | .clusterScratchpadArrival _ _ => none
  | .remoteAccessArrival _ => none
  | .wbqAccept _ => none
  | .laneBlockStart _ => none
  | .mldStart _ => none
  | .mldPairStart _ => none
  | .mmulStart _ => none
  | .mmtStart _ => none
  | .matrixAccumulation _ _ _ => none
  | .batchComplete _ => none
  | .mrelStart _ => none
  | .ofenceStart _ => none
  | .ofenceComplete _ => none
  | .cptStart _ => none
  | .cptIdxStart _ => none
  | .cptWsStart _ => none
  | .cptPStart _ => none
  | .copyElementLand _ _ _ _ _ => none
  | .copyComplete _ => none
  | .pbarStart _ => none
  | .pbarComplete _ => none
  | .barrierInitialise _ => none
  | .barrierArm _ => none
  | .laneArrival _ => none
  | .groupArrival _ => none
  | .barrierCredit _ => none
  | .xmarStart _ => none
  | .xmarPieceArrival _ _ _ => none
  | .xredStart _ => none
  | .xnormStart _ => none
  | .xnormResult _ => none
  | .xnormCommit _ => none
  | .xbarStart _ => none
  | .collectiveComplete _ => none
  | .roundAdvance _ _ => none
  | .roundAdopt _ _ _ _ => none
  | .roundAdvanceCommit _ _ => none
  | .ldbHeldServe _ _ => none
  | .flitReceive _ _ _ => none
  | .fabricLaneFailure _ => none
  | .fabricPortStateChange _ _ _ _ _ => none
  | .packageLost _ => none
  | .lehrCaptureStart _ => none
  | .lehrDrain => none
  | .drainedMessage => none
  | .lehrComplete => none
  | .culletEncode _ => none
  | .culletProtect => none
  | .recoveryServe => none
  | .stripeRebuild _ _ => none
  | .rebuildDone => none
  | .registerEccError _ => none
  | .patrolScrub _ => none
  | .coreRetire _ => none
  | .l2SliceFailure _ _ => none
  | .slice480Switch _ => none
  | .pseudoChannelFailure _ _ => none
  | .dieLoss _ => none
  | .retirementTableUpdate => none
  | .illegalInstruction _ => none
  | .illegalLaneInstruction _ _ _ => none
/-- A scalar load or store: the modes that R140 declares illegal do not occur. -/
def memOk (load : Bool) (t a : SReg) : SMode → Bool
  | .offset _ => true
  | .postInc _ | .modulo _ _ => a != 0 && !(load && t == a)

/-- The well-formed instructions: those that some word encodes, and every device and host step. A step for an illegal word names
a word that decodes to nothing; that is checked where words are decoded. -/
def Instr.wf (i : Instr) : Bool :=
  match i.lane with
  | some (op, f) => legalL op f
  | none =>
    match i with
    | .ld _ t a m | .ldx _ t a m => memOk true t a m
    | .st _ t a m => memOk false t a m
    | .mld _ a | .mldPair _ a => 1 ≤ a.toNat && a.toNat ≤ 60
    | .mmul _ a | .mmt _ a => 1 ≤ a.toNat && a.toNat ≤ 61
    | .cpt _ a _ | .cptIdx _ a _ | .cptWs _ a _ | .cptP _ a _ | .xmar _ a _ => 1 ≤ a.toNat && a.toNat ≤ 56
    | .xred _ a _ => 1 ≤ a.toNat && a.toNat ≤ 59
    | .xnorm _ a _ => 1 ≤ a.toNat && a.toNat ≤ 58
    | .xbar _ a _ => 1 ≤ a.toNat && a.toNat ≤ 62
    | .eretTo a => a != 0
    | _ => true

end Sys2Proof
end

