-- ==== Sys2Proof/Machine/Base.lean ====
section
/-!
DEFINITION. The plainest operations of the machine: bit fields, memory cells, registers with their full/empty bits, and how the
parts of the state are found and replaced.
-/
namespace Sys2Proof.Machine

/-- The outcome of a step of this machine. -/
abbrev Out := Host.Outcome State Fault Refusal

/-! ## Bits -/

/-- Bits `hi` to `lo` of a 64-bit value, as a number (R6). -/
def dbits (x : DWord) (hi lo : Nat) : Nat := bitsOf x.toNat hi lo

/-- The number `v` truncated to 64 bits. -/
def dw (v : Nat) : DWord := BitVec.ofNat 64 v

/-- The number `v` truncated to 32 bits. -/
def w32 (v : Nat) : Word := BitVec.ofNat 32 v

/-- Sign-extension of the low `n` bits of `v` as an integer (R12). -/
def sextI (v n : Nat) : Int :=
  let m := v % 2 ^ n
  if m < 2 ^ (n - 1) then (m : Int) else (m : Int) - (2 ^ n : Nat)

/-- An integer reduced modulo 2^64. -/
def dwI (v : Int) : DWord := BitVec.ofInt 64 v

/-- Bytes as one number, lowest first (R6), truncated to 64 bits. -/
def leDWord (bs : List Byte) : DWord := dw (leNat bs)

/-- The bit list of `i` below `n` where `f` holds, as a number. -/
def maskOf (n : Nat) (f : Nat → Bool) : Nat :=
  match n with
  | 0 => 0
  | k + 1 => maskOf k f + (if f k then 2 ^ k else 0)

/-! ## Memory cells -/

/-- What an address that nothing has written reads as: zero (log 8). -/
def unlisted : Byte := 0

/-- The byte at address `a`. -/
def cellRead : List Host.Cell → Nat → Byte
  | [], _ => unlisted
  | (k, v) :: t, a => if a = k then v else cellRead t a

/-- The cells with byte `b` at address `a`: rising addresses, no entry equal to an unlisted byte. -/
def cellWrite : List Host.Cell → Nat → Byte → List Host.Cell
  | [], a, b => if b = unlisted then [] else [(a, b)]
  | (k, v) :: t, a, b =>
    if a = k then (if b = unlisted then t else (k, b) :: t)
    else if a < k then (if b = unlisted then (k, v) :: t else (a, b) :: (k, v) :: t)
    else (k, v) :: cellWrite t a b

/-- The canonical form from a lower bound on: addresses at or above `lo`, strictly rising, no unlisted byte. -/
def Memory.wfFrom : Nat → List Host.Cell → Bool
  | _, [] => true
  | lo, (k, v) :: t => lo ≤ k && v != unlisted && Memory.wfFrom (k + 1) t

/-- The canonical form of memory. -/
def Memory.wf (m : List Host.Cell) : Bool := Memory.wfFrom 0 m

/-- `n` bytes from address `a` on. -/
def cellsRead (m : List Host.Cell) (a : Nat) : Nat → List Byte
  | 0 => []
  | n + 1 => cellRead m a :: cellsRead m (a + 1) n

/-- Bytes written from address `a` on; a `none` leaves its byte alone (a byte mask, R229). -/
def cellsWrite (m : List Host.Cell) (a : Nat) : List (Option Byte) → List Host.Cell
  | [] => m
  | none :: bs => cellsWrite m (a + 1) bs
  | some b :: bs => cellsWrite (cellWrite m a b) (a + 1) bs

/-! ## Parts of the state -/

/-- A number for a core, unique over the package's physical mesh (R63). -/
def coreIx (k : CoreKey) : Nat := (k.die * 10 + k.row) * 16 + k.col

/-- A core; one that nothing has touched is as after reset. -/
def State.core (s : State) (k : CoreKey) : Core := (aget s.cores (coreIx k)).getD {}

/-- The state with a core replaced. -/
def State.setCore (s : State) (k : CoreKey) (c : Core) : State := { s with cores := aset s.cores (coreIx k) c }

/-- A context block (R53); one that nothing has touched is as after reset. -/
def State.ctx (s : State) (c : Nat) : Context := (aget s.ctxs c).getD {}

/-- The state with a context block replaced. -/
def State.setCtx (s : State) (c : Nat) (x : Context) : State := { s with ctxs := aset s.ctxs c x }

/-- The state with a group replaced. -/
def State.setGroup (s : State) (gid : Nat) (g : Group) : State := { s with groups := aset s.groups gid g }

/-- The state with a team replaced. -/
def State.setTeam (s : State) (t : Nat) (x : Team) : State := { s with teams := aset s.teams t x }

/-- The state with a group changed by `f`, if it exists. -/
def State.modGroup (s : State) (gid : Nat) (f : Group → Group) : State := { s with groups := amod s.groups gid f }

/-- The state with a team changed by `f`, if it exists. -/
def State.modTeam (s : State) (t : Nat) (f : Team → Team) : State := { s with teams := amod s.teams t f }

/-- The state with a core changed by `f`. -/
def State.modCore (s : State) (k : CoreKey) (f : Core → Core) : State := s.setCore k (f (s.core k))

/-- The state with a context changed by `f`. -/
def State.modCtx (s : State) (c : Nat) (f : Context → Context) : State := s.setCtx c (f (s.ctx c))

/-- A compute die's record. -/
def State.die (s : State) (d : Nat) : Die := (aget s.dies d).getD { inService := false, sib := d }

/-- The state with a die changed by `f`. -/
def State.modDie (s : State) (d : Nat) (f : Die → Die) : State := { s with dies := aset s.dies d (f (s.die d)) }

/-- A new identifier, and the state that has used it. -/
def State.newId (s : State) : Nat × State := (s.nextId, { s with nextId := s.nextId + 1 })

/-- A free 64-bit value (R11), and the state that has drawn it. -/
def State.drawDWord (s : State) : DWord × State := (Config.freeDWord s.fresh, { s with fresh := s.fresh + 1 })

/-- A free 32-bit value (R11), and the state that has drawn it. -/
def State.drawWord (s : State) : Word × State := (Config.freeWord s.fresh, { s with fresh := s.fresh + 1 })

/-- `n` free bytes (R11), and the state that has drawn them. -/
def State.drawBytes (s : State) (n : Nat) : List Byte × State :=
  ((List.range n).map fun i => Config.freeByte (s.fresh + i), { s with fresh := s.fresh + n })

/-- A retirement takes effect; the gaffer has still to record it in the tables (R402). -/
def State.tableChange (s : State) (entry : Nat × Nat × Nat) : State :=
  { s with cfgPending := s.cfgPending + 1, tables := { s.tables with entries := s.tables.entries ++ [entry] } }

/-! ## The launch record (R24, R25) -/

/-- The 64-bit word `i` of a launch record. -/
def LaunchRec.q (r : LaunchRec) (i : Nat) : DWord := (aget r.w i).getD 0

def LaunchRec.sbase (r : LaunchRec) : DWord := r.q 0
def LaunchRec.lbase (r : LaunchRec) : DWord := r.q 1
def LaunchRec.sdtab (r : LaunchRec) : DWord := r.q 2
def LaunchRec.ldtab (r : LaunchRec) : DWord := r.q 3
def LaunchRec.rodata (r : LaunchRec) : DWord := r.q 4
def LaunchRec.karg (r : LaunchRec) : DWord := r.q 5
def LaunchRec.sentry (r : LaunchRec) : Nat := dbits (r.q 6) 31 0
def LaunchRec.trapvec (r : LaunchRec) : Nat := dbits (r.q 6) 63 32
def LaunchRec.sdlen (r : LaunchRec) : Nat := dbits (r.q 7) 31 0
def LaunchRec.ldlen (r : LaunchRec) : Nat := dbits (r.q 7) 63 32
def LaunchRec.gridx (r : LaunchRec) : Nat := dbits (r.q 8) 31 0
def LaunchRec.gridy (r : LaunchRec) : Nat := dbits (r.q 8) 47 32
def LaunchRec.gridz (r : LaunchRec) : Nat := dbits (r.q 8) 63 48
def LaunchRec.teamx (r : LaunchRec) : Nat := dbits (r.q 9) 15 0
def LaunchRec.teamy (r : LaunchRec) : Nat := dbits (r.q 9) 31 16
def LaunchRec.teamz (r : LaunchRec) : Nat := dbits (r.q 9) 47 32
def LaunchRec.cluw (r : LaunchRec) : Nat := dbits (r.q 9) 55 48
def LaunchRec.cluh (r : LaunchRec) : Nat := dbits (r.q 9) 63 56
def LaunchRec.gw (r : LaunchRec) : Nat := dbits (r.q 10) 1 0
def LaunchRec.prio (r : LaunchRec) : Nat := dbits (r.q 10) 15 8
def LaunchRec.preemptible (r : LaunchRec) : Bool := dbits (r.q 10) 16 16 == 1
def LaunchRec.rgn (r : LaunchRec) : Bool := dbits (r.q 10) 17 17 == 1
def LaunchRec.wwin (r : LaunchRec) : Nat := dbits (r.q 10) 25 24
def LaunchRec.swin (r : LaunchRec) : Nat := dbits (r.q 10) 27 26
def LaunchRec.cwin (r : LaunchRec) : Nat := dbits (r.q 10) 29 28
def LaunchRec.regs (r : LaunchRec) : Nat := dbits (r.q 10) 47 32
def LaunchRec.scratch (r : LaunchRec) : Nat := dbits (r.q 11) 31 0
def LaunchRec.wait (r : LaunchRec) : DWord := r.q 12
def LaunchRec.set (r : LaunchRec) : DWord := r.q 13
def LaunchRec.clear (r : LaunchRec) : DWord := r.q 14
def LaunchRec.ctag (r : LaunchRec) : DWord := r.q 15

/-- The group width W (R25). -/
def LaunchRec.width (r : LaunchRec) : Nat := 16 * 2 ^ r.gw
/-- Lanes of a team (R18). -/
def LaunchRec.lanes (r : LaunchRec) : Nat := r.teamx * r.teamy * r.teamz
/-- Lane registers allocated per lane (R67). -/
def LaunchRec.regsAlloc (r : LaunchRec) : Nat := (r.regs + 7) / 8 * 8

/-! ## A group and what it belongs to -/

/-- A group with its team, launch and context. -/
structure Who where
  gid : Nat
  g : Group
  team : Team
  launch : Launch
deriving DecidableEq, Repr

/-- The group `gid` and what it belongs to. -/
def State.who (s : State) (gid : Nat) : Option Who :=
  match aget s.groups gid with
  | none => none
  | some g =>
    match aget s.teams g.team with
    | none => none
    | some t =>
      match aget s.launches t.launch with
      | none => none
      | some l => some { gid := gid, g := g, team := t, launch := l }

/-- The context number of a group. -/
def Who.ctx (w : Who) : Nat := w.launch.ctx
/-- The launch record of a group. -/
def Who.lrec (w : Who) : LaunchRec := w.launch.lrec
/-- The core of a group. -/
def Who.core (w : Who) : CoreKey := w.team.core

/-! ## Scalar registers and full/empty bits (R82, R85) -/

/-- The value of s[r]: s0 reads zero. -/
def Group.sget (g : Group) (r : SReg) : DWord := if r = 0 then 0 else (aget g.sregs r.toNat).getD 0

/-- The group with s[r] written and full: s0 ignores writes. -/
def Group.sput (g : Group) (r : SReg) (v : DWord) : Group :=
  if r = 0 then g else { g with sregs := aset g.sregs r.toNat v, sfe := g.sfe ||| ((1 : DWord) <<< r.toNat) }

/-- s[r] is full; s0 always is (R82). -/
def Group.sfull (g : Group) (r : SReg) : Bool := r = 0 || g.sfe.getLsbD r.toNat

/-- The group with s[r] marked empty; a destination of s0 stays full (R86). -/
def Group.sempty (g : Group) (r : SReg) : Group :=
  if r = 0 then g else { g with sfe := g.sfe &&& ~~~((1 : DWord) <<< r.toNat) }

/-- The group with s[r] marked full. -/
def Group.smarkFull (g : Group) (r : SReg) : Group :=
  if r = 0 then g else { g with sfe := g.sfe ||| ((1 : DWord) <<< r.toNat) }

/-- v[k] is full (R85). -/
def Group.vfull (g : Group) (k : Nat) : Bool := g.vfe.getLsbD k

/-- The group with v[k] marked empty. -/
def Group.vempty (g : Group) (k : Nat) : Group := { g with vfe := g.vfe &&& ~~~((1 : BitVec 256) <<< k) }

/-- The group with v[k] marked full. -/
def Group.vmarkFull (g : Group) (k : Nat) : Group := { g with vfe := g.vfe ||| ((1 : BitVec 256) <<< k) }

/-- MOD[k]: base 0, length 4 at reset (R83). -/
def Group.modReg (g : Group) (k : Nat) : DWord := (aget g.mods k).getD 0x0000000400000000

/-! ## Lanes (R82, R161) -/

/-- Lane `l` of a group. -/
def Group.lane (g : Group) (l : Nat) : Lane := (aget g.lanes l).getD { life := .exited }

/-- The group with lane `l` replaced. -/
def Group.setLane (g : Group) (l : Nat) (x : Lane) : Group := { g with lanes := aset g.lanes l x }

/-- v[k] of a lane: what was last written, else the lane's undefined value (R30). -/
def Lane.get (l : Lane) (k : Nat) : Word := (aget l.regs k).getD (Config.freeWord (l.seed + k))

/-- The lane with v[k] written. -/
def Lane.put (l : Lane) (k : Nat) (v : Word) : Lane := { l with regs := aset l.regs k v }

/-- The pair v[k], v[k+1], low half in v[k] (R82). -/
def Lane.getPair (l : Lane) (k : Nat) : DWord := (l.get (k + 1)) ++ (l.get k)

/-- The lane with the pair v[k], v[k+1] written. -/
def Lane.putPair (l : Lane) (k : Nat) (v : DWord) : Lane :=
  (l.put k (v.setWidth 32)).put (k + 1) ((v >>> 32).setWidth 32)

/-- p[k] of a lane. -/
def Lane.pget (l : Lane) (k : Nat) : Bool := l.preds.getLsbD k

/-- The lane with p[k] written. -/
def Lane.pput (l : Lane) (k : Nat) (b : Bool) : Lane :=
  { l with preds := if b then l.preds ||| ((1 : BitVec 24) <<< k) else l.preds &&& ~~~((1 : BitVec 24) <<< k) }

/-- The group with every lane of the list changed. -/
def Group.mapLanes (g : Group) (ls : List Nat) (fn : Nat → Lane → Lane) : Group :=
  ls.foldl (fun acc l => acc.setLane l (fn l (acc.lane l))) g

/-! ## Scratchpad bytes (R223) -/

/-- The scratchpad byte at offset `o`. -/
def Team.spGet (t : Team) (o : Nat) : Byte :=
  match aget t.sp o with
  | some b => b.b
  | none => Config.freeByte (t.seed + o)

/-- `n` scratchpad bytes from offset `o`. -/
def Team.spRead (t : Team) (o : Nat) : Nat → List Byte
  | 0 => []
  | n + 1 => t.spGet o :: Team.spRead t (o + 1) n

/-- Some byte of [o, o + n) lies in a poisoned 4-byte word (R401). -/
def Team.spPoisoned (t : Team) (o n : Nat) : Bool :=
  (List.range n).any fun i => t.poisoned.contains ((o + i) / 4)

/-- The team with bytes written from offset `o`, each with the stamp `st`. -/
def Team.spWrite (t : Team) (o : Nat) (bs : List Byte) (st : Nat) : Team :=
  match bs with
  | [] => t
  | b :: rest => Team.spWrite { t with sp := aset t.sp o { b := b, stamp := st } } (o + 1) rest st

/-- A scratchpad word is written whole, so its detected error is gone. -/
def Team.spHeal (t : Team) (o n : Nat) : Team :=
  { t with poisoned := t.poisoned.filter fun w => !(o ≤ 4 * w && 4 * w + 4 ≤ o + n) }

end Sys2Proof.Machine
end

