-- ==== Sys2Proof/Machine/Fp.lean ====
section
/-!
DEFINITION. The number formats (R110 to R132): decoding to exact values, the rounding codes, FP32 arithmetic, conversions, NQ4 and
rhash. Values are computed exactly over Nat and Int and rounded once.
-/
namespace Sys2Proof.Machine

/-! ## Formats and exact values -/

/-- A floating format (R110): fraction bits, exponent bits, bias, magnitude code of the largest finite, whether it has infinities,
magnitude code of the canonical NaN. -/
structure Fmt where
  frac : Nat
  ebits : Nat
  bias : Nat
  maxFin : Nat
  hasInf : Bool
  nan : Nat
deriving DecidableEq, Repr

def fmtF32 : Fmt := { frac := 23, ebits := 8, bias := 127, maxFin := 0x7F7FFFFF, hasInf := true, nan := 0x7FC00000 }
def fmtBf16 : Fmt := { frac := 7, ebits := 8, bias := 127, maxFin := 0x7F7F, hasInf := true, nan := 0x7FC0 }
def fmtF8e4 : Fmt := { frac := 3, ebits := 4, bias := 7, maxFin := 0x7E, hasInf := false, nan := 0x7F }
def fmtF8e5 : Fmt := { frac := 2, ebits := 5, bias := 15, maxFin := 0x7B, hasInf := true, nan := 0x7F }

/-- Width of a format in bits. -/
def Fmt.width (f : Fmt) : Nat := f.frac + f.ebits + 1

/-- The code of an infinity's magnitude. -/
def Fmt.infMag (f : Fmt) : Nat := f.maxFin + 1

/-- A code with the sign bit set or clear. -/
def Fmt.sign (f : Fmt) (neg : Bool) (mag : Nat) : Nat := mag + (if neg then 2 ^ (f.frac + f.ebits) else 0)

/-- An exact value: NaN, an infinity, or (-1)^neg · m · 2^e. A nonzero result that is not a dyadic rational carries an odd last bit
far below every rounding position. -/
inductive Fp
  | nan
  | inf (neg : Bool)
  | fin (neg : Bool) (m : Nat) (e : Int)
deriving DecidableEq, Repr

/-- The value of a code (R110). -/
def Fmt.decode (f : Fmt) (code : Nat) : Fp :=
  let neg := code / 2 ^ (f.frac + f.ebits) % 2 = 1
  let mag := code % 2 ^ (f.frac + f.ebits)
  let e := mag / 2 ^ f.frac
  let fr := mag % 2 ^ f.frac
  if f.maxFin < mag then (if f.hasInf && mag = f.infMag then .inf neg else .nan)
  else if e = 0 then .fin neg fr (1 - (f.bias : Int) - f.frac)
  else .fin neg (2 ^ f.frac + fr) ((e : Int) - f.bias - f.frac)

/-- The value of FP32 bits. -/
def f32 (w : Word) : Fp := fmtF32.decode w.toNat

/-! ## Rounding (R113, R121, R122) -/

/-- A rounding code; for code 4 the lane's random word, the width r, and the discarded-bit limit D (none: unbounded, R121). -/
inductive Rnd
  | rne | rtz | rdn | rup
  | sr (w : DWord) (r : Nat) (d : Option Nat)
deriving DecidableEq, Repr

/-- Exponent of the leading bit of m · 2^e. -/
def topExp (m : Nat) (e : Int) : Int := (Nat.log2 m : Int) + e

/-- The exponent of the spacing of a format at a value with leading exponent `t` (R121). -/
def Fmt.ulpExp (f : Fmt) (t : Int) : Int := max t (1 - (f.bias : Int)) - f.frac

/-- m · 2^k as a quotient by 2^0: whole part, and the remainder over 2^s. -/
def splitAt (m : Nat) (k : Int) : Nat × Nat × Nat :=
  if 0 ≤ k then (m * 2 ^ k.toNat, 0, 0) else (m / 2 ^ (-k).toNat, m % 2 ^ (-k).toNat, (-k).toNat)

/-- The magnitude is rounded up: `rest` of 2^s was discarded, `odd` is the last kept bit. -/
def roundsUp (md : Rnd) (neg odd : Bool) (rest s : Nat) : Bool :=
  if rest = 0 then false
  else match md with
    | .rne => 2 ^ s < 2 * rest || (2 * rest = 2 ^ s && odd)
    | .rtz => false
    | .rdn => neg
    | .rup => !neg
    | .sr w r d =>
      let n := match d with
        | some k => min r k
        | none => r
      2 ^ n ≤ rest * 2 ^ n / 2 ^ s + w.toNat / 2 ^ (64 - n)

/-- A nonzero magnitude rounded: the magnitude code, as if the exponent range were unbounded above. Codes above `maxFin` are
overflows (R113). -/
def Fmt.roundMag (f : Fmt) (md : Rnd) (neg : Bool) (m : Nat) (e : Int) : Nat :=
  let t := topExp m e
  let u := f.ulpExp t
  let q := splitAt m (e - u)
  let base := (max t (1 - (f.bias : Int)) - (1 - (f.bias : Int))).toNat * 2 ^ f.frac
  base + q.1 + (if roundsUp md neg (q.1 % 2 = 1) q.2.1 q.2.2 then 1 else 0)

/-- The overflow result of an FP32 operation (R113). -/
def overflow32 (md : Rnd) (neg : Bool) : Nat :=
  match md with
  | .rne | .sr _ _ _ => fmtF32.infMag
  | .rtz => fmtF32.maxFin
  | .rdn => if neg then fmtF32.infMag else fmtF32.maxFin
  | .rup => if neg then fmtF32.maxFin else fmtF32.infMag

/-- An exact value rounded to FP32 (R113). -/
def round32 (md : Rnd) (x : Fp) : Word :=
  match x with
  | .nan => 0x7FC00000
  | .inf neg => w32 (fmtF32.sign neg fmtF32.infMag)
  | .fin neg m e =>
    if m = 0 then w32 (fmtF32.sign neg 0)
    else
      let c := fmtF32.roundMag md neg m e
      w32 (fmtF32.sign neg (if fmtF32.maxFin < c then overflow32 md neg else c))

/-- An exact value rounded into a narrow format (R117, R118): the code and whether it overflowed. -/
def Fmt.narrow (f : Fmt) (md : Rnd) (sat : Bool) (x : Fp) : Nat × Bool :=
  let excess := fun neg : Bool => f.sign neg (if sat then f.maxFin else f.infMag)
  match x with
  | .nan => (f.nan, false)
  | .inf neg => if f.hasInf then (f.sign neg f.infMag, false) else (excess neg, true)
  | .fin neg m e =>
    if m = 0 then (f.sign neg 0, false)
    else
      let c := f.roundMag md neg m e
      if f.maxFin < c then (excess neg, true) else (f.sign neg c, false)

/-- D for a value held in format `src` (R121). -/
def discarded (src dst : Fmt) (x : Fp) : Option Nat :=
  match x with
  | .fin _ m e => some (dst.ulpExp (topExp m e) - src.ulpExp (topExp m e)).toNat
  | _ => some 0

/-! ## The converter generator (R123, R124) -/

/-- 64-bit rotation left. -/
def rotl64 (x : DWord) (n : Nat) : DWord := x.rotateLeft (n % 64)

/-- One step of the generator. -/
def cgStep (x : DWord) : DWord :=
  let x0 := if x = 0 then 0x9E3779B97F4A7C15 else x
  let x1 := x0 ^^^ (x0 <<< 13)
  let x2 := x1 ^^^ (x1 >>> 7)
  x2 ^^^ (x2 <<< 17)

/-- The word of lane `l`, element `e` (R124). -/
def srWord (x : DWord) (l e : Nat) : DWord := rotl64 x ((7 * l + 13 * e) % 64)

/-! ## Exact arithmetic (R112) -/

/-- The sign of a sum that is zero: both operands' sign when they agree, else + (but - under RDN). -/
def zeroSign (rdn na nb : Bool) : Bool := if na = nb then na else rdn

/-- The signed integer of m · 2^(e - base). -/
def scaled (neg : Bool) (m : Nat) (e base : Int) : Int :=
  let v : Int := (m * 2 ^ (e - base).toNat : Nat)
  if neg then -v else v

/-- a + b exactly. -/
def Fp.add (rdn : Bool) (a b : Fp) : Fp :=
  match a, b with
  | .nan, _ | _, .nan => .nan
  | .inf x, .inf y => if x = y then .inf x else .nan
  | .inf x, _ => .inf x
  | _, .inf y => .inf y
  | .fin na ma ea, .fin nb mb eb =>
    if ma = 0 && mb = 0 then .fin (zeroSign rdn na nb) 0 0
    else if ma = 0 then .fin nb mb eb
    else if mb = 0 then .fin na ma ea
    else
      let base := min ea eb
      let v := scaled na ma ea base + scaled nb mb eb base
      if v = 0 then .fin (zeroSign rdn na nb) 0 0 else .fin (v < 0) v.natAbs base

/-- -a. -/
def Fp.neg : Fp → Fp
  | .nan => .nan
  | .inf n => .inf !n
  | .fin n m e => .fin (!n) m e

/-- a · b exactly. -/
def Fp.mul (a b : Fp) : Fp :=
  match a, b with
  | .nan, _ | _, .nan => .nan
  | .inf x, .inf y => .inf (xor x y)
  | .inf x, .fin y m _ => if m = 0 then .nan else .inf (xor x y)
  | .fin x m _, .inf y => if m = 0 then .nan else .inf (xor x y)
  | .fin x m e, .fin y n k => .fin (xor x y) (m * n) (e + k)

/-- The quotient of two magnitudes to at least 64 bits below the leading one, the last bit odd when inexact. -/
def divMag (m n : Nat) : Nat × Int :=
  let k := 96 + (Nat.log2 n - Nat.log2 m)
  let q := m * 2 ^ k / n
  (2 * q + (if m * 2 ^ k % n = 0 then 0 else 1), -(k : Int) - 1)

/-- a ÷ b. -/
def Fp.div (a b : Fp) : Fp :=
  match a, b with
  | .nan, _ | _, .nan => .nan
  | .inf _, .inf _ => .nan
  | .inf x, .fin y _ _ => .inf (xor x y)
  | .fin x _ _, .inf y => .fin (xor x y) 0 0
  | .fin x m e, .fin y n k =>
    if n = 0 then (if m = 0 then .nan else .inf (xor x y))
    else if m = 0 then .fin (xor x y) 0 0
    else
      let q := divMag m n
      .fin (xor x y) q.1 (q.2 + e - k)

/-- The integer square root of `n`, below 2^bits. -/
def isqrtFrom (n : Nat) : Nat → Nat → Nat
  | 0, r => r
  | k + 1, r => isqrtFrom n k (if (r + 2 ^ k) * (r + 2 ^ k) ≤ n then r + 2 ^ k else r)

/-- The integer square root of a number below 2^256. -/
def isqrt (n : Nat) : Nat := isqrtFrom n 128 0

/-- √a. -/
def Fp.sqrt : Fp → Fp
  | .nan => .nan
  | .inf n => if n then .nan else .inf false
  | .fin n m e =>
    if m = 0 then .fin n 0 0
    else if n then .nan
    else
      let m2 := if e % 2 = 0 then m else 2 * m
      let e2 := if e % 2 = 0 then e else e - 1
      let v := m2 * 2 ^ 160
      let r := isqrt v
      .fin false (2 * r + (if r * r = v then 0 else 1)) (e2 / 2 - 81)

/-- 1 ÷ √a. -/
def Fp.rsqrt : Fp → Fp
  | .nan => .nan
  | .inf n => if n then .nan else .fin false 0 0
  | .fin n m e =>
    if m = 0 then .inf n
    else if n then .nan
    else
      let m2 := if e % 2 = 0 then m else 2 * m
      let e2 := if e % 2 = 0 then e else e - 1
      let r := isqrt (2 ^ 240 / m2)
      .fin false (2 * r + (if r * r * m2 = 2 ^ 240 then 0 else 1)) (-(e2 / 2) - 121)

/-- ln 2 to 192 bits below the point. -/
def ln2Fix : Nat := 0xb17217f7d1cf79abc9e3b39803f2f6af40f343267298b62d

/-- The Taylor sum of exp(y / 2^192) from term `t` of index `i` on (log 10). -/
def expSum (y : Nat) : Nat → Nat → Nat → Nat → Nat
  | 0, _, _, acc => acc
  | n + 1, i, t, acc => expSum y n (i + 1) (t * y / 2 ^ 192 / (i + 1)) (acc + t)

/-- 2^a (R112): exact for an integral a, else to more than 150 bits with an odd last bit (log 10). -/
def Fp.exp2 : Fp → Fp
  | .nan => .nan
  | .inf n => if n then .fin false 0 0 else .inf false
  | .fin n m e =>
    if m = 0 then .fin false 1 0
    else if 10 < topExp m e then (if n then .fin false 1 (-1024) else .fin false 1 1024)
    else
      let x : Int := scaled n m e (-192)
      let k := x.fdiv (2 ^ 192 : Nat)
      let f := (x.fmod (2 ^ 192 : Nat)).toNat
      if f = 0 then .fin false 1 k
      else .fin false (2 * expSum (f * ln2Fix / 2 ^ 192) 64 0 (2 ^ 192) 0 + 1) (k - 193)

/-- The bits of log2 of g / 2^256, g / 2^256 in [1, 2), by repeated squaring (log 10). -/
def logBits : Nat → Nat → Nat → Nat
  | 0, _, acc => acc
  | n + 1, g, acc =>
    let g2 := g * g / 2 ^ 256
    if 2 ^ 257 ≤ g2 then logBits n (g2 / 2) (2 * acc + 1) else logBits n g2 (2 * acc)

/-- log2 a (R112): exact for a power of two, else to 160 bits below the point with an odd last bit (log 10). -/
def Fp.log2 : Fp → Fp
  | .nan => .nan
  | .inf n => if n then .nan else .inf false
  | .fin n m e =>
    if m = 0 then .inf true
    else if n then .nan
    else
      let k := topExp m e
      if m = 2 ^ Nat.log2 m then .fin (k < 0) k.natAbs 0
      else
        let frac := logBits 160 (m * 2 ^ (256 - Nat.log2 m)) 0
        let v : Int := k * (2 ^ 160 : Nat) + (frac : Int)
        .fin (v < 0) (if v < 0 then 2 * v.natAbs - 1 else 2 * v.natAbs + 1) (-161)

/-- a is less than b; both numbers. -/
def Fp.lt (a b : Fp) : Bool :=
  match a, b with
  | .nan, _ | _, .nan => false
  | .inf x, .inf y => x && !y
  | .inf x, .fin _ _ _ => x
  | .fin _ _ _, .inf y => !y
  | .fin x m e, .fin y n k =>
    let base := min e k
    scaled x m e base < scaled y n k base

/-- a equals b as numbers; both zeros are equal. -/
def Fp.eq (a b : Fp) : Bool :=
  match a, b with
  | .nan, _ | _, .nan => false
  | .inf x, .inf y => x = y
  | .inf _, .fin _ _ _ | .fin _ _ _, .inf _ => false
  | .fin x m e, .fin y n k =>
    let base := min e k
    scaled x m e base = scaled y n k base

/-- The value is a NaN. -/
def Fp.isNan : Fp → Bool
  | .nan => true
  | _ => false

/-- The value is negative or -0. -/
def Fp.isNeg : Fp → Bool
  | .nan => false
  | .inf n => n
  | .fin n _ _ => n

/-- minimumNumber on codes of one format (R112). -/
def minNum (f : Fmt) (x y : Nat) : Nat :=
  let a := f.decode x
  let b := f.decode y
  if a.isNan then (if b.isNan then f.nan else y)
  else if b.isNan then x
  else if Fp.lt a b then x else if Fp.lt b a then y else if a.isNeg then x else y

/-- maximumNumber on codes of one format (R112). -/
def maxNum (f : Fmt) (x y : Nat) : Nat :=
  let a := f.decode x
  let b := f.decode y
  if a.isNan then (if b.isNan then f.nan else y)
  else if b.isNan then x
  else if Fp.lt a b then y else if Fp.lt b a then x else if a.isNeg then y else x

/-- A magnitude rounded to an integer under a rounding code. -/
def roundInt (md : Rnd) (neg : Bool) (m : Nat) (e : Int) : Nat :=
  let q := splitAt m e
  q.1 + (if roundsUp md neg (q.1 % 2 = 1) q.2.1 q.2.2 then 1 else 0)

/-- A value rounded to an integer and clamped to [lo, hi]; NaN gives 0 (R139, R191). -/
def toIntClamp (md : Rnd) (lo hi : Int) (x : Fp) : Int :=
  match x with
  | .nan => 0
  | .inf n => if n then lo else hi
  | .fin n m e =>
    if 80 < topExp m e && m ≠ 0 then (if n then lo else hi)
    else
      let v : Int := roundInt md n m e
      max lo (min hi (if n then -v else v))

/-- An integer as an exact value. -/
def fpOfInt (v : Int) : Fp := .fin (v < 0) v.natAbs 0

/-- A 32-bit exact FP32 word of a narrow code (R119). -/
def widen (f : Fmt) (code : Nat) : Word := round32 .rne (f.decode code)

/-! ## NQ4 (R125 to R129) -/

/-- 512 · K[m] (R125). -/
def nqK : Nat → Nat
  | 0 => 22 | 1 => 66 | 2 => 111 | 3 => 159 | 4 => 212 | 5 => 272 | 6 => 344 | _ => 512

/-- The value of a code under a block scale and a super-scale (R127), as FP32 bits: a zero super-scale of either sign gives a zero of the
code's sign. -/
def nqDecode (code b : Nat) (sup : Word) : Word :=
  if b = 0 then 0
  else
    let s := match f32 sup with
      | .fin _ 0 e => Fp.fin false 0 e
      | x => x
    round32 .rne (Fp.mul (.fin (code / 8 % 2 = 1) (nqK (code % 8) * b) (-17)) s)

/-- S is positive and finite. -/
def Fp.posFinite : Fp → Bool
  | .fin n m _ => !n && m ≠ 0
  | _ => false

/-- The scale of a block (R128): b, and whether NVAL is set. -/
def nqScale (maxabs sup : Word) : Nat × Bool :=
  match f32 maxabs, f32 sup with
  | _, .nan | _, .inf _ | .nan, _ => (0, true)
  | x, .fin n m e =>
    if n || m = 0 then (0, true)
    else match x with
      | .inf _ => (255, false)
      | .nan => (0, true)
      | .fin _ k d =>
        let base := min d e
        let num := 256 * (k * 2 ^ (d - base).toNat)
        let den := m * 2 ^ (e - base).toNat
        (min 255 ((num + den - 1) / den), false)

/-- The index whose K is nearest to num / den, the smaller on a tie (R129); candidates `m` and below are still open. -/
def nqNearest (num den : Nat) : Nat → Nat
  | 0 => 0
  | m + 1 => if (nqK m + nqK (m + 1)) * den < 1024 * num then m + 1 else nqNearest num den m

/-- The code of x under b and S (R129): code, and whether NVAL is set. -/
def nqEncode (x : Word) (b : Nat) (sup : Word) : Nat × Bool :=
  let sc := f32 sup
  match f32 x with
  | .nan => (0, true)
  | .inf n => if !sc.posFinite then (0, true) else if b = 0 then (0, false) else (7 + (if n then 8 else 0), false)
  | .fin n k d =>
    match sc with
    | .fin false m e =>
      if m = 0 then (0, true)
      else if b = 0 then (0, false)
      else
        let base := min d e
        let num := 256 * (k * 2 ^ (d - base).toNat)
        let den := b * (m * 2 ^ (e - base).toNat)
        (nqNearest num den 7 + (if n then 8 else 0), false)
    | _ => (0, true)

/-! ## rhash (R130) -/

/-- The six rounds of H, from round `i` on. -/
def rhashFrom : Nat → Nat → Word → Word → Word → Word → Word × Word
  | 0, _, a, b, _, _ => (a, b)
  | n + 1, i, a, b, k0, k1 =>
    let a1 := (a.rotateLeft 24 + b) ^^^ (k0 + BitVec.ofNat 32 (i * 0x9E3779B9))
    let b1 := b.rotateLeft 3 ^^^ a1
    rhashFrom n (i + 1) a1 b1 k1 k0

/-- H(key, counter). -/
def rhash (k0 k1 c0 c1 : Word) : Word × Word := rhashFrom 6 0 (c0 ^^^ k0) (c1 ^^^ k1) k0 k1

end Sys2Proof.Machine
end

