-- ==== Sys2Proof/Decode.lean ====
section
/-!
DEFINITION. Decoding (R95 to R105): S-stream words and L-stream instructions from bits, and the encoder written from the same
tables. Both streams' decoders are total; what they refuse is an illegal instruction (R98, R105).
-/
namespace Sys2Proof

/-! ## Fields -/

/-- A scalar register field at bit `lo`. -/
def sreg (w lo : Nat) : SReg := BitVec.ofNat 6 (w / 2 ^ lo)

/-- The guard field of SG and SC words (R96): 0 to 15 a slot, 31 unguarded. -/
def guardOf (g : Nat) : Option GuardSel :=
  if g < 16 then some (.slot (BitVec.ofNat 4 g)) else if g = 31 then some .none else none

/-- The code of a guard field. -/
def guardCode : GuardSel → Nat
  | .slot n => n.toNat
  | .none => 31

/-- Scopes by code (R15). -/
def scopeOf : Nat → Option Scope
  | 0 => some .grp | 1 => some .team | 2 => some .clu | 3 => some .die | 4 => some .pkg | 5 => some .dom | 6 => some .sys
  | _ => none

/-- The code of a scope. -/
def scopeCode : Scope → Nat
  | .grp => 0 | .team => 1 | .clu => 2 | .die => 3 | .pkg => 4 | .dom => 5 | .sys => 6

/-- Branch conditions by code (R145). -/
def condOf : Nat → Option BrCond
  | 0 => some .eq | 1 => some .ne | 2 => some .ltI | 3 => some .geI | 4 => some .ltN | 5 => some .geN
  | _ => none

/-- The code of a branch condition. -/
def condCode : BrCond → Nat
  | .eq => 0 | .ne => 1 | .ltI => 2 | .geI => 3 | .ltN => 4 | .geN => 5

/-- Address modes of SM words by mode code and disp (R95, R140). -/
def modeOf (mode disp : Nat) : Option SMode :=
  match mode with
  | 0 => some (.offset (BitVec.ofNat 10 disp))
  | 1 => some (.postInc (BitVec.ofNat 10 disp))
  | 2 => some (.modulo (BitVec.ofNat 3 (disp / 128)) (BitVec.ofNat 7 disp))
  | _ => none

/-- The mode and disp bits, [11:0], of an SM word. -/
def modeBits : SMode → Nat
  | .offset d => d.toNat
  | .postInc d => 1024 + d.toNat
  | .modulo m i => 2048 + m.toNat * 128 + i.toNat

/-! ## S-stream words -/

/-- An ALU word with function code `fn` (R97, R136). -/
def aluOf (fn : Nat) (w : Bool) (d a b : SReg) : Option Instr :=
  match fn with
  | 0 => some (.add w d a b)
  | 1 => some (.sub w d a b)
  | 2 => some (.mul w d a b)
  | 3 => some (.mulhI w d a b)
  | 4 => some (.mulhN w d a b)
  | 5 => some (.divI w d a b)
  | 6 => some (.divN w d a b)
  | 7 => some (.remI w d a b)
  | 8 => some (.remN w d a b)
  | 9 => some (.and w d a b)
  | 10 => some (.or w d a b)
  | 11 => some (.xor w d a b)
  | 12 => some (.andn w d a b)
  | 13 => some (.shl w d a b)
  | 14 => some (.shr w d a b)
  | 15 => some (.sra w d a b)
  | 16 => some (.minI w d a b)
  | 17 => some (.maxI w d a b)
  | 18 => some (.minN w d a b)
  | 19 => some (.maxN w d a b)
  | 20 => some (.sltI w d a b)
  | 21 => some (.sltN w d a b)
  | 22 => some (.seq w d a b)
  | 23 => if b = 0 then some (.clz w d a) else none
  | 24 => if b = 0 then some (.popc w d a) else none
  | _ => none

/-- A scalar FP32 word (R97, R139). -/
def sfpOf (fn : Nat) (d a b : SReg) : Option Instr :=
  match fn with
  | 0 => some (.fadd d a b)
  | 1 => some (.fsub d a b)
  | 2 => some (.fmul d a b)
  | 3 => some (.fmac d a b)
  | 4 => some (.fmin d a b)
  | 5 => some (.fmax d a b)
  | 6 => if b = 0 then some (.fsqrt d a) else none
  | 7 => some (.fdiv d a b)
  | 8 => if b = 0 then some (.fcvtI d a) else none
  | 9 => if b = 0 then some (.icvtF d a) else none
  | 10 => some (.flt d a b)
  | 11 => some (.feq d a b)
  | _ => none

/-- The transfer words of op 0x17 (R146). -/
def xferOf (fn : Nat) (d a b : SReg) : Option Instr :=
  if d = 0 ∧ b = 0 then
    match fn with
    | 0 => some (.jr a)
    | 1 => if a = 0 then some .ret else none
    | 2 => some (.dcall a)
    | 3 => some (.djmp a)
    | _ => none
  else none

/-- The guard words of op 0x19 (R149). -/
def gslotOf (fn : Nat) (d a b : SReg) : Option Instr :=
  if d.toNat < 16 ∧ b = 0 then
    match fn with
    | 0 => some (.gset (BitVec.ofNat 4 d.toNat) a)
    | 1 => some (.gnot (BitVec.ofNat 4 d.toNat) a)
    | 2 => if a = 0 then some (.gfree (BitVec.ofNat 4 d.toNat)) else none
    | _ => none
  else none

/-- Matrix commands, op 0x1A (R263). -/
def matOf (fn : Nat) (g : GuardSel) (a b : SReg) : Option Instr :=
  match fn with
  | 0 => if b = 0 then some (.mld g a) else none
  | 1 => if b = 0 then some (.mldPair g a) else none
  | 2 => if b = 0 then some (.mmul g a) else none
  | 3 => if b = 0 then some (.mmt g a) else none
  | 4 => some (.mfence g a b)
  | 5 => if a = 0 ∧ b = 0 then some (.mrel g) else none
  | 6 => if a = 0 ∧ b = 0 then some (.ofence g) else none
  | _ => none

/-- Copies and `pbar`, op 0x1B (R249, R351, R352). -/
def cptOf (fn : Nat) (g : GuardSel) (a b : SReg) : Option Instr :=
  match fn with
  | 0 => some (.cpt g a b)
  | 1 => some (.cptIdx g a b)
  | 2 => some (.cptWs g a b)
  | 3 => some (.cptP g a b)
  | 4 => if a = 0 then some (.pbar g b) else none
  | _ => none

/-- Collectives, op 0x1C (R331). -/
def collOf (fn : Nat) (g : GuardSel) (a b : SReg) : Option Instr :=
  match fn with
  | 0 => some (.xmar g a b)
  | 1 => some (.xred g a b)
  | 2 => some (.xnorm g a b)
  | 3 => some (.xbar g a b)
  | _ => none

/-- Fences, barriers and rounds, op 0x1D (R289, R293, R313). -/
def syncOf (fn : Nat) (d a b : SReg) : Option Instr :=
  match fn with
  | 0 => if a = 0 ∧ b = 0 then (scopeOf d.toNat).map .fenceRel else none
  | 1 => if a = 0 ∧ b = 0 then (scopeOf d.toNat).map .fenceAcq else none
  | 2 => if a = 0 ∧ b = 0 then (scopeOf d.toNat).map .fenceAr else none
  | 4 => if d = 0 then some (.binit a b) else none
  | 5 => if d = 0 then some (.bexp a b) else none
  | 6 => if b = 0 then some (.barr d a) else none
  | 7 => if d = 0 then some (.bwait a b) else none
  | 8 => some (.btest d a b)
  | 10 => some (.rndReg d a b)
  | 11 => if d = 0 then some (.rndAdv a b) else none
  | 12 => if b = 0 then some (.rndGet d a) else none
  | 13 => some (.rndFlr d a b)
  | _ => none

/-- `csrw` by CSR number (R84, R150): the writable CSRs; a write of any other number is illegal. -/
def csrwOf (num : Nat) (a : SReg) : Option Instr :=
  match num with
  | 0x008 => some (.csrwOvfl a)
  | 0x009 => some (.csrwNval a)
  | 0x00A => some (.csrwSempty a)
  | 0x020 => some (.csrwCgseed a)
  | 0x010 | 0x011 | 0x012 | 0x013 | 0x014 | 0x015 | 0x016 | 0x017 => some (.csrwMod (BitVec.ofNat 3 num) a)
  | _ => none

/-- System words, op 0x20 (R152). -/
def sysOf (fn : Nat) (d a b : SReg) : Option Instr :=
  if b = 0 then
    match fn with
    | 0 => if d = 0 then some (.trap a) else none
    | 1 => if d = 0 then (if a = 0 then some .eret else some (.eretTo a)) else none
    | 2 => if d = 0 ∧ a = 0 then some .yield else none
    | 3 => if d = 0 ∧ a = 0 then some .exit else none
    | 4 => some (.klaunch d a)
    | 5 => if d = 0 ∧ a = 0 then some .rgn else none
    | 6 => if d = 0 ∧ a = 0 then some .nop else none
    | 7 => if d.toNat < 4 then some (.evset (BitVec.ofNat 2 d.toNat) a) else none
    | _ => none
  else none

/-- The instruction of an S word by its op and fields, before the checks of `Instr.wf`. -/
def sRaw (w : Nat) : Option Instr :=
  let d := sreg w 20
  let a := sreg w 14
  let b := sreg w 8
  let fn := w % 256
  match w / 2 ^ 26 % 64 with
  | 0x01 => if fn / 32 % 4 = 0 then aluOf (fn % 32) (128 ≤ fn) d a b else none
  | 0x02 => some (.addi d a (BitVec.ofNat 14 w))
  | 0x03 => some (.andi d a (BitVec.ofNat 14 w))
  | 0x04 => some (.ori d a (BitVec.ofNat 14 w))
  | 0x05 => some (.xori d a (BitVec.ofNat 14 w))
  | 0x06 =>
    if w / 64 % 64 = 0 then
      match w / 4096 % 4 with
      | 0 => some (.shli d a (BitVec.ofNat 6 w))
      | 1 => some (.shri d a (BitVec.ofNat 6 w))
      | 2 => some (.srai d a (BitVec.ofNat 6 w))
      | _ => some (.rotli d a (BitVec.ofNat 6 w))
    else none
  | 0x07 => some (.lui d (BitVec.ofNat 20 w))
  | 0x08 => some (.lhi d (BitVec.ofNat 20 w))
  | 0x09 => some (.slti d a (BitVec.ofNat 14 w))
  | 0x0A => sfpOf fn d a b
  | 0x10 => (modeOf (w / 1024 % 4) (w % 1024)).map (.ld (BitVec.ofNat 2 (w / 4096)) d a)
  | 0x11 => (modeOf (w / 1024 % 4) (w % 1024)).map (.ldx (BitVec.ofNat 2 (w / 4096)) d a)
  | 0x12 => (modeOf (w / 1024 % 4) (w % 1024)).map (.st (BitVec.ofNat 2 (w / 4096)) d a)
  | 0x14 => (condOf (w / 2 ^ 23 % 8)).map fun c => .br c (sreg w 17) (sreg w 11) (BitVec.ofNat 11 w)
  | 0x15 => some (.jmp (BitVec.ofNat 26 w))
  | 0x16 => some (.call (BitVec.ofNat 26 w))
  | 0x17 => xferOf fn d a b
  | 0x18 => (guardOf (w / 2 ^ 21 % 32)).map fun g => .lrun g (BitVec.ofNat 21 w)
  | 0x19 => gslotOf fn d a b
  | 0x1A =>
    if w / 64 % 8 = 0 then (guardOf (w / 2 ^ 21 % 32)).bind fun g => matOf (w % 64) g (sreg w 15) (sreg w 9) else none
  | 0x1B =>
    if w / 64 % 8 = 0 then (guardOf (w / 2 ^ 21 % 32)).bind fun g => cptOf (w % 64) g (sreg w 15) (sreg w 9) else none
  | 0x1C =>
    if w / 64 % 8 = 0 then (guardOf (w / 2 ^ 21 % 32)).bind fun g => collOf (w % 64) g (sreg w 15) (sreg w 9) else none
  | 0x1D => syncOf fn d a b
  | 0x1E => if a = 0 then some (.csrr d (BitVec.ofNat 14 w)) else none
  | 0x1F => if d = 0 then csrwOf (w % 16384) a else none
  | 0x20 => sysOf fn d a b
  | _ => none

/-- The instruction of a 32-bit S word, or none when the word is illegal (R98). -/
def decodeS (w : Nat) : Option Instr :=
  match sRaw w with
  | some i => if i.wf then some i else none
  | none => none

/-! ## L-stream instructions -/

/-- The instruction of an op10 (R104). -/
def lCtor : Nat → Option (LF → Instr)
  | 0x001 => some .lAdd
  | 0x002 => some .lSub
  | 0x003 => some .lMul
  | 0x004 => some .lMulhi
  | 0x005 => some .lMad
  | 0x006 => some .lMadw
  | 0x007 => some .lAnd
  | 0x008 => some .lOr
  | 0x009 => some .lXor
  | 0x00a => some .lAndn
  | 0x00b => some .lShl
  | 0x00c => some .lShr
  | 0x00d => some .lRotl
  | 0x00e => some .lMin
  | 0x00f => some .lMax
  | 0x010 => some .lAbs
  | 0x011 => some .lPopc
  | 0x012 => some .lClz
  | 0x013 => some .lBrev
  | 0x014 => some .lBfe
  | 0x015 => some .lBfi
  | 0x016 => some .lMov
  | 0x017 => some .lSel
  | 0x018 => some .lSreg
  | 0x019 => some .lDp4
  | 0x01a => some .lDiv
  | 0x01b => some .lRem
  | 0x040 => some .lCmp
  | 0x041 => some .lPand
  | 0x042 => some .lPor
  | 0x043 => some .lPxor
  | 0x044 => some .lPnot
  | 0x045 => some .lPtov
  | 0x046 => some .lVtop
  | 0x047 => some .lPset
  | 0x1c0 => some .lBra
  | 0x1c1 => some .lCall
  | 0x1c2 => some .lRet
  | 0x1c3 => some .lDcall
  | 0x1c4 => some .lDjmp
  | 0x1c5 => some .lLend
  | 0x1c6 => some .lDemote
  | 0x1c7 => some .lExit
  | 0x1c8 => some .lBarr
  | 0x1c9 => some .lBwait
  | 0x1ca => some .lFence
  | 0x1cb => some .lRgn
  | 0x1cc => some .lTrap
  | 0x1cd => some .lNop
  | 0x1ce => some .lRegang
  | 0x080 => some .lFadd
  | 0x081 => some .lFsub
  | 0x082 => some .lFmul
  | 0x083 => some .lFma
  | 0x084 => some .lFmin
  | 0x085 => some .lFmax
  | 0x086 => some .lFrcp
  | 0x087 => some .lFrsqrt
  | 0x088 => some .lFsqrt
  | 0x089 => some .lFdiv
  | 0x08a => some .lFexp2
  | 0x08b => some .lFlog2
  | 0x08c => some .lFrint
  | 0x08d => some .lFcvtI
  | 0x08e => some .lIcvtF
  | 0x08f => some .lFscale
  | 0x090 => some .lFclass
  | 0x0c0 => some .lHadd2
  | 0x0c1 => some .lHmul2
  | 0x0c2 => some .lHfma2
  | 0x0c3 => some .lCvt
  | 0x0c4 => some .lPack
  | 0x0c5 => some .lUnpk
  | 0x0c6 => some .lNqenc
  | 0x0c7 => some .lNqdec
  | 0x0c8 => some .lNqscl
  | 0x0c9 => some .lRhash
  | 0x0ca => some .lSrbits
  | 0x100 => some .lXlane
  | 0x101 => some .lCanvass
  | 0x102 => some .lRdc
  | 0x103 => some .lRdcx
  | 0x104 => some .lScan
  | 0x105 => some .lVtos
  | 0x106 => some .lBcast
  | 0x140 => some .lLd
  | 0x141 => some .lSt
  | 0x142 => some .lLds
  | 0x143 => some .lSts
  | 0x144 => some .lLdb
  | 0x145 => some .lLdacq
  | 0x146 => some .lStrel
  | 0x147 => some .lLdws
  | 0x148 => some .lLdcl
  | 0x149 => some .lStcl
  | 0x180 => some .lAtom
  | 0x181 => some .lAcas
  | 0x182 => some .lApush
  | 0x183 => some .lCpl
  | 0x184 => some .lSpatom
  | _ => none

/-- Lane types by code (R101). -/
def ltyOf : Nat → Option LTy
  | 0 => some .b32 | 1 => some .i32 | 2 => some .n32 | 3 => some .f32 | 4 => some .bf16x2 | 5 => some .f8e4x4
  | 6 => some .f8e5x4 | 7 => some .nq4x8 | 8 => some .i8x4 | 9 => some .n8x4 | 10 => some .b64
  | _ => none

/-- Source selects by code (R99). -/
def selOf : Nat → Option Sel
  | 0 => some .vec | 1 => some .scalar | 2 => some .imm
  | _ => none

/-- The code of a source select. -/
def selCode : Sel → Nat
  | .vec => 0 | .scalar => 1 | .imm => 2

/-- The guard of a lane instruction by gp and gn (R99). -/
def lguardOf (gp gn : Nat) : Option LGuard :=
  if gp = 31 then (if gn = 0 then some .always else none)
  else if gp < 24 then some (.pred (BitVec.ofNat 5 gp) (gn = 1)) else none

/-- The bits [21:16] of W0 for a guard. -/
def lguardBits : LGuard → Nat
  | .always => 62
  | .pred p neg => p.toNat * 2 + neg.toNat

/-- The fields of the L format (R99). -/
def lfOf (w0 w1 w2 : Nat) : Option LF :=
  match lguardOf (w0 / 2 ^ 17 % 32) (w0 / 2 ^ 16 % 2), ltyOf (w0 / 512 % 16), selOf (w0 / 128 % 4), selOf (w0 / 32 % 4) with
  | some g, some ty, some bs, some cs =>
    some {
      guard := g, feA := w0 / 2 ^ 15 % 2 = 1, feB := w0 / 2 ^ 14 % 2 = 1, feC := w0 / 2 ^ 13 % 2 = 1
      ty := ty, bsel := bs, csel := cs, mod5 := BitVec.ofNat 5 w0
      d := BitVec.ofNat 8 (w1 / 2 ^ 24), a := BitVec.ofNat 8 (w1 / 2 ^ 16), b := BitVec.ofNat 8 (w1 / 256)
      c := BitVec.ofNat 8 w1, w2 := BitVec.ofNat 32 w2 }
  | _, _, _, _ => none

/-- The instruction of the words W0, W1, W2, or none when it is illegal (R105). -/
def decodeL (w0 w1 w2 : Nat) : Option Instr :=
  match lCtor (w0 / 2 ^ 22 % 1024), lfOf w0 w1 w2 with
  | some c, some f => if (c f).wf then some (c f) else none
  | _, _ => none

/-! ## The encoder -/

/-- An SR word. -/
def encSR (op : Nat) (d a b : SReg) (fn : Nat) : Nat :=
  op * 2 ^ 26 + d.toNat * 2 ^ 20 + a.toNat * 2 ^ 14 + b.toNat * 2 ^ 8 + fn

/-- An SI word. -/
def encSI (op : Nat) (d a : SReg) (imm : Nat) : Nat := op * 2 ^ 26 + d.toNat * 2 ^ 20 + a.toNat * 2 ^ 14 + imm

/-- An SM word. -/
def encSM (op : Nat) (size : BitVec 2) (t a : SReg) (m : SMode) : Nat :=
  op * 2 ^ 26 + t.toNat * 2 ^ 20 + a.toNat * 2 ^ 14 + size.toNat * 2 ^ 12 + modeBits m

/-- An SC word. -/
def encSC (op : Nat) (g : GuardSel) (a b : SReg) (fn : Nat) : Nat :=
  op * 2 ^ 26 + guardCode g * 2 ^ 21 + a.toNat * 2 ^ 15 + b.toNat * 2 ^ 9 + fn

/-- The S word of an instruction (R95 to R97); none for lane instructions and device steps. -/
def encodeS : Instr → Option Nat
  | .add w d a b => some (encSR 1 d a b (w.toNat * 128 + 0))
  | .sub w d a b => some (encSR 1 d a b (w.toNat * 128 + 1))
  | .mul w d a b => some (encSR 1 d a b (w.toNat * 128 + 2))
  | .mulhI w d a b => some (encSR 1 d a b (w.toNat * 128 + 3))
  | .mulhN w d a b => some (encSR 1 d a b (w.toNat * 128 + 4))
  | .divI w d a b => some (encSR 1 d a b (w.toNat * 128 + 5))
  | .divN w d a b => some (encSR 1 d a b (w.toNat * 128 + 6))
  | .remI w d a b => some (encSR 1 d a b (w.toNat * 128 + 7))
  | .remN w d a b => some (encSR 1 d a b (w.toNat * 128 + 8))
  | .and w d a b => some (encSR 1 d a b (w.toNat * 128 + 9))
  | .or w d a b => some (encSR 1 d a b (w.toNat * 128 + 10))
  | .xor w d a b => some (encSR 1 d a b (w.toNat * 128 + 11))
  | .andn w d a b => some (encSR 1 d a b (w.toNat * 128 + 12))
  | .shl w d a b => some (encSR 1 d a b (w.toNat * 128 + 13))
  | .shr w d a b => some (encSR 1 d a b (w.toNat * 128 + 14))
  | .sra w d a b => some (encSR 1 d a b (w.toNat * 128 + 15))
  | .minI w d a b => some (encSR 1 d a b (w.toNat * 128 + 16))
  | .maxI w d a b => some (encSR 1 d a b (w.toNat * 128 + 17))
  | .minN w d a b => some (encSR 1 d a b (w.toNat * 128 + 18))
  | .maxN w d a b => some (encSR 1 d a b (w.toNat * 128 + 19))
  | .sltI w d a b => some (encSR 1 d a b (w.toNat * 128 + 20))
  | .sltN w d a b => some (encSR 1 d a b (w.toNat * 128 + 21))
  | .seq w d a b => some (encSR 1 d a b (w.toNat * 128 + 22))
  | .clz w d a => some (encSR 1 d a 0 (w.toNat * 128 + 23))
  | .popc w d a => some (encSR 1 d a 0 (w.toNat * 128 + 24))
  | .addi d a i => some (encSI 2 d a i.toNat)
  | .andi d a i => some (encSI 3 d a i.toNat)
  | .ori d a i => some (encSI 4 d a i.toNat)
  | .xori d a i => some (encSI 5 d a i.toNat)
  | .shli d a n => some (encSI 6 d a n.toNat)
  | .shri d a n => some (encSI 6 d a (4096 + n.toNat))
  | .srai d a n => some (encSI 6 d a (8192 + n.toNat))
  | .rotli d a n => some (encSI 6 d a (12288 + n.toNat))
  | .lui d i => some (7 * 2 ^ 26 + d.toNat * 2 ^ 20 + i.toNat)
  | .lhi d i => some (8 * 2 ^ 26 + d.toNat * 2 ^ 20 + i.toNat)
  | .slti d a i => some (encSI 9 d a i.toNat)
  | .fadd d a b => some (encSR 10 d a b 0)
  | .fsub d a b => some (encSR 10 d a b 1)
  | .fmul d a b => some (encSR 10 d a b 2)
  | .fmac d a b => some (encSR 10 d a b 3)
  | .fmin d a b => some (encSR 10 d a b 4)
  | .fmax d a b => some (encSR 10 d a b 5)
  | .fsqrt d a => some (encSR 10 d a 0 6)
  | .fdiv d a b => some (encSR 10 d a b 7)
  | .fcvtI d a => some (encSR 10 d a 0 8)
  | .icvtF d a => some (encSR 10 d a 0 9)
  | .flt d a b => some (encSR 10 d a b 10)
  | .feq d a b => some (encSR 10 d a b 11)
  | .ld n t a m => some (encSM 16 n t a m)
  | .ldx n t a m => some (encSM 17 n t a m)
  | .st n t a m => some (encSM 18 n t a m)
  | .br c a b off => some (20 * 2 ^ 26 + condCode c * 2 ^ 23 + a.toNat * 2 ^ 17 + b.toNat * 2 ^ 11 + off.toNat)
  | .jmp off => some (21 * 2 ^ 26 + off.toNat)
  | .call off => some (22 * 2 ^ 26 + off.toNat)
  | .jr a => some (encSR 23 0 a 0 0)
  | .ret => some (encSR 23 0 0 0 1)
  | .dcall a => some (encSR 23 0 a 0 2)
  | .djmp a => some (encSR 23 0 a 0 3)
  | .lrun g off => some (24 * 2 ^ 26 + guardCode g * 2 ^ 21 + off.toNat)
  | .gset n a => some (25 * 2 ^ 26 + n.toNat * 2 ^ 20 + a.toNat * 2 ^ 14)
  | .gnot n a => some (25 * 2 ^ 26 + n.toNat * 2 ^ 20 + a.toNat * 2 ^ 14 + 1)
  | .gfree n => some (25 * 2 ^ 26 + n.toNat * 2 ^ 20 + 2)
  | .mld g a => some (encSC 26 g a 0 0)
  | .mldPair g a => some (encSC 26 g a 0 1)
  | .mmul g a => some (encSC 26 g a 0 2)
  | .mmt g a => some (encSC 26 g a 0 3)
  | .mfence g a b => some (encSC 26 g a b 4)
  | .mrel g => some (encSC 26 g 0 0 5)
  | .ofence g => some (encSC 26 g 0 0 6)
  | .cpt g a b => some (encSC 27 g a b 0)
  | .cptIdx g a b => some (encSC 27 g a b 1)
  | .cptWs g a b => some (encSC 27 g a b 2)
  | .cptP g a b => some (encSC 27 g a b 3)
  | .pbar g b => some (encSC 27 g 0 b 4)
  | .xmar g a b => some (encSC 28 g a b 0)
  | .xred g a b => some (encSC 28 g a b 1)
  | .xnorm g a b => some (encSC 28 g a b 2)
  | .xbar g a b => some (encSC 28 g a b 3)
  | .fenceRel sc => some (29 * 2 ^ 26 + scopeCode sc * 2 ^ 20)
  | .fenceAcq sc => some (29 * 2 ^ 26 + scopeCode sc * 2 ^ 20 + 1)
  | .fenceAr sc => some (29 * 2 ^ 26 + scopeCode sc * 2 ^ 20 + 2)
  | .binit a b => some (encSR 29 0 a b 4)
  | .bexp a b => some (encSR 29 0 a b 5)
  | .barr d a => some (encSR 29 d a 0 6)
  | .bwait a b => some (encSR 29 0 a b 7)
  | .btest d a b => some (encSR 29 d a b 8)
  | .rndReg d a b => some (encSR 29 d a b 10)
  | .rndAdv a b => some (encSR 29 0 a b 11)
  | .rndGet d a => some (encSR 29 d a 0 12)
  | .rndFlr d a b => some (encSR 29 d a b 13)
  | .csrr d n => some (encSI 30 d 0 n.toNat)
  | .csrwSempty a => some (encSI 31 0 a 0x00A)
  | .csrwCgseed a => some (encSI 31 0 a 0x020)
  | .csrwOvfl a => some (encSI 31 0 a 0x008)
  | .csrwNval a => some (encSI 31 0 a 0x009)
  | .csrwMod m a => some (encSI 31 0 a (16 + m.toNat))
  | .trap a => some (encSR 32 0 a 0 0)
  | .eret => some (encSR 32 0 0 0 1)
  | .eretTo a => some (encSR 32 0 a 0 1)
  | .yield => some (encSR 32 0 0 0 2)
  | .exit => some (encSR 32 0 0 0 3)
  | .klaunch d a => some (encSR 32 d a 0 4)
  | .rgn => some (encSR 32 0 0 0 5)
  | .nop => some (encSR 32 0 0 0 6)
  | .evset n a => some (32 * 2 ^ 26 + n.toNat * 2 ^ 20 + a.toNat * 2 ^ 14 + 7)
  | _ => none

/-- W0 of an op10 and its fields. -/
def encW0 (op : Nat) (f : LF) : Nat :=
  op * 2 ^ 22 + lguardBits f.guard * 2 ^ 16 + f.feA.toNat * 2 ^ 15 + f.feB.toNat * 2 ^ 14 + f.feC.toNat * 2 ^ 13 +
    f.ty.code * 512 + selCode f.bsel * 128 + selCode f.csel * 32 + f.mod5.toNat

/-- W1 of the fields. -/
def encW1 (f : LF) : Nat := f.d.toNat * 2 ^ 24 + f.a.toNat * 2 ^ 16 + f.b.toNat * 256 + f.c.toNat

/-- The words W0, W1, W2 of a lane instruction (R99). -/
def encodeL (i : Instr) : Option (Nat × Nat × Nat) :=
  i.lane.map fun p => (encW0 p.1 p.2, encW1 p.2, p.2.w2.toNat)

/-- The words of a well-formed instruction, lowest address first; none for a device or host step. -/
def encode (i : Instr) : Option (List Nat) :=
  match encodeS i with
  | some w => some [w]
  | none => (encodeL i).map fun p => [p.1, p.2.1, p.2.2]

/-- Decoding of the words of one instruction: one word is an S word, three are an L instruction (R7). -/
def decode : List Nat → Option Instr
  | [w] => decodeS w
  | [w0, w1, w2] => decodeL w0 w1 w2
  | _ => none

/-- The instruction whose bits are `w` as the opcode table numbers them: up to 32 bits an S word, else an L instruction with W0 in
bits 31 to 0. -/
def decodeTableWord (nbits w : Nat) : Option Instr :=
  if nbits ≤ 32 then decodeS (w % 2 ^ 32) else decodeL (w % 2 ^ 32) (w / 2 ^ 32 % 2 ^ 32) (w / 2 ^ 64 % 2 ^ 32)

end Sys2Proof
end

