-- ==== Sys2Proof/Machine/Mem.lean ====
section
/-!
DEFINITION. Addresses and homes: the package-physical map (R213), homes (R214), worlds (R50), ECC words (R397 to R399), page
tables (R215 to R217), generations (R219), region records (R309, R310), persist images and step tags (R348, R355), the lehr's
copy on write (R360), and reads and writes at the home.
-/
namespace Sys2Proof.Machine

/-! ## The physical map and homes -/

/-- First address of the persistence tier, of the weight stores, of the host aperture (R213). -/
def tierBase : Nat := 0x100000000000
def tierEnd : Nat := 0x200000000000
def wsBase : Nat := 0x300000000000
def wsEnd : Nat := 0x300200000000
def hostBase : Nat := 0x8000000000000
def hostEnd : Nat := 0x10000000000000

/-- The parts of the physical map (R213). -/
inductive Aperture | hbm | tier | reserved | ws (die : Nat) | host | none
deriving DecidableEq, Repr

/-- The aperture of a physical address, as far as it is in service (R213). -/
def State.aperture (s : State) (pa : Nat) : Aperture :=
  if pa < s.hbmSize then .hbm
  else if tierBase ≤ pa && pa < tierEnd then (if pa < tierEnd - s.rsvSize then .tier else .reserved)
  else if wsBase ≤ pa && pa < wsEnd then
    (if (s.die ((pa - wsBase) / 2 ^ 29)).inService then .ws ((pa - wsBase) / 2 ^ 29) else .none)
  else if hostBase ≤ pa && pa < hostEnd then .host
  else .none

/-- The home compute die of a granule, the sibling's when its own is retired (R214). -/
def State.homeDie (s : State) (pa : Nat) : Nat :=
  let d := bitsOf pa 24 21
  if (s.die d).inService then d else (s.die d).sib

/-- The logical home slice on the home die (R214). -/
def State.homeSlice (s : State) (pa : Nat) : Nat :=
  (bitsOf pa 15 7 ^^^ bitsOf pa 24 16) % (if (s.die (s.homeDie pa)).n480 then 480 else 512)

/-- The base die that serves a physical address (R214). -/
def baseDie (pa : Nat) : Nat :=
  if wsBase ≤ pa && pa < wsEnd then (pa - wsBase) / 2 ^ 29 / 4
  else if hostBase ≤ pa then 0
  else bitsOf pa 24 21 / 4

/-- The persistence module that holds a physical address of the tier (R214). -/
def pmod (pa : Nat) : Nat := 2 * baseDie pa + bitsOf pa 8 8

/-- What module `m` holds: the bytes of the tier whose addresses it serves. -/
def State.moduleCells (s : State) (m : Nat) : List Host.Cell := s.modules.filter fun x => pmod x.1 = m

/-- The window covers the address (R49). -/
def Window.covers (w : Window) (pa : Nat) : Bool := w.en && w.base.toNat * 65536 ≤ pa && pa < w.limit.toNat * 65536

/-- The world check of R50 at the base die that serves the address. -/
def State.worldOk (s : State) (secure : Bool) (pa : Nat) : Bool :=
  secure || !(List.range 64).any fun w =>
    match aget s.windows (64 * baseDie pa + w) with
    | some x => x.sec && x.covers pa
    | none => false

/-- The saturating world-fault count and its interrupt are raised by the operation that reports the fault (R50). -/
def satSucc (w : Word) : Word := if w = 0xFFFFFFFF then w else w + 1

/-! ## Interrupts (R46, R50) -/

/-- Event source `k` signals (R46): PEND is set, and the vector is sent when the source is enabled. -/
def State.signal (s : State) (k : Nat) : State :=
  let e := (aget s.ints k).getD {}
  let s1 := { s with ints := aset s.ints k { e with pend := true } }
  if e.en then { s1 with hostOut := s1.hostOut ++ [.msix e.vec] } else s1

/-- The world-fault count advances and source 1 signals (R43, R46, R50). -/
def State.countWorldFault (s : State) : State :=
  if s.wfcount = 0xFFFFFFFF then s else { s with wfcount := s.wfcount + 1 }.signal 1

/-- The world-fault count advances for a rejection by a world window (R50). -/
def State.noteWorld (s : State) (code : BitVec 8) : State := if code = 0x08 then s.countWorldFault else s

/-! ## ECC words (R397 to R399) -/

/-- The ECC word of an address reads as poisoned (R398). -/
def State.poisonAt (s : State) (pa : Nat) : Bool :=
  match aget s.ecc (pa / 32) with
  | some .poisoned | some (.poisonedBit _) | some .broken => true
  | _ => false

/-- Some ECC word of [pa, pa + n) reads as poisoned. -/
def State.poisonIn (s : State) (pa n : Nat) : Bool := (List.range n).any fun i => s.poisonAt (pa + i)

/-- What a read of an ECC word writes back (R398): a single-bit error corrected, an uncorrectable word poisoned. -/
def State.eccServe (s : State) (pa : Nat) : State :=
  match aget s.ecc (pa / 32) with
  | some (.bit _) => { s with ecc := adel s.ecc (pa / 32) }
  | some .broken => { s with ecc := aset s.ecc (pa / 32) .poisoned }
  | _ => s

/-- ECC word `k` after a masked write of `bytes` at `pa` (R399): clean when covered whole; else poisoned stays poisoned. -/
def eccAfter (e : Tbl Ecc) (pa : Nat) (bytes : List (Option Byte)) (k : Nat) : Tbl Ecc :=
  let covered := (List.range 32).filter fun i =>
    let a := 32 * k + i
    pa ≤ a && (match bytes[a - pa]? with | some (some _) => true | _ => false)
  if covered.isEmpty then e
  else if covered.length = 32 then adel e k
  else match aget e k with
    | some (.bit _) => adel e k
    | some .broken => aset e k .poisoned
    | _ => e

/-- Bytes of `n` at the home, or none when some ECC word is poisoned (R398). -/
def State.homeRead (s : State) (pa n : Nat) : Option (List Byte) :=
  if s.poisonIn pa n then none else some (cellsRead s.mem pa n)

/-- A 64-bit little-endian value at the home. -/
def State.homeDWord (s : State) (pa : Nat) : Option DWord := (s.homeRead pa 8).map leDWord

/-! ## Generations -/

/-- GENSTAMP of a context on a core (R219): the new value once the core has adopted a bump. -/
def State.genStamp (s : State) (k : CoreKey) (c : Nat) : BitVec 12 :=
  match (s.ctx c).bump with
  | some b => if b.adopted.contains (coreIx k) then b.new else (s.ctx c).gen
  | none => (s.ctx c).gen

/-! ## Page tables (R216, R217) -/

/-- A leaf translation: address, package, permissions, attributes. -/
structure Leaf where
  pa : Nat
  pkg : Nat
  w : Bool
  x : Bool
  attr : PageAttr
  size : Nat
  raw : DWord
deriving DecidableEq, Repr

/-- How an address resolves: a leaf, or a fault with its cause (R363). -/
inductive Walked
  | leaf (l : Leaf)
  | bad (code : BitVec 8)
deriving DecidableEq, Repr

/-- The bits of a virtual address that index level `l`, lowest bit and width (R216). -/
def levelLo : Nat → Nat
  | 0 => 16 | 1 => 21 | 2 => 30 | 3 => 39 | _ => 48

/-- The index at level `l`. -/
def levelIx (l : Nat) (ea : DWord) : Nat := ea.toNat / 2 ^ levelLo l % (if l = 0 then 32 else 512)

/-- A leaf of level `l` with entry `e` for address `ea` (R217). -/
def leafOf (l : Nat) (e : DWord) (ea : DWord) : Walked :=
  let frame := dbits e 51 12 * 4096
  let size := 2 ^ levelLo l
  let host := hostBase ≤ frame
  if frame % size ≠ 0 || dbits e 11 8 ≠ 0 || (e.getLsbD 5 && !host) then .bad 0x06
  else .leaf {
    pa := frame + ea.toNat % size, pkg := dbits e 59 52, w := e.getLsbD 2, x := e.getLsbD 3
    attr := { nc := e.getLsbD 4, hostp := e.getLsbD 5 }, size := size, raw := e }

/-- One level of the walk and the levels below it (R216, R217). `table` is the table's physical address. -/
def State.walkFrom (s : State) (secure : Bool) (ea : DWord) : Nat → Nat → Walked
  | l, table =>
    let at_ := table + 8 * levelIx l ea
    if s.hbmSize ≤ table then .bad 0x06
    else if !s.worldOk secure at_ then .bad 0x08
    else match s.homeDWord at_ with
      | none => .bad 0x09
      | some e =>
        if !e.getLsbD 0 || dbits e 7 6 ≠ 0 || dbits e 63 60 ≠ 0 then .bad 0x06
        else if e.getLsbD 1 then (if l ≤ 2 then leafOf l e ea else .bad 0x06)
        else if dbits e 59 52 ≠ 0 || (l ≠ 1 && dbits e 11 8 ≠ 0) || e.getLsbD 5 then .bad 0x06
        else match l with
          | 0 => .bad 0x06
          | l' + 1 => s.walkFrom secure ea l' (dbits e 51 12 * 4096 + dbits e 11 8 * 256)

/-- The entries that a walk reads, by their physical addresses (R216). -/
def State.walkReads (s : State) (secure : Bool) (ea : DWord) : Nat → Nat → List Nat
  | l, table =>
    let at_ := table + 8 * levelIx l ea
    if s.hbmSize ≤ table || !s.worldOk secure at_ then []
    else at_ :: (match s.homeDWord at_, l with
      | some e, l' + 1 => if !e.getLsbD 0 || e.getLsbD 1 then [] else s.walkReads secure ea l' (dbits e 51 12 * 4096 + dbits e 11 8 * 256)
      | _, _ => [])

/-- The walk of a virtual address through the tables of context `c` (R216). -/
def State.walk (s : State) (c : Nat) (ea : DWord) : Walked :=
  let root := (s.ctx c).ptroot
  if dbits root 11 0 ≠ 0 || dbits root 63 52 ≠ 0 then .bad 0x06
  else s.walkFrom (s.ctx c).secure ea 4 (dbits root 51 12 * 4096)

/-- The translation of an access that carries generation `gen` (R218, R219): an entry of the core's current generation in its TLB or its
die's, else a walk, whose reads the homes reject under any value but theirs. -/
def State.translateAs (s : State) (k : CoreKey) (c : Nat) (gen : BitVec 12) (ea : DWord) : Walked :=
  let hit := ((s.core k).tlb ++ (s.die k.die).tlb).find? fun e => e.ctx == c && e.gen == gen && ea.toNat / e.size == e.base / e.size
  match (if gen = s.genStamp k c then hit else none) with
  | some e => leafOf (if e.size = 65536 then 0 else if e.size = 2097152 then 1 else 2) e.leaf ea
  | none => if gen = (s.ctx c).gen then s.walk c ea else .bad 0x07

/-- The translation that a core's stream uses, under its GENSTAMP. -/
def State.translate (s : State) (k : CoreKey) (c : Nat) (ea : DWord) : Walked := s.translateAs k c (s.genStamp k c) ea

/-- What an access does with the page it names (R217, R225). -/
inductive AccKind | read | write | atomic | fetch | weights | weightWrite | ldws
deriving DecidableEq, Repr

/-- A resolved access: its place and page attributes, or its fault (R215). -/
inductive Resolved
  | ok (p : Place) (a : PageAttr)
  | bad (code : BitVec 8)
deriving DecidableEq, Repr

/-- The scratchpad window (R215). -/
def spWindow : Nat := 0x1FFFFFFFFF80000

/-- A leaf against the access kind and the physical map (R213, R217, R225). The host aperture is served with HOSTP = 0 whether or not CXL.cache has been
negotiated; only its use of L1 asks for that (log 95). -/
def State.permit (s : State) (die : Nat) (kind : AccKind) (l : Leaf) : Resolved :=
  if (kind == .write || kind == .atomic || kind == .weightWrite) && !l.w then .bad 0x06
  else if kind == .fetch && !l.x then .bad 0x06
  else if kind == .atomic && l.attr.hostp then .bad 0x06
  else if l.pkg ≠ s.self then
    (if s.domain.contains l.pkg && kind != .weightWrite && kind != .ldws then .ok (.remote l.pkg l.pa) l.attr else .bad 0x06)
  else match s.aperture l.pa with
    | .none => .bad 0x06
    | .reserved => .bad 0x08
    | .ws d =>
      if (kind == .weights || kind == .ldws) && d = die then .ok (.home l.pa) l.attr
      else if kind == .weightWrite then .ok (.home l.pa) l.attr
      else .bad 0x06
    | _ => if kind == .weightWrite || kind == .ldws then .bad 0x06 else .ok (.home l.pa) l.attr

/-- The resolution of generic address `ea` for a party of team `t` on core `k` (R215) under generation `gen`. `n` bytes are touched, all in one page. -/
def State.resolveAs (s : State) (gen : BitVec 12) (k : CoreKey) (c t : Nat) (size : Nat) (kind : AccKind) (ea : DWord) (n : Nat) : Resolved :=
  if 2 ^ 57 ≤ ea.toNat then .bad 0x06
  else if spWindow ≤ ea.toNat then
    (if kind == .fetch || kind == .weights || kind == .weightWrite || kind == .ldws then .bad 0x06
     else if ea.toNat - spWindow + n ≤ size then .ok (.scratch t (ea.toNat - spWindow)) {} else .bad 0x06)
  else match s.translateAs k c gen ea with
    | .bad code => .bad code
    | .leaf l => s.permit k.die kind l

/-- The resolution under the core's GENSTAMP. -/
def State.resolve (s : State) (k : CoreKey) (c t : Nat) (size : Nat) (kind : AccKind) (ea : DWord) (n : Nat) : Resolved :=
  s.resolveAs (s.genStamp k c) k c t size kind ea n

/-! ## Round regions (R309, R310) -/

/-- The virtual address of region record `i` (R309). -/
def regionVa (i : Nat) : DWord := dw (0x1FFFFFFFFB80000 + 64 * i)

/-- The table page maps as R309 asks: HBM4E and W = 1, on this package or on another of the domain (R326, log 42). -/
def State.tablePage (s : State) (l : Leaf) : Bool := l.w && s.aperture l.pa == .hbm && (l.pkg = s.self || s.domain.contains l.pkg)

/-- Where record `i` lies, through a translated table page (R309). -/
def State.regionPa (s : State) (k : CoreKey) (c i : Nat) : Walked :=
  match s.translate k c (regionVa i) with
  | .bad code => .bad code
  | .leaf l => if s.tablePage l then .leaf l else .bad 0x06

/-- A record of 64 bytes at physical address `pa` (R309): its limits hold and its reserved bits are zero, or it is invalid. -/
def regionOf (pa : Nat) (bs : List Byte) : RegionRead :=
  let q := fun i => leNat (bs.drop (8 * i) |>.take 8)
  let p := bitsOf (q 0) 14 8
  let rec_ : RegionRec := {
    pa := pa, p := p, base := q 1, len := q 2, rc := w32 (q 3), reg := dw (q 4), arr := dw (q 5), ret := dw (q 6) }
  if q 0 % 2 = 0 then .invalid
  else if bitsOf (q 0) 7 1 ≠ 0 || bitsOf (q 0) 63 15 ≠ 0 || p < 1 || 64 < p || q 1 % 128 ≠ 0 || 2 ^ 57 ≤ q 1 ||
      q 2 % 128 ≠ 0 || q 2 < 128 || 2 ^ 40 < q 2 || bitsOf (q 3) 63 32 ≠ 0 || q 7 ≠ 0 then .invalid
  else .valid rec_

/-- The record at physical address `pa` of this package. -/
def State.regionAt (s : State) (pa : Nat) : RegionRead :=
  match s.homeRead pa 64 with
  | none => .bad 0x09
  | some bs => regionOf pa bs

/-- The record as a context of world `secure` reads it (R231). -/
def State.regionSeen (s : State) (secure : Bool) (pa : Nat) : RegionRead := if s.worldOk secure pa then s.regionAt pa else .bad 0x08

/-- Record `i` of context `c` as core `k` reads it on this package. -/
def State.regionRead (s : State) (k : CoreKey) (c i : Nat) : RegionRead :=
  match s.regionPa k c i with
  | .bad code => .bad code
  | .leaf l => if l.pkg = s.self then s.regionSeen (s.ctx c).secure l.pa else .bad 0x06

/-- What the membership search finds: a region, none, the first record that does not translate as R309 requires, or the first of another package that
this package's cores have still to read. -/
inductive Member
  | none
  | region (i : Nat) (r : RegionRec)
  | unreadable (i : Nat)
  | unread (i : Nat)
deriving DecidableEq, Repr

/-- The search of one page of 1,024 records at a translated page (R310); `cells` are the page's listed bytes. A record whose V is 0 holds
no address, nor does one that the context cannot read. -/
def State.memberIn (s : State) (secure : Bool) (cells : List Host.Cell) (pageBase first : Nat) (va : Nat) : Nat → Nat → Member
  | 0, _ => .none
  | n + 1, i =>
    if !(cellRead cells (pageBase + 64 * (i - first))).getLsbD 0 then s.memberIn secure cells pageBase first va n (i + 1)
    else match s.regionSeen secure (pageBase + 64 * (i - first)) with
      | .valid r => if r.base ≤ va && va < r.base + r.len then .region i r else s.memberIn secure cells pageBase first va n (i + 1)
      | _ => s.memberIn secure cells pageBase first va n (i + 1)

/-- The search of one page of records on another package, in the copies that the cores have read under their generation (R310, R326). -/
def State.memberCopied (s : State) (c : Nat) (gen : BitVec 12) (va : Nat) : Nat → Nat → Member
  | 0, _ => .none
  | n + 1, i =>
    match aget s.regionCopies (4096 * c + i) with
    | some (g, r) =>
      if g ≠ gen then .unread i
      else (match r with
        | some r => if r.base ≤ va && va < r.base + r.len then .region i r else s.memberCopied c gen va n (i + 1)
        | none => s.memberCopied c gen va n (i + 1))
    | none => .unread i

/-- The search over the four pages of the table (R309, R310); `strict` stops at a page that does not translate as R309 requires. -/
def State.memberFrom (s : State) (k : CoreKey) (c : Nat) (va : Nat) (strict : Bool) : List Nat → Member
  | [] => .none
  | pg :: rest =>
    match s.regionPa k c (1024 * pg) with
    | .bad _ => if strict then .unreadable (1024 * pg) else s.memberFrom k c va strict rest
    | .leaf l =>
      match if l.pkg ≠ s.self then s.memberCopied c (s.genStamp k c) va 1024 (1024 * pg)
        else s.memberIn (s.ctx c).secure (s.mem.filter fun x => l.pa ≤ x.1 && x.1 < l.pa + 65536) l.pa (1024 * pg) va 1024 (1024 * pg) with
      | .none => s.memberFrom k c va strict rest
      | m => m

/-- The region that holds virtual address `va` (R310). The table spans four 64 KiB pages; its records are read page by page. -/
def State.member (s : State) (k : CoreKey) (c : Nat) (va : DWord) (strict : Bool) : Member :=
  s.memberFrom k c va.toNat strict [0, 1, 2, 3]

/-- Some record that decides the region of a virtual address has still to be read from another package. -/
def State.unreadTable (s : State) (k : CoreKey) (c : Nat) (va : DWord) : Bool :=
  match s.member k c va false with
  | .unread _ => true
  | _ => false

/-! ## Persist images, tags and the lehr -/

/-- Tag `u` is newer than `t` (R355). -/
def newerTag (u t : BitVec 16) : Bool := u ≠ t && (u - t).toNat < 2 ^ 15

/-- The step tag of this package's writes (R355). -/
def State.stepTag (s : State) : BitVec 16 := s.normbox.step.setWidth 16

/-- The image of a granule as it stands at its home (R348), and the state that has sent it to the WBQ. -/
def State.sendImage (s : State) (granule : Nat) : Nat × State :=
  let img : Image := {
    id := s.nextId, granule := granule, bytes := cellsRead s.mem (64 * granule) 64
    psn := [s.poisonAt (64 * granule), s.poisonAt (64 * granule + 32)]
    tag := (aget s.tags (granule / 4)).getD 0 }
  (s.nextId, { s with images := s.images ++ [img], nextId := s.nextId + 1 })

/-- The images of several granules. -/
def State.sendImages (s : State) : List Nat → List Nat × State
  | [] => ([], s)
  | g :: gs =>
    let r := s.sendImage g
    let rest := r.2.sendImages gs
    (r.1 :: rest.1, rest.2)

/-- Bytes applied at a physical address, with ECC words (R399). -/
def State.putBytes (s : State) (pa : Nat) (bytes : List (Option Byte)) : State :=
  let ws := (List.range (bytes.length / 32 + 2)).map fun i => pa / 32 + i
  { s with mem := cellsWrite s.mem pa bytes, ecc := ws.foldl (fun e k => eccAfter e pa bytes k) s.ecc }

/-- The ECC word of an address is made poisoned (R397). -/
def State.poisonWord (s : State) (pa : Nat) : State := { s with ecc := aset s.ecc (pa / 32) .poisoned }

/-- The numbers of the blocks of `size` bytes that a masked write touches. -/
def touchedBlocks (size pa : Nat) (bytes : List (Option Byte)) : List Nat :=
  ((List.range bytes.length).filterMap fun i =>
    match bytes[i]? with
    | some (some _) => some ((pa + i) / size)
    | _ => none).eraseDups

/-- The slot of the running capture (R358) and the address in it of the live byte `x` of the range. -/
def State.slotBase (s : State) : Nat := if s.lehr.sstep.getLsbD 0 then s.lehr.slot1.toNat else s.lehr.slot0.toNat

/-- Line `ln` (256 bytes) of the tier lies in the range of a running capture (R360), whose configuration is valid and which has not failed. -/
def State.captures (s : State) (ln : Nat) : Bool :=
  s.lehr.busy && s.lehr.fail = 0 && s.lehr.liveBase.toNat ≤ 256 * ln &&
    256 * ln < s.lehr.liveBase.toNat + s.lehr.liveLen.toNat

/-- The tag of a line after a write of tag `tag` (R355). -/
def tagAfter (tags : Tbl (BitVec 16)) (tag : BitVec 16) (ln : Nat) : Tbl (BitVec 16) :=
  if newerTag tag ((aget tags ln).getD 0) then aset tags ln tag else tags

/-- The lehr has the world of the context that it captures for (R48, R50): an access of it that the worlds reject leaves the memory as it
is (log 82), and the world-fault count is raised. -/
def State.lehrMay (s : State) (pa : Nat) : Bool := s.worldOk (s.ctx s.lehr.ctx.toNat).secure pa

/-- A write of the lehr into the slot (R355, R357): applied at its home with the package's step tag, its ECC words `bad` poisoned, sent to the WBQ. -/
def State.slotWrite (s : State) (dst : Nat) (bytes : List (Option Byte)) (bad : List Nat) : State :=
  if s.lehrMay dst then
    let s1 := bad.foldl (fun st w => st.poisonWord (32 * w)) (s.putBytes dst bytes)
    let s2 := { s1 with tags := (touchedBlocks 256 dst bytes).foldl (fun t ln => tagAfter t s.stepTag ln) s1.tags }
    let r := s2.sendImages (touchedBlocks 64 dst bytes)
    { r.2 with lehr := { r.2.lehr with hdrWait := r.1 ++ r.2.lehr.hdrWait } }
  else s.countWorldFault

/-- The address in the slot of the copy of line `ln` (R357). -/
def State.slotLine (s : State) (ln : Nat) : Nat := s.slotBase + 256 + (256 * ln - s.lehr.liveBase.toNat)

/-- A line's copy is put into the slot, its poisoned words as poisoned (R400). -/
def State.slotPut (s : State) (x : EarlyLine) : State :=
  let dst := s.slotLine x.line
  s.slotWrite dst (x.bytes.map some) ((List.range 8).filterMap fun i => if x.psn.getD i false then some (dst / 32 + i) else none)

/-- A line as the lehr reads it at its home, where corrections are written back (R398). A line that the worlds keep from it reads as poisoned
(log 82). -/
def State.lineNow (s : State) (ln : Nat) : EarlyLine × State :=
  if s.lehrMay (256 * ln) then
    ({ line := ln, bytes := cellsRead s.mem (256 * ln) 256, psn := (List.range 8).map fun i => s.poisonAt (256 * ln + 32 * i) },
      (List.range 8).foldl (fun st i => st.eccServe (256 * ln + 32 * i)) s)
  else ({ line := ln, bytes := List.replicate 256 0, psn := List.replicate 8 true }, s.countWorldFault)

/-- Line `ln` is copied as it stands at its home (R360): to the slot, or, while the slot's header has not been cleared, for the slot (log 83). -/
def State.copyLine (s : State) (ln : Nat) : State :=
  let r := s.lineNow ln
  let s1 := { r.2 with lehr := { r.2.lehr with copied := ln :: r.2.lehr.copied } }
  if s.lehr.stage = 1 then { s1 with lehr := { s1.lehr with early := r.1 :: s1.lehr.early } } else s1.slotPut r.1

/-- What the lehr does before a write of tag `tag` to line `ln` is applied (R360): copy on write. -/
def State.lehrBefore (s : State) (tag : BitVec 16) (ln : Nat) : State :=
  if s.captures ln && newerTag tag (s.lehr.sstep.setWidth 16) && !s.lehr.copied.contains ln then s.copyLine ln else s

/-- A masked write applied to a copied line: its bytes, and the ECC words of `bad` poisoned; a word written whole is clean (R399). -/
def EarlyLine.write (x : EarlyLine) (pa : Nat) (bytes : List (Option Byte)) (bad : List Nat) : EarlyLine :=
  let at_ := fun i : Nat => if pa ≤ 256 * x.line + i then (bytes[256 * x.line + i - pa]?).getD none else none
  { x with
    bytes := (List.range 256).map fun i => (at_ i).getD (x.bytes.getD i 0)
    psn := (List.range 8).map fun w =>
      bad.contains (8 * x.line + w) || (x.psn.getD w false && !(List.range 32).all fun i => (at_ (32 * w + i)).isSome) }

/-- The part of a write that falls into line `ln`: its address and bytes. -/
def linePart (pa : Nat) (bytes : List (Option Byte)) (ln : Nat) : Nat × List (Option Byte) :=
  let lo := max pa (256 * ln)
  (lo, (bytes.drop (lo - pa)).take (256 * ln + 256 - lo))

/-- A late write of step s, applied to the copies of copied lines as well (R360), with the ECC words `bad` poisoned (R400). -/
def State.lehrLate (s : State) (tag : BitVec 16) (pa : Nat) (bytes : List (Option Byte)) (bad : List Nat) : State :=
  (touchedBlocks 256 pa bytes).foldl (fun st ln =>
    if st.captures ln && !newerTag tag (st.lehr.sstep.setWidth 16) && st.lehr.copied.contains ln then
      if st.lehr.stage = 1 then
        { st with lehr := { st.lehr with early := st.lehr.early.map fun x => if x.line = ln then x.write pa bytes bad else x } }
      else
        let p := linePart pa bytes ln
        let d := st.slotLine ln
        st.slotWrite (d + (p.1 - 256 * ln)) p.2 ((bad.filter fun w => w / 8 = ln).map fun w => d / 32 + w % 8)
    else st) s

/-- The virtual address of the accumulator element (m, o) of a stream (R268). -/
def Stream.elemVa (x : Stream) (m o : Nat) : DWord :=
  dw ((x.args.getD 1 0).toNat + 64 + m * dbits (x.args.getD 2 0) 31 0 + 4 * o)

/-- The physical address of the accumulator element (m, o) of a running stream (R268). -/
def State.streamElem (s : State) (x : Stream) (m o : Nat) : Option Nat :=
  match s.translate x.core x.ctx (x.elemVa m o) with
  | .leaf l => if l.pkg = s.self then some l.pa else none
  | .bad _ => none

/-- Four bytes at virtual address `ea` may lie in [pa, pa + n): translation keeps the bits [15:0] (R216). -/
def mayMeet (ea pa n : Nat) : Bool :=
  65532 ≤ n || (let r := (ea % 65536 + 65540 - pa % 65536) % 65536; 0 < r && r < n + 4)

/-- Index m·outs + o of an element of the stream that overlaps [pa, pa + n). -/
def State.streamHits (s : State) (x : Stream) (pa n : Nat) : List Nat :=
  (List.range (x.rows * x.outs)).filter fun i =>
    mayMeet (x.elemVa (i / x.outs) (i % x.outs)).toNat pa n &&
    match s.streamElem x (i / x.outs) (i % x.outs) with
    | some p => p < pa + n && pa < p + 4
    | none => false

/-- The access of issue `issue` of group `gid` stands before command `id` of that group: it is performed before the accumulations (R228), outside the
window, which opens at the command's issue (R280). -/
def Stream.follows (x : Stream) (id gid issue : Nat) : Bool := x.gid = gid && issue < id

/-- The streams note a foreign write of their accumulator elements (R280), but for those that `out` names. -/
def State.touchStreams (s : State) (pa n : Nat) (out : Nat → Stream → Bool := fun _ _ => false) : State :=
  { s with streams := s.streams.map fun p =>
      let hits := if out p.1 p.2 then [] else s.streamHits p.2 pa n
      if hits.isEmpty then p else (p.1, { p.2 with touched := (hits ++ p.2.touched).eraseDups }) }

/-- A foreign read of an accumulator element within the window of its command returns an undefined value (R280). -/
def State.readsWindow (s : State) (pa n : Nat) (out : Nat → Stream → Bool := fun _ _ => false) : Bool :=
  s.streams.any fun p => !out p.1 p.2 && !(s.streamHits p.2 pa n).isEmpty

/-- A masked write applied at its home (R228, R229), which leaves the ECC words `bad` poisoned: bytes, ECC words, the L2 line dirty; in the tier
the lehr's copy on write, the step tag, and either images for a durable write or dirty granules. The identifiers are those of the images sent. -/
def State.putWrite (s : State) (pa : Nat) (bytes : List (Option Byte)) (bad : List Nat) (tag : BitVec 16) (durable : Bool) : List Nat × State :=
  let put := fun st : State => bad.foldl (fun t w => t.poisonWord (32 * w)) (st.putBytes pa bytes)
  if tierBase ≤ pa && pa < tierEnd then
    let lines := touchedBlocks 256 pa bytes
    let s1 := lines.foldl (fun st ln => st.lehrBefore tag ln) s
    let s2 := (put s1).lehrLate tag pa bytes bad
    let s3 := { s2 with tags := lines.foldl (fun t ln => tagAfter t tag ln) s2.tags }
    let gs := touchedBlocks 64 pa bytes
    if durable then s3.sendImages gs
    else ([], { s3 with l2tierDirty := (gs ++ s3.l2tierDirty).eraseDups,
                        l2dirty := (touchedBlocks 128 pa bytes ++ s3.l2dirty).eraseDups })
  else
    let s1 := put s
    ([], if pa < tierBase then { s1 with l2dirty := (touchedBlocks 128 pa bytes ++ s1.l2dirty).eraseDups } else s1)

/-- A masked write of clean bytes applied at its home (R228, R229). -/
def State.accWrite (s : State) (pa : Nat) (bytes : List (Option Byte)) (tag : BitVec 16) (durable : Bool) : List Nat × State :=
  s.putWrite pa bytes [] tag durable

/-- As `accWrite`, by a party other than a matrix accumulation (R280); the write lies outside the windows of the streams that `out` names. -/
def State.homeWriteBut (s : State) (out : Nat → Stream → Bool) (pa : Nat) (bytes : List (Option Byte)) (tag : BitVec 16) (durable : Bool) :
    List Nat × State := (s.touchStreams pa bytes.length out).accWrite pa bytes tag durable

/-- A write that lies in every window. -/
def State.homeWrite (s : State) (pa : Nat) (bytes : List (Option Byte)) (tag : BitVec 16) (durable : Bool) : List Nat × State :=
  s.homeWriteBut (fun _ _ => false) pa bytes tag durable

/-! ## L1 (R221) -/

/-- The L1 line of context `c` at physical line address `ln` (128-byte aligned). -/
def Core.l1Find (k : Core) (c ln : Nat) : Option L1Line := k.l1.find? fun x => x.pa == ln && x.ctx == c

/-- The core with the line replaced or added. -/
def Core.l1Put (k : Core) (x : L1Line) : Core :=
  { k with l1 := x :: k.l1.filter fun y => !(y.pa == x.pa && y.ctx == x.ctx) }

/-- The core without the line. -/
def Core.l1Drop (k : Core) (c ln : Nat) : Core := { k with l1 := k.l1.filter fun y => !(y.pa == ln && y.ctx == c) }

/-- The bytes of [pa, pa + n) in the line, when every word is valid. -/
def L1Line.read (x : L1Line) (pa n : Nat) : Option (List Byte) :=
  (List.range n).mapM fun i =>
    let o := pa + i - x.pa
    (aget x.words (o / 4)).map fun w => BitVec.ofNat 8 (w.data.toNat / 2 ^ (8 * (o % 4)))

/-- The word of the line after a byte store. -/
def L1Word.setByte (w : L1Word) (o : Nat) (b : Byte) : L1Word :=
  let keep := w.data.toNat - w.data.toNat / 2 ^ (8 * o) % 256 * 2 ^ (8 * o)
  { w with data := w32 (keep + b.toNat * 2 ^ (8 * o)) }

/-- The line with bytes stored into its valid words, left as clean or dirty as they are (R221, write-through). -/
def L1Line.update (x : L1Line) (pa : Nat) (bytes : List (Option Byte)) : L1Line :=
  { x with words := (List.range bytes.length).foldl (fun ws i =>
      match bytes[i]? with
      | some (some b) =>
        let o := pa + i - x.pa
        if x.pa ≤ pa + i && pa + i < x.pa + 128 then amod ws (o / 4) fun w => w.setByte (o % 4) b else ws
      | _ => ws) x.words }

/-- The line with whole words written, valid and dirty (R221). -/
def L1Line.store (x : L1Line) (pa : Nat) (words : List Word) : L1Line :=
  { x with words := (List.range words.length).foldl (fun ws i =>
      aset ws ((pa - x.pa) / 4 + i) { data := words.getD i 0, dirty := true }) x.words }

/-- The line filled from its home: invalid words are filled, valid words are kept (R221); a round-region line is replaced whole
and tagged (R316). -/
def L1Line.fill (x : L1Line) (home : List Byte) (region : Option (Nat × Word)) : L1Line :=
  let word := fun i => w32 (leNat ((home.drop (4 * i)).take 4))
  match region with
  | some r => { x with words := (List.range 32).map fun i => (i, { data := word i, dirty := false }), region := some r }
  | none =>
    { x with
      words := (List.range 32).foldl (fun ws i =>
        match aget ws i with
        | some _ => ws
        | none => aset ws i { data := word i, dirty := false }) x.words
      region := none }

/-- The line without the words that [pa, pa + n) touches. -/
def L1Line.without (x : L1Line) (pa n : Nat) : L1Line :=
  { x with words := x.words.filter fun w => x.pa + 4 * w.1 + 4 ≤ pa || pa + n ≤ x.pa + 4 * w.1 }

/-- The bytes of a line's valid words. -/
def L1Line.validBytes (x : L1Line) : List (Option Byte) :=
  (List.range 128).map fun o => (aget x.words (o / 4)).map fun w => BitVec.ofNat 8 (w.data.toNat / 2 ^ (8 * (o % 4)))

/-- The byte mask and data of a line's dirty words (R222). -/
def L1Line.dirtyBytes (x : L1Line) : List (Option Byte) :=
  (List.range 128).map fun o =>
    match aget x.words (o / 4) with
    | some w => if w.dirty then some (BitVec.ofNat 8 (w.data.toNat / 2 ^ (8 * (o % 4)))) else none
    | none => none

/-- The words of the line that lie in [pa, pa + n) are clean. -/
def L1Line.cleanIn (x : L1Line) (pa n : Nat) : L1Line :=
  { x with words := x.words.map fun w => if pa ≤ x.pa + 4 * w.1 && x.pa + 4 * w.1 + 4 ≤ pa + n then (w.1, { w.2 with dirty := false }) else w }

/-- The line has a dirty word. -/
def L1Line.isDirty (x : L1Line) : Bool := x.words.any fun w => w.2.dirty

/-- The line with its words clean. -/
def L1Line.clean (x : L1Line) : L1Line := { x with words := x.words.map fun w => (w.1, { w.2 with dirty := false }) }

/-- How many lines the core's L1 holds at most (R68, R211). -/
def Core.l1Lines (k : Core) : Nat := (524288 - k.spz) / 128

/-- The core still has L1 (R68): SPZ below 512 KiB. -/
def Core.hasL1 (k : Core) : Bool := k.spz < 524288

end Sys2Proof.Machine
end

