-- ==== Sys2Proof/Machine/Ops.lean ====
section
/-!
DEFINITION. The shared operations of the machine: completion records (R60, R62), taking a trap or fault and
returning from one (R364 to R369), issuing an S word (R87, R133, R134), entering the quarantine with the release log (R378,
R383), sending messages, releases and acquires (R298, R299, R304).
-/
namespace Sys2Proof.Machine

/-! ## Interrupts and completion records -/

/-- The 32 bytes of completion record number `k` (R60). -/
def CompRec.bytes (r : CompRec) (log2 k : Nat) : List Byte :=
  let phase := if k / 2 ^ log2 % 2 = 0 then 1 else 0
  leBytes 8 (r.typ.toNat + r.status.toNat * 2 ^ 8 + r.queue.toNat * 2 ^ 16 + phase * 2 ^ 31 + r.slot.toNat * 2 ^ 32) ++
    leBytes 8 r.ctag.toNat ++ leBytes 8 r.time.toNat ++ leBytes 8 r.info.toNat

/-- The place of a device access of context `c` (queues, records): translated, and checked against the worlds of this package's homes; on
another package its home checks it (R326). -/
def State.deviceAddr (s : State) (c : Nat) (kind : AccKind) (ea : DWord) : Except (BitVec 8) Place :=
  if 2 ^ 57 ≤ ea.toNat || spWindow ≤ ea.toNat then .error 0x06
  else match s.walk c ea with
    | .bad code => .error code
    | .leaf l =>
      match s.permit 16 kind l with
      | .ok (.home pa) _ => if s.worldOk (s.ctx c).secure pa then .ok (.home pa) else .error 0x08
      | .ok p _ => .ok p
      | .bad code => .error code

/-- The completion queue of context `c` is full (R62). -/
def Context.cqIsFull (x : Context) : Bool := (x.cqtail - x.cqhead).toNat = 2 ^ x.cqlog2

/-- An access of the device leaves for another package (R326): its number, and the state that has sent it. -/
def State.askDevice (s : State) (c pkg pa : Nat) (op : RemoteOp) (d : DevAsk) : Nat × State :=
  (s.nextId, { s with
    fabricOut := s.fabricOut ++ [(pkg, .access s.self s.nextId (BitVec.ofNat 6 c) (s.ctx c).gen pa op)]
    devAsks := aset s.devAsks s.nextId d
    nextId := s.nextId + 1 })

/-- A record has been written (R62): CQTAIL, the vector of the context, and source 5 for a context fault (R46). -/
def State.recordWritten (s : State) (c : Nat) (r : CompRec) : State :=
  let x := s.ctx c
  let s1 := s.modCtx c fun y => { y with cqtail := y.cqtail + 1 }
  let s2 := if x.cqie then { s1 with hostOut := s1.hostOut ++ [.msix x.cqvec] } else s1
  if r.typ = 3 then s2.signal 5 else s2

/-- Writes held records in order until the queue is full, a write faults, or another package has to answer (R62). CQFULL is set once a record
waits for room, as R53 describes it (log 86). -/
def State.flushRecords (s : State) (c : Nat) : List CompRec → State
  | [] => s.modCtx c fun x => { x with held := [], cqfull := false }
  | r :: rest =>
    let x := s.ctx c
    if x.cqIsFull then s.setCtx c { x with held := r :: rest, cqfull := true }
    else match s.deviceAddr c .write (dw (x.cqbase.toNat + 32 * (x.cqtail.toNat % 2 ^ x.cqlog2))) with
      | .error code =>
        let s1 := s.setCtx c { x with held := r :: rest, cqerr := true }
        s1.noteWorld code
      | .ok (.home pa) =>
        let s1 := (s.homeWrite pa ((r.bytes x.cqlog2 x.cqtail.toNat).map some) s.stepTag false).2
        (s1.recordWritten c r).flushRecords c rest
      | .ok (.remote pkg pa) =>
        let a := s.askDevice c pkg pa (.store ((r.bytes x.cqlog2 x.cqtail.toNat).map some) false s.stepTag) (.record c)
        a.2.setCtx c { x with held := r :: rest, cqAsk := some a.1 }
      | .ok (.scratch _ _) => s

/-- A completion record is posted to context `c` (R62): written now, or held behind a full queue, an error, or earlier records. -/
def State.postRecord (s : State) (c : Nat) (r : CompRec) : State :=
  let x := s.ctx c
  if x.cqerr || x.cqfull || x.cqAsk.isSome then s.setCtx c { x with held := x.held ++ [r] }
  else s.flushRecords c (x.held ++ [r])

/-! ## Traps and faults -/

/-- The causes that park a group (R363, R369). -/
def isSystemCause (code : BitVec 8) : Bool :=
  code = 0x08 || code = 0x09 || code = 0x0A || code = 0x0B || code = 0x0D

/-- The word of TRAPCAUSE (R364). -/
def causeWord (c : Cause) (sys nest : Bool) : DWord :=
  dw (c.code.toNat + c.sub.toNat * 2 ^ 8 + c.lane.toNat * 2 ^ 16 + sys.toNat * 2 ^ 17 + c.late.toNat * 2 ^ 18 + nest.toNat * 2 ^ 19)

/-- The trap registers that cause `c` writes, with resume point `rp` (R364, R366). -/
def trapRegs (old : TrapRegs) (c : Cause) (sys nest : Bool) (rp : DWord) : TrapRegs :=
  { cause := causeWord c sys nest, pc := c.pc, lpc := c.lpc.setWidth 64, addr := c.addr
    donemask := if c.lane then c.donemask else old.donemask, rp := rp }

/-- The context-fault completion record of a parked group (R370). -/
def faultRecord (w : Who) (c : Cause) (now : Nat) : CompRec where
  typ := 3
  status := c.code
  queue := BitVec.ofNat 4 w.launch.queue
  slot := w.launch.slot
  ctag := w.lrec.ctag
  time := dw now
  info := dw (c.code.toNat + c.sub.toNat * 2 ^ 8 + w.g.slot * 2 ^ 16 + w.core.die * 2 ^ 22 + w.team.col * 2 ^ 26 +
    w.team.row * 2 ^ 30 + w.g.idx * 2 ^ 34)

/-- The group with its running block stopped (R366 step 2); an L `rgn` under way begins again when the block resumes. -/
def Group.stopBlock (g : Group) (byLane : Bool) : Group :=
  { g with block := g.block.map (fun b => { b with stopped := true, byLane := b.byLane || byLane }), lrgn := none }

/-- A program trap is delivered to the handler (R366): the trap registers, the resume point, the handler's address. -/
def Group.deliver (g : Group) (r : LaunchRec) (c : Cause) (rp : DWord) : Group :=
  { g.stopBlock c.lane with
    trap := trapRegs g.trap c false false rp
    dmIssue := if c.lane then c.issue else g.dmIssue
    inHandler := true
    hold := none
    waits := []
    spc := dw (r.sbase.toNat + 4 * r.trapvec) }

/-- A group is parked by cause `c` (R369). -/
def Group.parkBy (g : Group) (c : Cause) (precise : Bool) (rp : DWord) : Group :=
  { g.stopBlock c.lane with
    trap := trapRegs g.trap c true g.inHandler (if g.inHandler then g.trap.rp else rp)
    dmIssue := if c.lane then c.issue else g.dmIssue
    park := some { cause := c, nest := g.inHandler, precise := precise, system := isSystemCause c.code } }

/-- A group takes a trap or fault (R366, R369): a program trap enters the handler; in the handler, without a handler, after the
S `exit`, and for every system fault it parks the group, and a context-fault record is posted. A parked group holds the cause
(R369); a finished group takes none (R373). A group that a strike has stopped takes no trap: its replay raises it again, or it is held (R396). -/
def State.takeCause (s : State) (gid : Nat) (c : Cause) (precise : Bool) : State :=
  match s.who gid with
  | none => s
  | some w =>
    if w.g.done || (w.g.striking && !c.late && !isSystemCause c.code) then s
    else if w.g.park.isSome || (w.g.striking && c.late) then s.setGroup gid { w.g with late := w.g.late ++ [c] }
    else if !isSystemCause c.code && !w.g.inHandler && w.lrec.trapvec ≠ 0xFFFFFFFF && !w.g.sExited then
      s.setGroup gid (w.g.deliver w.lrec c (if precise then c.pc else w.g.spc))
    else
      (s.setGroup gid (w.g.parkBy c precise (if precise then c.pc else w.g.spc))).postRecord w.ctx (faultRecord w c s.cycle)

/-- The group's S-stream holds a word that has begun (R366): `klaunch` and `evset` from their quarantine on, `rnd.reg`, `rnd.adv` after its
first step. A `gfree`, a fence, an `rgn` or the first step of `rnd.adv` only waits, and a trap finds the stream at that word. -/
def Group.inWord (g : Group) : Bool :=
  match g.hold with
  | some h => (2 ≤ h.stage && h.stage ≤ 4) || h.stage = 40 || 51 ≤ h.stage
  | none => false

/-- A cause that cannot be raised again by a reissue (R366, R367, R369): held while the group is in its handler or parked,
otherwise taken at once. -/
def State.takeLate (s : State) (gid : Nat) (c : Cause) : State :=
  match aget s.groups gid with
  | none => s
  | some g =>
    if g.done then s
    else if g.sExited && !g.park.isSome then s.takeCause gid c false
    else if g.inHandler || g.park.isSome || g.inWord || g.striking then s.setGroup gid { g with late := g.late ++ [c] }
    else s.takeCause gid c false

/-! ## Returning from a trap -/

/-- The group's stopped block resumes with its kept states (R368). -/
def Group.resumeBlock (g : Group) : Group :=
  { g with block := g.block.map (fun b => { b with stopped := false, byLane := false }), gangs := g.gangs.map fun x => { x with stuck := false } }

/-- A stopped block is abandoned (R368): it ends at once, its lanes become at-end and keep their life states. -/
def Group.abandonBlock (g : Group) : Group :=
  match g.block with
  | none => { g with trap := { g.trap with donemask := 0 } }
  | some b => { g with
      block := none
      lq := g.lq.filter (· ≠ b.cmd)
      slices := []
      gangs := []
      lanes := g.lanes.map fun p => (p.1, { p.2 with atEnd := true })
      trap := { g.trap with donemask := 0 } }

/-- `eret` (R368): out of the handler, at the resume point, the stopped block resumed; an `rnd.adv` that a round hang interrupted goes on
with its wait (R320). -/
def Group.eretRp (g : Group) : Group :=
  { g.resumeBlock with
    inHandler := false, spc := g.trap.rp, waits := [], kept := none
    hold := g.kept.filter fun h => h.pc = g.trap.rp }

/-- `eret sA` (R368): out of the handler, at the given address, the stopped block abandoned. -/
def Group.eretAt (g : Group) (a : DWord) : Group :=
  { g.abandonBlock with inHandler := false, spc := a &&& ~~~3, hold := none, waits := [], kept := none }

/-! ## Issuing an S word -/

/-- The scalar register that a producer writes. -/
def ReqDst.sreg : ReqDst → SReg
  | .scalar d _ _ | .slowCsr d _ | .roundGet d _ _ | .value d _ => d
  | .lanes _ _ _ _ | .record | .none | .silent => 0

/-- A producer of s[d] has not landed (R86, R88): an outstanding load or lane instruction, a queued command, a closed batch. -/
def State.pendingDst (s : State) (gid : Nat) (g : Group) (d : SReg) : Bool :=
  (s.reqs.any fun q => q.2.gid = gid && q.2.dst.sreg = d && !q.2.faulted) ||
  ((g.lq ++ g.mq ++ g.cq).any fun i => match aget s.cmds i with
    | some c => c.dst = d
    | none => false) ||
  s.batches.any fun b => b.2.gid = gid && b.2.closed && b.2.dst = d

/-- A lane instruction or an engine may take s[d] as its destination: full, or empty with no producer outstanding (R87, R88). -/
def State.dstReady (s : State) (gid : Nat) (g : Group) (d : SReg) : Bool := g.sfull d || !s.pendingDst gid g d

/-- Wait slot of the S-stream in a group's waits. -/
def sWaitKey : Nat := 0

/-- The group notes since when it waits (R89, R451): a wait of the same instruction keeps its start. -/
def Group.noteWait (g : Group) (key now : Nat) (kind : HangKind) (pc : DWord) (lpc : Word) (addr : DWord) : Group :=
  let new : Wait := { since := now, kind := kind, pc := pc, lpc := lpc, addr := addr }
  match aget g.waits key with
  | some w =>
    { g with waits := aset g.waits key (if w.pc = pc ∧ w.lpc = lpc ∧ w.kind = kind then { w with addr := addr, seen := now } else new) }
  | none => { g with waits := aset g.waits key new }

/-- The word does not issue: the group's wait is noted and the issue slot goes to another group (R107). -/
def State.sStall (s : State) (gid : Nat) (g : Group) (kind : HangKind) (addr : DWord) : Out :=
  .next { (s.setGroup gid (g.noteWait sWaitKey s.cycle kind g.spc 0xFFFFFFFF addr)) with
    cur := s.cur.map fun c => { c with stalled := true } }

/-- The group after its S word: the next word is at PC + 4 (R133). -/
def Group.next (g : Group) : Group := { g with spc := g.spc + 4, hold := none, waits := adel g.waits sWaitKey }

/-- The group after an S word that continues at `a`. -/
def Group.goto (g : Group) (a : DWord) : Group := { g with spc := a, hold := none, waits := adel g.waits sWaitKey }

/-- The S word of the issuing group, once every register in `need` is full (R87); `body` gets the group's number and record. -/
def sIssue (s : State) (need : List SReg) (body : Nat → Group → Out) : Out :=
  match s.cur with
  | none => .fault .noIssuer
  | some c =>
    match aget s.groups c.gid with
    | none => .fault .noIssuer
    | some g => if need.all g.sfull then body c.gid g else s.sStall c.gid g .barrier 0

/-- As `sIssue`, with the group's team, launch and context. -/
def sIssueWho (s : State) (need : List SReg) (body : Who → Out) : Out :=
  sIssue s need fun gid _ =>
    match s.who gid with
    | some w => body w
    | none => .fault .noIssuer

/-- A precise S trap (R134): no effect but the trap. A walk rejected for its generation is resolved without software (R375): the word waits
until the homes have adopted the core's value. -/
def sTrap (s : State) (gid : Nat) (g : Group) (code sub : BitVec 8) (addr : DWord) : Out :=
  if code = 0x07 then s.sStall gid g .none 0
  else .next (s.takeCause gid { code := code, sub := sub, pc := g.spc, addr := addr } true)

/-- An S word that writes s[d] and goes on. -/
def sWrite (s : State) (gid : Nat) (g : Group) (d : SReg) (v : DWord) : Out := .next (s.setGroup gid (g.sput d v).next)

/-! ## Quarantine and release log (R378, R383) -/

/-- The message of an effect changed. -/
def Effect.mapMsg (e : Effect) (h : Msg → Msg) : Effect :=
  match e with
  | .msg m => .msg (h m)
  | .l1Store m => .l1Store (h m)
  | .releaseThen sc m t o => .releaseThen sc (h m) t o
  | .perLaneCopy d m t o n b sc => .perLaneCopy d (h m) t o n b sc
  | x => x

/-- An effect that carries its ordinals (R383). -/
def Effect.withOrds (e : Effect) (ords : Msg → List (Nat × Nat)) : Effect := e.mapMsg fun m => { m with ords := ords m }

/-- The side-effecting instruction of ordinal `o` of the stream (`key` 0) or of lane `key - 1` has been released and is not performed again
(R386); one that was rejected and dropped since is (R396). -/
def Region.performed (r : Region) (key o : Nat) : Bool :=
  o ≤ (if key = 0 then r.rs else (aget r.rl (key - 1)).getD 0) && !r.again.contains (key, o)

/-- A side-effecting S instruction enters the quarantine, unless its ordinal is at or below RS on a replay (R386): the group, and
whether it is performed. -/
def Group.enterS (g : Group) (now : Nat) (es : List Effect) : Group × Bool :=
  match g.region with
  | none => ({ g with quar := g.quar ++ [{ at_ := now, effects := es, sinceOpen := false }] }, true)
  | some r =>
    let o := r.sOrd + 1
    let g1 := { g with region := some { r with sOrd := o } }
    if r.performed 0 o then (g1, false)
    else
      let effects := es.map fun e => e.withOrds fun _ => [(0, o)]
      ({ g1 with quar := g.quar ++ [{ at_ := now, effects := effects, sOrdinal := o }] }, true)

/-- The group whose stream `rnd.reg` or `rnd.adv` holds takes its fault as a precise one (R313): the word has had no effect. -/
def Group.undoWord (g : Group) : Group :=
  { g with
    hold := none
    region := g.region.map fun r => { r with sOrd := r.sOrd - 1, rs := min r.rs (r.sOrd - 1) } }

/-- The ordinal that the next side-effecting S instruction takes. -/
def Group.nextOrdinal (g : Group) : Nat :=
  match g.region with
  | some r => r.sOrd + 1
  | none => 0

/-- The logged value of the S instruction of ordinal `o` (R383). -/
def Group.logged (g : Group) (o : Nat) : Option DWord :=
  match g.region with
  | some r => (r.log.find? fun v => v.lane.isNone && v.ordinal = o).map (·.value)
  | none => none

/-- The group with the value of the S instruction of ordinal `o` logged. -/
def Group.logS (g : Group) (o : Nat) (v : DWord) : Group :=
  match g.region with
  | some r => if o = 0 then g else { g with region := some { r with log := { lane := none, ordinal := o, value := v } :: r.log } }
  | none => g

/-- The region would hold a fifth returning instruction (R385). -/
def Group.logFull (g : Group) : Bool :=
  match g.region with
  | some r => 4 ≤ r.returning
  | none => false

/-- The group with one returning instruction more in its region (R385). -/
def Group.addReturning (g : Group) : Group :=
  match g.region with
  | some r => { g with region := some { r with returning := r.returning + 1 } }
  | none => g

/-! ## Messages, releases and acquires -/

/-- A message leaves its core with the release round that it has (R304): its number, and the state that has sent it. -/
def State.post (s : State) (m : Msg) : Nat × State :=
  (s.nextId, { s with net := aset s.net s.nextId m, nextId := s.nextId + 1 })

/-- A message leaves its core, with the core's release round (R304). -/
def State.send (s : State) (m : Msg) : Nat × State := s.post { m with rho := (s.core m.core).rho }

/-- Several messages leave their core in order. -/
def State.sendAll (s : State) (ms : List Msg) : State := ms.foldl (fun st m => (st.send m).2) s

/-- A line's dirty words leave as a masked write-back (R222). The generation is the one that `gen` names (R219). -/
def State.writeBackLine (s : State) (k : CoreKey) (x : L1Line) (gen : BitVec 12) : State :=
  if x.isDirty then
    let m : Msg := {
      kind := .store x.dirtyBytes (if tierBase ≤ x.pa && x.pa < tierEnd then 1 else 0) true
      gid := 0, core := k, ctx := x.ctx, gen := gen, ea := 0, place := .home x.pa, tag := s.stepTag
      persist := if tierBase ≤ x.pa && x.pa < tierEnd then 1 else 0 }
    (s.send m).2.modCore k fun c => c.l1Put x.clean
  else s

/-- Every dirty line of the context on the core is written back (R222, R298). -/
def State.writeBackAll (s : State) (k : CoreKey) (c : Nat) : State :=
  ((s.core k).l1.filter fun x => x.ctx == c).foldl (fun st x => st.writeBackLine k x (s.genStamp k c)) s

/-- Room in the core's L1 for the line of a context (R211): a line that is not there takes the place of another, whichever, once L1 is full. -/
def State.l1Room (s : State) (k : CoreKey) (c ln : Nat) : State :=
  let x := s.core k
  if (x.l1Find c ln).isSome || x.l1.length < x.l1Lines then s
  else
    let s1 := { s with fresh := s.fresh + 1 }
    match x.l1[(Config.freeWord s.fresh).toNat % x.l1.length]? with
    | some y => (s1.writeBackLine k y (s1.genStamp k y.ctx)).modCore k fun z => z.l1Drop y.ctx y.pa
    | none => s1

/-- The scope is `.clu` or wider. -/
def scopeWide : Scope → Bool
  | .grp | .team => false
  | _ => true

/-- Scopes by width. -/
def scopeRank : Scope → Nat
  | .grp => 0 | .team => 1 | .clu => 2 | .die => 3 | .pkg => 4 | .dom => 5 | .sys => 6

/-- The wider of two scopes. -/
def scopeMax : Option Scope → Option Scope → Option Scope
  | some a, some b => some (if scopeRank a < scopeRank b then b else a)
  | none, b => b
  | a, none => a

/-- The floor of region `i` of context `c` on a core (R321). -/
def Core.floor (k : Core) (c i : Nat) : Word :=
  match k.floors.find? fun f => f.ctx = c && f.region = i with
  | some f => f.value
  | none => 0

/-- The floor of region `i` waits for the first load after a resumption (R323). -/
def Core.floorPending (k : Core) (c i : Nat) : Bool :=
  match k.floors.find? fun f => f.ctx = c && f.region = i with
  | some f => f.pending
  | none => k.pendingFloors.contains c

/-- The core with the floor raised to `v`, and its mark as given. -/
def Core.putFloor (k : Core) (c i : Nat) (v : Word) (pending : Bool) : Core :=
  let old := k.floor c i
  let new := if old.toNat < v.toNat then v else old
  { k with
    floors := { ctx := c, region := i, value := new, pending := pending } :: k.floors.filter fun f => !(f.ctx = c && f.region = i) }

/-- The core with the floor raised to `v` (R321, R322); a pending floor stays pending. -/
def Core.raiseFloor (k : Core) (c i : Nat) (v : Word) : Core := k.putFloor c i v (k.floorPending c i)

/-- An acquire at a scope on a core (R299, R321): at `.clu` or wider every clean word of the context goes, but for round-region
lines at or above the floor. -/
def State.acquire (s : State) (k : CoreKey) (c : Nat) (scope : Scope) : State :=
  if scopeWide scope then
    s.modCore k fun core =>
      { core with l1 := core.l1.filterMap fun x =>
          if x.ctx ≠ c then some x
          else match x.region with
            | some (i, tag) => if (core.floor c i).toNat ≤ tag.toNat then some x else none
            | none => if x.isDirty then some { x with words := x.words.filter fun w => w.2.dirty } else none }
  else s

/-- A release begins (R298, R304): at `.clu` or wider the dirty words are written back and the round is closed; `waitIds` are the
producers that it waits for, `after` what it sends when it completes, which belongs to the next round, so that a later release waits for it. -/
def State.beginRelease (s : State) (gid : Nat) (k : CoreKey) (c : Nat) (scope : Scope) (waitIds : List Nat)
    (after : List Msg) : Nat × State :=
  let s1 := if scopeWide scope then s.writeBackAll k c else s
  let rho := (s1.core k).rho
  let s2 := s1.modCore k fun x => { x with rho := x.rho + 1 }
  (s2.nextId, { s2 with
    rels := aset s2.rels s2.nextId {
      gid := gid, core := k, ctx := c, scope := scope, rho := rho, waitIds := waitIds, after := after.map fun m => { m with rho := rho + 1 } }
    nextId := s2.nextId + 1 })

/-- A part of an access has been served or rejected. -/
def Part.settled (p : Part) : Bool := p.value.isSome || p.reject.isSome

/-- A message still stands before what follows it: it has not arrived, or it is rejected for its generation and will be sent again (R375). -/
def Msg.standing (m : Msg) : Bool := m.rejected.isNone || m.rejected = some 0x07

/-- The message is one whose arrival the release waits for (R298, R304): of its rounds, and at a narrow scope of its group. -/
def Release.covers (r : Release) (m : Msg) : Bool :=
  m.core == r.core && m.rho ≤ r.rho && m.standing && (scopeWide r.scope || m.gid = r.gid)

/-- The accesses of a release have been performed (R298, R304): no message of its rounds is in flight or held by another release, and its
producers are served. A rejected write counts as arrived (R308). -/
def State.releaseReady (s : State) (r : Release) : Bool :=
  (!s.net.any fun p => r.covers p.2) && (!s.rels.any fun x => x.2.after.any r.covers) &&
  r.waitIds.all fun i =>
    match aget s.reqs i with
    | some q => q.faulted || q.parts.all Part.settled
    | none => true

/-- The group has no S-stream effect in quarantine. -/
def Group.sQuarEmpty (g : Group) : Bool := g.quar.all fun q => !q.lanes.isEmpty

/-- The S-stream producers of a group that are outstanding. -/
def State.sReqs (s : State) (gid : Nat) : List Nat :=
  (s.reqs.filter fun p => p.2.gid = gid && !p.2.lane).map (·.1)

/-- An S word that releases holds the stream in three stages (R298, R302): its quarantined S effects leave, the release begins,
the release completes; then `done` runs. -/
def State.sRelease (s : State) (w : Who) (scope : Scope) (done : State → Group → Out) : Out :=
  let g := w.g
  match g.hold with
  | some h =>
    if h.stage = 1 then
      (if h.ids.any fun i => (aget s.rels i).isSome then s.sStall w.gid g .none 0 else done s g)
    else done s g
  | none =>
    if !g.sQuarEmpty then s.sStall w.gid g .none 0
    else
      let r := s.beginRelease w.gid w.core w.ctx scope (s.sReqs w.gid) []
      r.2.sStall w.gid { g with hold := some { pc := g.spc, stage := 1, since := s.cycle, ids := [r.1] } } .none 0

/-- The S-stream's first write after a fence is a release with the fence's scope (R294, R298): what precedes it is performed first. -/
def State.sFirstWrite (s : State) (w : Who) (body : State → Who → Out) : Out :=
  match w.g.relPend with
  | none => body s w
  | some sc => s.sRelease w sc fun st g => body st { w with g := g }

/-- The next write of the S-stream is a release with the fence's scope too (R294). -/
def Group.leaveRelease (g : Group) (scope : Scope) : Group := { g with relPend := scopeMax g.relPend (some scope) }

/-- The group after a write of its S-stream: no fence's release is left to it (R294). -/
def Group.sWrote (g : Group) : Group := { g with relPend := none }

/-- A fence at `.clu` or wider has left its release to the S-stream's next write, which goes to its home without delay (R298, R306). -/
def Group.sActive (g : Group) : Bool := g.relPend.any scopeWide

/-- A store that may not stay dirty in L1 travels as an active message. -/
def Effect.asMessage : Effect → Effect
  | .l1Store m => .msg m
  | e => e

/-- The messages rejected for this group are dropped (R368, R372). -/
def State.dropRejected (s : State) (gid : Nat) : State :=
  match aget s.groups gid with
  | none => s
  | some g => { s with net := g.rejected.foldl adel s.net }.modGroup gid fun g => { g with rejected := [] }

end Sys2Proof.Machine
end

