-- ==== Sys2Proof/Machine/Flags.lean ====
section
/-!
DEFINITION. The sticky flags OVFL and NVAL with their timing (R118, R120) and the converter generator of a core with its timing
(R84, R123).
-/
namespace Sys2Proof.Machine

/-! ## OVFL and NVAL -/

/-- The flag as a read in cycle `now` returns it: what earlier cycles set (R120). -/
def Flag.read (f : Flag) (now : Nat) : Bool :=
  f.old || (match f.at_ with
    | some c => c < now
    | none => false)

/-- The flag set in cycle `now`. -/
def Flag.set (f : Flag) (now : Nat) : Flag := { old := f.read now, at_ := some now }

/-- The flag cleared in cycle `now`: a setting of the same cycle stands (R120). -/
def Flag.clear (f : Flag) (now : Nat) : Flag :=
  { old := false, at_ := if f.at_ = some now then some now else none }

/-- The group with OVFL set when `b` (R118). -/
def Group.raiseOvfl (g : Group) (now : Nat) (b : Bool) : Group := if b then { g with ovfl := g.ovfl.set now } else g

/-- The group with NVAL set when `b` (R128, R129). -/
def Group.raiseNval (g : Group) (now : Nat) (b : Bool) : Group := if b then { g with nval := g.nval.set now } else g

/-! ## The converter generator -/

/-- A write of CGSEED of an earlier cycle has taken effect (R84, R123). -/
def Core.cgSettle (k : Core) (now : Nat) : Core :=
  match k.cgWrite with
  | some (c, v) => if c < now then { k with cg := v, cgWrite := none } else k
  | none => k

/-- CGSEED as a read in cycle `now` returns it: before that cycle's steps (R123). -/
def Core.cgRead (k : Core) (now : Nat) : DWord :=
  match (k.cgSettle now).cgOld with
  | some (c, v) => if c = now then v else (k.cgSettle now).cg
  | none => (k.cgSettle now).cg

/-- The generator steps for one gang-issue in cycle `now` (R123). -/
def Core.cgStepAt (k : Core) (now : Nat) : Core :=
  { k.cgSettle now with cg := cgStep (k.cgSettle now).cg, cgOld := some (now, k.cgRead now) }

/-- A write of CGSEED in cycle `now` (R84): it replaces the state after that cycle's steps. -/
def Core.cgSeed (k : Core) (now : Nat) (v : DWord) : Core := { k.cgSettle now with cgWrite := some (now, v) }

/-- An instruction with rounding code 4 issues for a sub-gang: the core's generator steps, and every draw uses the new state. -/
def State.stepGen (s : State) (k : CoreKey) : DWord × State :=
  let c := (s.core k).cgStepAt s.cycle
  (c.cg, s.setCore k c)

end Sys2Proof.Machine
end

