-- ==== Sys2Proof/Machine/Start.lean ====
section
/-!
DEFINITION. How a group begins (R19, R30), the order in which groups issue (R107), and fetching code (R21, R22, R147, R181).
-/
namespace Sys2Proof.Machine

/-- The lane with team-linear index `t` at group start (R30): v0 = t, v1 = x | y << 10 | z << 20, the rest undefined. -/
def startLane (r : LaunchRec) (t seed : Nat) : Lane :=
  { regs := [(0, w32 t), (1, w32 (t % r.teamx + t / r.teamx % r.teamy * 2 ^ 10 + t / (r.teamx * r.teamy) * 2 ^ 20))]
    seed := seed }

/-- The scalar registers at group start (R30). -/
def startSregs (r : LaunchRec) (t : Team) (idx : Nat) : Tbl DWord :=
  [(1, r.karg), (2, r.rodata), (3, dw t.x), (4, dw t.y), (5, dw t.z), (6, dw idx),
   (7, dw (t.member % r.cluw + t.member / r.cluw * 2 ^ 8 + r.cluw * 2 ^ 16 + r.cluh * 2 ^ 24))]

/-- What a region entry holds (R381), taken from the group as it stands; the S-stream resumes at `pc`. -/
def Group.checkpoint (g : Group) (pc : DWord) (cmds : Tbl Cmd) : Checkpoint :=
  { spc := pc, sExited := g.sExited, slices := g.slices, lives := g.lanes.map fun p => (p.2.life, p.2.atEnd), block := g.block
    lq := g.lq.filterMap fun i => (aget cmds i).map fun c => (i, c)
    guards := g.guards, sfe := g.sfe, vfe := g.vfe, batchCtr := g.batchCtr, donemask := g.trap.donemask, relPend := g.relPend
    laneRel := g.lanes.map fun p => p.2.relPend, regs := { sregs := g.sregs, mods := g.mods, lanes := g.lanes } }

/-- Group `idx` of a team at its start (R30), in group slot `slot` with first slice `home`. Its undefined lane registers are the
free values from `seed` on. -/
def startGroup (r : LaunchRec) (tid : Nat) (t : Team) (idx slot home now seed : Nat) : Group :=
  let g : Group := {
    team := tid, idx := idx, slot := slot, home := home, since := now, width := r.width
    spc := dw (r.sbase.toNat + 4 * r.sentry)
    sregs := startSregs r t idx
    lanes := (List.range r.width).map fun l => (l, startLane r (idx * r.width + l) (seed + 256 * l)) }
  if r.rgn then { g with region := some { ck := g.checkpoint g.spc [] } } else g

/-- PRIO of a group's launch, for the order of R107. -/
def State.prioOf (s : State) (g : Group) : Nat :=
  match aget s.teams g.team with
  | some t => (match aget s.launches t.launch with
    | some l => l.lrec.prio
    | none => 0)
  | none => 0

/-- Group `a` goes before group `b` (R107): higher PRIO, earlier residency, lower slot. -/
def State.before (s : State) (a b : Nat × Group) : Bool :=
  let pa := s.prioOf a.2
  let pb := s.prioOf b.2
  if pa ≠ pb then pb < pa
  else if a.2.since ≠ b.2.since then a.2.since < b.2.since
  else a.2.slot ≤ b.2.slot

/-- Insertion into a list ordered by R107. -/
def State.insertBefore (s : State) (a : Nat × Group) : List (Nat × Group) → List (Nat × Group)
  | [] => [a]
  | b :: t => if s.before a b then a :: b :: t else b :: s.insertBefore a t

/-- The group's cluster is being saved (R77 step 1). -/
def State.stopping (s : State) (g : Group) : Bool :=
  match aget s.teams g.team with
  | some t => (match aget s.clusters t.cluster with
    | some c => c.stopping || c.saved
    | none => false)
  | none => false

/-- The group may issue at all: not parked, not being saved, not stopped by a strike or a stale-generation resolution. -/
def State.mayIssue (s : State) (g : Group) : Bool :=
  !g.done && g.park.isNone && !g.striking && !g.staleWait && !s.stopping g

/-- Some `rgn` holds the streams: an S `rgn` (`lane` false) or an L `rgn` (R380). -/
def Group.inRgn (g : Group) (lane : Bool) : Bool :=
  if lane then g.lrgn.isSome
  else match g.hold with
    | some h => h.stage = 10 || h.stage = 11
    | none => false

/-- The resident groups of a core in the order of R107. -/
def State.groupsOn (s : State) (k : CoreKey) : List (Nat × Group) :=
  (s.groups.filter fun p => (match aget s.teams p.2.team with
    | some t => t.core == k
    | none => false)).foldl (fun acc p => s.insertBefore p acc) []

/-! ## Fetching -/

/-- What a fetch answers: the word, a fault, or that the word has not come yet. -/
inductive Fetched
  | word (w : Word)
  | bad (code : BitVec 8) (addr : DWord)
  | wait
deriving DecidableEq, Repr

/-- A 32-bit word of code or table at `va` (R21, R22): with `keep`, a free choice for each word between a kept copy of the current generation
and its home, else read at its home. A fetch, or its walk, tagged with a value that the homes have not adopted yet is rejected and reissued (R219,
R375), so it waits. -/
def State.fetchWord (s : State) (k : CoreKey) (c : Nat) (keep : Bool) (va : DWord) : Fetched :=
  let gen := s.genStamp k c
  let kept := (s.core k).code.find? fun x => x.ctx = c && x.gen = gen && x.va = va
  match s.resolve k c 0 0 .fetch va 4 with
  | .bad code => if code = 0x07 then .wait else .bad code va
  | .ok (.remote _ _) _ =>
    match kept with
    | some x => .word x.data
    | none => .wait
  | .ok (.scratch _ _) _ => .bad 0x06 va
  | .ok (.home pa) _ =>
    match (if keep && (Config.freeWord s.fresh).getLsbD (va.toNat / 4 % 32) then kept else none) with
    | some x => .word x.data
    | none =>
      if gen ≠ (s.ctx c).gen then .wait
      else if !s.worldOk (s.ctx c).secure pa then .bad 0x08 va
      else match s.homeRead pa 4 with
        | some bs => .word (w32 (leNat bs))
        | none => .bad 0x09 va

/-- The core keeps a fetched word for later use (R22). -/
def State.keepWord (s : State) (k : CoreKey) (c : Nat) (va : DWord) (w : Word) : State :=
  s.modCore k fun x => { x with code :=
    { ctx := c, gen := s.genStamp k c, va := va, data := w } :: x.code.filter fun y => !(y.ctx = c && y.va = va) }

/-- With `keep`, the core keeps a fetched word, and the next choice between old and new words is another one (R22). -/
def State.keepIf (s : State) (keep : Bool) (k : CoreKey) (c : Nat) (va : DWord) (w : Word) : State :=
  if keep then { s.keepWord k c va w with fresh := s.fresh + 1 } else s

/-- The instruction at issue fetches its table words as its own words were fetched (R22). -/
def State.keeping (s : State) : Bool := s.cur.any (·.keep)

/-- A word of a page of another package that has not come: one request for it goes out over the fabric (R326). -/
def State.askRemote (s : State) (gid : Nat) (k : CoreKey) (c : Nat) (va : DWord) : State :=
  match s.resolve k c 0 0 .fetch va 4 with
  | .ok (.remote pkg pa) attr =>
    if s.reqs.any fun p => p.2.gid = gid && p.2.dst == .none then s
    else
      let q : Req := {
        gid := gid, lane := false, pc := va, lpc := 0xFFFFFFFF, dst := .none, core := k, ctx := c, since := s.cycle
        parts := [{ lane := 0, n := 4, ea := va, place := .remote pkg pa, attr := attr, gen := s.genStamp k c, sent := some s.nextId }] }
      { s with
        reqs := aset s.reqs s.nextId q
        fabricOut := s.fabricOut ++ [(pkg, .access s.self s.nextId (BitVec.ofNat 6 c) (s.genStamp k c) pa (.load 4 none))]
        nextId := s.nextId + 1 }
  | _ => s

end Sys2Proof.Machine
end

