-- ==== Sys2Proof/Machine/Access.lean ====
section
/-!
DEFINITION. Accesses to generic addresses and scratchpad, as S words and lanes issue them: splitting into single-copy atomic units
(R142, R235), forwarding from the party's own quarantined writes (R379), L1 hits (R221, R316, R323), round needs (R323), and the
effects of stores (R221, R229, R347, R353).
-/
namespace Sys2Proof.Machine

/-! ## Units of an access -/

/-- The units of an access of `n` bytes (R142, R235): the whole when aligned, else each byte. -/
def accUnits (ea : DWord) (n : Nat) : List (Nat × Nat) :=
  if ea.toNat % n = 0 then [(0, n)] else (List.range n).map fun i => (i, 1)

/-- A resolved unit: offset in the access, length, place, page attributes. -/
structure RUnit where
  off : Nat
  n : Nat
  place : Place
  attr : PageAttr
deriving DecidableEq, Repr

/-- Every unit of an access resolved (R142: translation of every page and the scratchpad bound come first), or the fault. -/
def State.resolveUnits (s : State) (w : Who) (kind : AccKind) (ea : DWord) : List (Nat × Nat) → Except (BitVec 8) (List RUnit)
  | [] => .ok []
  | (o, n) :: rest =>
    match s.resolve w.core w.ctx w.g.team w.lrec.scratch kind (ea + dw o) n with
    | .bad code => .error code
    | .ok p a =>
      match s.resolveUnits w kind ea rest with
      | .error code => .error code
      | .ok us => .ok ({ off := o, n := n, place := p, attr := a } :: us)

/-! ## Own writes that have not been performed (R379) -/

/-- How many bytes a message writes. -/
def MsgKind.len : MsgKind → Nat
  | .store bs _ _ => bs.length
  | .atomic _ ty _ _ _ _ | .scratchAtomic _ ty _ _ _ => if ty = .b64 then 8 else 4
  | .scratchStore bs => bs.length
  | .barInit _ | .barArm _ | .barLanes _ | .barGroup _ _ | .barCredit _ _ => 32
  | .roundReg _ _ _ _ | .roundArrive _ _ => 0

/-- The index, in the bytes that start at place `q`, of byte `i` of place `p`. -/
def Place.index (q p : Place) (i : Nat) : Option Nat :=
  match q, p with
  | .home a, .home b => if a ≤ b + i then some (b + i - a) else none
  | .remote k a, .remote j b => if k = j ∧ a ≤ b + i then some (b + i - a) else none
  | .scratch t a, .scratch u b => if t = u ∧ a ≤ b + i then some (b + i - a) else none
  | _, _ => none

/-- [q, q + len) and [p, p + n) meet. -/
def Place.meets (q : Place) (len : Nat) (p : Place) (n : Nat) : Bool :=
  (List.range n).any fun i => match q.index p i with
    | some j => j < len
    | none => false

/-- The messages that an effect will send or perform. -/
def Effect.msgs : Effect → List Msg
  | .msg m | .l1Store m | .releaseThen _ m _ _ => [m]
  | .perLaneCopy _ _ _ _ _ _ _ | .cmd _ _ | .hold => []

/-- The messages of a group's quarantine that satisfy `f`, latest first. -/
def Group.quarMsgs (g : Group) (f : Msg → Bool) : List Msg :=
  ((g.quar.flatMap fun q => q.effects.flatMap Effect.msgs).filter f).reverse

/-- The party of a message: none for the S-stream, a lane otherwise. -/
def Msg.ofParty (m : Msg) (party : Option Nat) : Bool :=
  match party with
  | none => !m.isLane
  | some l => m.isLane && m.lane = l

/-- What a byte takes from the party's own quarantined writes: nothing, a byte, or a wait for an update whose value is not known. -/
inductive Fwd | none | byte (b : Byte) | wait
deriving DecidableEq, Repr

/-- Forwarding of byte `i` of place `p` from the messages, latest first. -/
def fwdByte (p : Place) (i : Nat) : List Msg → Fwd
  | [] => .none
  | m :: rest =>
    match m.place.index p i with
    | some j =>
      if m.kind.len ≤ j then fwdByte p i rest
      else match m.kind with
        | .store bs _ _ =>
          match bs[j]? with
          | some (some b) => .byte b
          | _ => fwdByte p i rest
        | _ => .wait
    | none => fwdByte p i rest

/-- The scratchpad bytes that an effect of `cpl` moves: team, offset, length. -/
def Effect.moves : Effect → Option (Nat × Nat × Nat)
  | .perLaneCopy _ _ t o n _ _ => some (t, o, n)
  | _ => none

/-- A `cpl` of the group has still to read or write some scratchpad bytes of [o, o + n) (R236, R379). -/
def State.cplBusy (s : State) (gid : Nat) (g : Group) (t o n : Nat) : Bool :=
  let meets := fun (x : Nat × Nat × Nat) => x.1 = t && x.2.1 < o + n && o < x.2.1 + x.2.2
  (g.quar.any fun q => q.effects.any fun e => e.moves.any meets) ||
  s.copies.any fun x => x.2.perLane && x.2.gid = gid && x.2.reject.isNone &&
    meets (x.2.team, (x.2.args.getD 1 0).toNat, (x.2.args.getD 2 0).toNat)

/-- A 4-byte word of [p, p + n) has a pending update of the group, in quarantine, behind a release or on its way, or a `cpl` has still to move it
(R379). -/
def State.spBusy (s : State) (gid : Nat) (g : Group) (p : Place) (n : Nat) : Bool :=
  match p with
  | .scratch t o =>
    let q : Place := .scratch t (o / 4 * 4)
    let len := (o + n + 3) / 4 * 4 - o / 4 * 4
    (g.quarMsgs fun _ => true).any (fun m => m.place.meets m.kind.len q len) ||
      (s.net.any fun x => x.2.gid = gid && x.2.place.meets x.2.kind.len q len) ||
      (s.rels.any fun r => r.2.after.any fun m => m.gid = gid && m.place.meets m.kind.len q len) || s.cplBusy gid g t (o / 4 * 4) len
  | _ => false

/-! ## Round needs (R310, R323) -/

/-- The core's floor for a region after a pending floor has been raised to RC (R323, resumption). -/
def State.settleFloor (s : State) (k : CoreKey) (c i : Nat) (rc : Word) : State :=
  if (s.core k).floorPending c i then s.modCore k fun x => x.putFloor c i rc false else s

/-- The region and need of an ordinary load at a virtual address (R310, R323), and the state with a pending floor settled. -/
def State.loadNeed (s : State) (k : CoreKey) (c : Nat) (ea : DWord) : Option (Nat × Word) × State :=
  match s.member k c ea false with
  | .region i r =>
    let s1 := s.settleFloor k c i r.rc
    (some (i, (s1.core k).floor c i), s1)
  | _ => (none, s)

/-! ## L1 at issue -/

/-- The page may be held in L1 (R213, R221). -/
def State.cacheable (s : State) (pa : Nat) (a : PageAttr) : Bool :=
  !a.nc && !a.hostp &&
  match s.aperture pa with
  | .hbm | .tier => true
  | .host => s.hport.cxlCache
  | _ => false

/-- The line of another context at this address is written back and dropped before the line is used (R221). -/
def State.l1Claim (s : State) (k : CoreKey) (c ln : Nat) : State :=
  ((s.core k).l1.filter fun x => x.pa == ln && x.ctx != c).foldl
    (fun st x => (st.writeBackLine k x (st.genStamp k x.ctx)).modCore k fun y => y.l1Drop x.ctx ln) s

/-- The copy of a line may serve a load with this need (R319, R323). -/
def L1Line.serves (x : L1Line) (core : Core) (c : Nat) (need : Option (Nat × Word)) : Bool :=
  match need, x.region with
  | none, none => true
  | none, some (i, tag) => (core.floor c i).toNat ≤ tag.toNat
  | some (i, n), some (j, tag) => i = j && n.toNat ≤ tag.toNat
  | some _, none => false

/-- A load unit served by the core's L1: its bytes. -/
def State.l1Hit (s : State) (k : CoreKey) (c pa n : Nat) (need : Option (Nat × Word)) : Option (List Byte) :=
  match (s.core k).l1Find c (pa / 128 * 128) with
  | some x => if (s.core k).hasL1 && x.serves (s.core k) c need then x.read pa n else none
  | none => none

/-- Some part of the group, issued before issue number `id`, that is not served yet meets [p, p + n). -/
def State.olderPart (s : State) (gid id : Nat) (p : Place) (n : Nat) : Bool :=
  s.reqs.any fun q => q.1 < id && q.2.gid = gid && !q.2.atomic && q.2.parts.any fun x => !x.settled && x.place.meets x.n p n

/-- The message was issued before issue number `id` and meets [p, p + n). -/
def Msg.older (m : Msg) (gid id : Nat) (p : Place) (n : Nat) : Bool :=
  m.gid = gid && m.issue < id && m.rejected.isNone && m.place.meets m.kind.len p n

/-- The message stands before lane `lane` of issue `issue`: it was issued before, or by a lower lane of the same instruction (R236). -/
def Msg.precedes (m : Msg) (issue lane : Nat) : Bool := m.issue < issue || (m.issue = issue && m.lane < lane)

/-- Some message of the group that stands before lane `lane` of issue `issue` has not arrived, or waits for its release, and meets [p, p + n). -/
def State.olderMsg (s : State) (gid issue lane : Nat) (p : Place) (n : Nat) : Bool :=
  let older := fun (m : Msg) => m.gid = gid && m.precedes issue lane && m.rejected.isNone && m.place.meets m.kind.len p n
  (s.net.any fun m => older m.2) || s.rels.any fun r => r.2.after.any older

/-- Two places lie on one 128-byte line. -/
def Place.sameLine (p q : Place) : Bool :=
  match p, q with
  | .home a, .home b => a / 128 = b / 128
  | .remote i a, .remote j b => i = j && a / 128 = b / 128
  | _, _ => false

/-- A load of the group of another generation, issued before `id`, is outstanding on the line (R376). -/
def State.olderTag (s : State) (gid id : Nat) (gen : BitVec 12) (p : Place) : Bool :=
  s.reqs.any fun q => q.1 < id && q.2.gid = gid && !q.2.atomic && q.2.parts.any fun x => !x.settled && x.gen ≠ gen && x.place.sameLine p

/-! ## Loads -/

/-- Bytes with the forwarded ones in their places. -/
def overlay : List (Option Byte) → List Byte → List Byte
  | some b :: fs, _ :: bs => b :: overlay fs bs
  | none :: fs, b :: bs => b :: overlay fs bs
  | [], bs => bs
  | _, [] => []

/-- What issuing a load unit gives: a part, or a wait. -/
inductive PartAt
  | part (p : Part) (s : State)
  | wait
deriving DecidableEq, Repr

/-- The part of a load for one unit, served at once from scratchpad, from the party's own quarantined writes or from L1, else to be
served at its home. `lane` numbers the element, `need` is the round need of its first byte's region (R319), which the other bytes take in that region only. A lane waits for quarantined S stores to
the bytes (R143). -/
def State.loadPart (s : State) (w : Who) (party : Option Nat) (lane : Nat) (ea : DWord) (u : RUnit)
    (need : Option (Nat × Word)) (plain : Bool) : PartAt :=
  let va := ea + dw u.off
  let base : Part := {
    lane := lane, byteOff := u.off, n := u.n, ea := ea, place := u.place, attr := u.attr, gen := s.genStamp w.core w.ctx }
  match u.place with
  | .scratch t o =>
    if s.spBusy w.gid w.g u.place u.n then .wait
    else match aget s.teams t with
      | none => .part { base with reject := some 0x06 } s
      | some team =>
        if team.spPoisoned o u.n then .part { base with reject := some 0x09 } s
        else .part { base with value := some (team.spRead o u.n) } s
  | _ =>
    let msgs := w.g.quarMsgs fun m => m.ofParty party
    let fw := (List.range u.n).map fun i => fwdByte u.place i msgs
    if fw.contains .wait || s.rels.any (fun r => r.2.after.any fun m => m.older w.gid s.nextId u.place u.n) then .wait
    else if party.isSome && (w.g.quarMsgs fun m => !m.isLane).any fun m => m.place.meets m.kind.len u.place u.n then .wait
    else if s.unreadTable w.core w.ctx va then .wait
    else
      let fwd := fw.map fun x => match x with
        | .byte b => some b
        | _ => none
      let own := s.loadNeed w.core w.ctx va
      let s1 := own.2
      let nd := match need, own.1 with
        | some x, some y => some (if x.1 = y.1 then x else y)
        | _, y => y
      let p : Part := { base with region := nd, fwd := fwd, asLd := need.isSome && need ≠ nd }
      let window := match u.place with
        | .home pa => s.readsWindow pa u.n
        | _ => false
      if fwd.all Option.isSome && !window then .part { p with value := some (fwd.map fun x => x.getD 0) } s1
      else match u.place with
        | .home pa =>
          if window then .part { p with fwd := [] } s1
          else if plain && s.cacheable pa u.attr && !s.olderPart w.gid s.nextId u.place u.n then
            let s2 := s1.l1Claim w.core w.ctx (pa / 128 * 128)
            match s2.l1Hit w.core w.ctx pa u.n nd with
            | some bs => .part { p with value := some (overlay fwd bs) } s2
            | none => .part p s2
          else .part p s1
        | _ => .part p s1

/-- The parts of a load's units, or a wait. -/
def State.loadParts (s : State) (w : Who) (party : Option Nat) (lane : Nat) (ea : DWord) (need : Option (Nat × Word))
    (plain : Bool) : List RUnit → Option (List Part × State)
  | [] => some ([], s)
  | u :: us =>
    match s.loadPart w party lane ea u need plain with
    | .wait => none
    | .part p s1 =>
      match s1.loadParts w party lane ea need plain us with
      | none => none
      | some (ps, s2) => some (p :: ps, s2)

/-- The key under which line homes here hold the counter of a region whose home is on package `home` (R312). -/
def remoteRcl (home c i : Nat) : Nat := (home + 1) * 2 ^ 48 + c * 4096 + i

/-- The package of a region's home (R310, R326). -/
def State.regionPkg (s : State) (c i : Nat) : Nat :=
  match s.walk c (regionVa i) with
  | .leaf l => l.pkg
  | .bad _ => s.self

/-- The answer of a region home to a line home (R312): RC, or t + 1 while an advance from t stands between its steps 2 and 3; of a home on another
package what the line homes here hold. -/
def State.regionValue (s : State) (c i : Nat) : Option Word :=
  match s.advances.find? fun a => a.ctx = c && a.region = i with
  | some a => some a.to_
  | none =>
    match s.walk c (regionVa i) with
    | .leaf l =>
      if l.pkg ≠ s.self then aget s.rcls (remoteRcl l.pkg c i)
      else (match s.regionAt l.pa with
        | .valid r => some r.rc
        | _ => none)
    | .bad _ => none

/-- What a load tells another package's line home of its round (R312, R319). -/
def State.remoteNeedOf (s : State) (c : Nat) (now : Bool) (r : Nat × Word) : RemoteNeed :=
  { region := BitVec.ofNat 12 r.1, home := s.regionPkg c r.1, need := r.2, now := now, rc := (s.regionValue c r.1).getD 0 }

/-- A request waits for a round of a region whose home is on another package: that home is told (R312). -/
def State.tellDemand (s : State) (c i : Nat) (need : Word) : State :=
  let p := s.regionPkg c i
  if p = s.self then s else { s with fabricOut := s.fabricOut ++ [(p, .roundDemand s.self (BitVec.ofNat 6 c) (BitVec.ofNat 12 i) need)] }

/-- Before a bounded request leaves for another package, its line home is told the region's counter (R312, R326). -/
def State.tellRound (s : State) (c pkg : Nat) (need : Option (Nat × Word)) : State :=
  match need with
  | none => s
  | some (i, _) =>
    match if s.regionPkg c i = s.self then s.regionValue c i else none with
    | some v => { s with fabricOut := s.fabricOut ++ [(pkg, .roundAdopt s.self (BitVec.ofNat 6 c) (BitVec.ofNat 12 i) v)] }
    | none => s

/-- An access of the group to the same bytes of another package stands before request `id` and has not left: a store, or a load that has not
been served (R143). -/
def State.unsentBefore (s : State) (gid id : Nat) (p : Place) (n : Nat) : Bool :=
  s.olderPart gid id p n || s.net.any fun x => x.2.older gid id p n && !x.2.sentOut

/-- The remote parts of request `id` leave for their home packages (R326). -/
def State.launchParts (s : State) (id : Nat) : State :=
  match aget s.reqs id with
  | none => s
  | some q =>
    let r := q.parts.foldl (fun (acc : List Part × State) p =>
      match p.place, p.settled || p.sent.isSome || acc.2.unsentBefore q.gid id p.place p.n with
      | .remote pkg pa, false =>
        let st := match p.region with
          | some (i, need) => (acc.2.tellRound q.ctx pkg p.region).tellDemand q.ctx i need
          | none => acc.2
        (acc.1 ++ [{ p with sent := some st.nextId }],
         { st with
            fabricOut := st.fabricOut ++ [(pkg, .access st.self st.nextId (BitVec.ofNat 6 q.ctx) p.gen pa (.load p.n (p.region.map (st.remoteNeedOf q.ctx (q.now && !p.asLd)))))]
            nextId := st.nextId + 1 })
      | _, _ => (acc.1 ++ [p], acc.2)) ([], s)
    { r.2 with reqs := aset r.2.reqs id { q with parts := r.1 } }

/-! ## Stores -/

/-- The persist scope of a store: 1 (`.ppkg`) in the tier's aperture, else none (R347). -/
def Place.persist : Place → Nat
  | .home pa | .remote _ pa => if tierBase ≤ pa && pa < tierEnd then 1 else 0
  | .scratch _ _ => 0

/-- The persist barrier that holds a write issued now (R353): the last one in the C-queue, enqueued before command `before`. -/
def State.pbarHold (s : State) (g : Group) (before : Nat) : Option Nat :=
  (g.cq.filter fun i => i < before && (match aget s.cmds i with
    | some c => c.kind == .pbar
    | none => false)).getLast?

/-- The message of a store of `bytes` to one unit. -/
def State.storeMsg (s : State) (w : Who) (party : Option Nat) (lpc : Word) (ea : DWord) (u : RUnit) (bytes : List Byte)
    (before : Nat) : Msg :=
  { kind := .store (bytes.map some) u.place.persist false
    gid := w.gid, core := w.core, ctx := w.ctx, gen := s.genStamp w.core w.ctx, ea := ea, uoff := u.off, place := u.place
    lane := party.getD 0, isLane := party.isSome, pc := w.g.spc, lpc := lpc, tag := s.stepTag
    persist := u.place.persist, hostp := u.attr.hostp, issue := s.nextId
    held := s.pbarHold w.g before }

/-- The store is written into L1 as whole words (R221); otherwise it travels as an active message (R229). -/
def State.storesInL1 (s : State) (w : Who) (ea : DWord) (u : RUnit) : Bool :=
  match u.place with
  | .home pa =>
    4 ≤ u.n && s.cacheable pa u.attr && u.place.persist = 0 &&
      (match s.member w.core w.ctx (ea + dw u.off) false with
       | .region _ _ | .unread _ => false
       | _ => true)
  | _ => false

/-- The quarantined effect of a store to one unit outside scratchpad. -/
def State.storeEffect (s : State) (w : Who) (party : Option Nat) (lpc : Word) (ea : DWord) (u : RUnit) (bytes : List Byte)
    (before : Nat) : Effect :=
  let m := s.storeMsg w party lpc ea u bytes before
  if s.storesInL1 w ea u then .l1Store m else .msg m

/-- Bytes written into a team's scratchpad, each with a new stamp; a detected error of a word written whole is gone. -/
def State.spWrite (s : State) (t off : Nat) (bytes : List Byte) : State :=
  { s with
    stamp := s.stamp + 1
    teams := amod s.teams t fun x => (x.spWrite off bytes s.stamp).spHeal off bytes.length }

/-- The bytes of the units of a store. -/
def unitBytes (bytes : List Byte) (u : RUnit) : List Byte := (bytes.drop u.off).take u.n

/-- The scratchpad units of a store performed at issue, the others as effects. The bytes of a misaligned access to the own scratchpad are performed in
one step, in ascending order (log 93). -/
def State.storeUnits (s : State) (w : Who) (party : Option Nat) (lpc : Word) (ea : DWord) (bytes : List Byte) (before : Nat) :
    List RUnit → List Effect × State
  | [] => ([], s)
  | u :: us =>
    match u.place with
    | .scratch t o => (s.spWrite t o (unitBytes bytes u)).storeUnits w party lpc ea bytes before us
    | _ =>
      let r := s.storeUnits w party lpc ea bytes before us
      (s.storeEffect w party lpc ea u (unitBytes bytes u) before :: r.1, r.2)

end Sys2Proof.Machine
end

