-- ==== Sys2Proof/Machine/Reissue.lean ====
section
/-!
DEFINITION. Reissuing rejected accesses (R368, R372, R375) and the words that hold the S-stream through the quarantine and a release
(R157, R160, R298).
-/
namespace Sys2Proof.Machine

/-- What an access of a message does with its page. -/
def MsgKind.acc : MsgKind → AccKind
  | .atomic _ _ _ _ _ _ => .atomic
  | _ => .write

/-- The persist scope of a message at a place, by the kind of write (R347). -/
def MsgKind.persistOn (k : MsgKind) (p : Place) : Nat := match k with
  | .store _ _ _ => p.persist
  | _ => 0

/-- The message with the persist scope of a store. -/
def MsgKind.withPersist (k : MsgKind) (n : Nat) : MsgKind := match k with
  | .store bs _ wb => .store bs n wb
  | k => k

/-- A message translated afresh under its context's current GENSTAMP (R375), or its fault. -/
def State.retranslate (s : State) (m : Msg) : Except (BitVec 8) Msg :=
  match m.place with
  | .scratch _ _ => .ok { m with rejected := none }
  | _ =>
    let scr := match s.who m.gid with
      | some w => (w.g.team, w.lrec.scratch)
      | none => (0, 0)
    match s.resolve m.core m.ctx scr.1 scr.2 m.kind.acc (m.ea + dw m.uoff) m.kind.len with
    | .bad code => .error code
    | .ok p a => .ok { m with
        rejected := none, sentOut := false, place := p, hostp := a.hostp, gen := s.genStamp m.core m.ctx
        kind := m.kind.withPersist p.persist, persist := m.kind.persistOn p }

/-- The cause of a message's late fault: an S access, or a lane of a partially performed instruction with DONEMASK (R144, R237). -/
def Msg.cause (m : Msg) (code : BitVec 8) (donemask : DWord) : Cause :=
  { code := code, lane := m.isLane, late := true, pc := m.pc, lpc := m.lpc, addr := m.ea, donemask := donemask
    issue := some m.issue }

/-- A part of a load translated afresh (R375), or its fault. -/
def State.retranslatePart (s : State) (q : Req) (p : Part) : Except (BitVec 8) Part :=
  match s.who q.gid with
  | none => .ok p
  | some w =>
    match s.resolve q.core q.ctx w.g.team w.lrec.scratch (if q.atomic then .atomic else .read) (p.ea + dw p.byteOff) p.n with
    | .bad code => .error code
    | .ok pl a => .ok { p with
        place := pl, attr := a, gen := s.genStamp q.core q.ctx, reject := none, sent := none
        value := match pl with
          | .scratch t o => if q.atomic then none else (aget s.teams t).map fun team => team.spRead o p.n
          | _ => none }

/-- What a fault leaves in the destination of a load (R144, R237): an S load's is full with an undefined value, a lane load's is full with
its old values. -/
def State.faultDst (s : State) (gid : Nat) (d : ReqDst) : State :=
  match d with
  | .scalar r _ _ | .slowCsr r _ | .roundGet r _ _ | .value r _ =>
    let x := s.drawDWord
    x.2.modGroup gid fun g => g.sput r x.1
  | .lanes r size _ _ =>
    s.modGroup gid fun g => if size = 8 then (g.vmarkFull r.toNat).vmarkFull (r.toNat + 1) else g.vmarkFull r.toNat
  | .record | .none | .silent => s

/-- The element of a producer that a message answers. -/
def MsgKind.reqOf : MsgKind → Option (Nat × Nat)
  | .atomic _ _ _ _ _ r | .scratchAtomic _ _ _ _ r => r
  | .barGroup r _ => r.map fun i => (i, 0)
  | _ => none

/-- The bytes of the parts of one element, in address order. -/
def partsBytes (ps : List Part) (n : Nat) : List Byte :=
  (List.range n).map fun i =>
    match ps.find? fun p => p.byteOff ≤ i && i < p.byteOff + p.n with
    | some p => ((p.value.getD []).getD (i - p.byteOff) 0)
    | none => 0

/-- The value of element `l` of a load of `size` bytes, sign- or zero-extended. -/
def Req.elem (q : Req) (l size : Nat) (sext : Bool) : DWord :=
  let v := leNat (partsBytes (q.parts.filter fun p => p.lane = l) size)
  if sext then dwI (sextI v (8 * size)) else dw v

/-- The lane with the element of a load of `size` bytes in v[d]. -/
def Lane.land (x : Lane) (d : VReg) (size : Nat) (v : DWord) : Lane :=
  if size = 8 then x.putPair d.toNat v else x.put d.toNat (v.setWidth 32)

/-- The lanes of a load or returning atomic whose every part has been served. -/
def Req.served (q : Req) : List Nat :=
  (q.parts.map (·.lane)).eraseDups.filter fun l => q.parts.all fun p => p.lane ≠ l || p.value.isSome

/-- The served elements written to v[d] (R86, R237). -/
def Group.landLanes (g : Group) (q : Req) (d : VReg) (size : Nat) (sext : Bool) : Group :=
  g.mapLanes q.served fun l x => x.land d size (q.elem l size sext)

/-- The values of a returning atomic's served lanes logged (R383). -/
def Group.logLanes (g : Group) (q : Req) (size : Nat) : Group :=
  match g.region with
  | none => g
  | some r =>
    let keys := q.llog.filter fun x => q.served.contains x.1
    { g with region := some { r with log := keys.map (fun x => { lane := some x.1, ordinal := x.2, value := q.elem x.1 size false }) ++ r.log } }

/-- A producer of which some lane was rejected has faulted (R237): its destination is full; the returning lanes that are done hold their
values. -/
def State.faultProducer (s : State) (i : Nat) : State :=
  match aget s.reqs i with
  | none => s
  | some q =>
    if q.faulted then s
    else
      let s1 := match q.dst with
        | .lanes d size sext _ => s.modGroup q.gid fun g => (g.landLanes q d size sext).logLanes q size
        | _ => s
      { (s1.faultDst q.gid q.dst) with reqs := aset s.reqs i { q with faulted := true } }

/-- The producer that a rejected message answers has faulted. -/
def State.faultReq (s : State) (m : Msg) : State :=
  match m.kind.reqOf with
  | none => s
  | some (i, _) => s.faultProducer i

/-- A mask of lanes. -/
def laneMask (ls : List Nat) : DWord := dw (maskOf 64 fun l => ls.contains l)

/-- The messages of the instruction that issued `m` which are still in flight. -/
def State.siblings (s : State) (m : Msg) : List Msg :=
  (s.net.filter fun x => x.2.gid = m.gid && x.2.issue = m.issue).map (·.2)

/-- The instruction of issue `issue` stands at its own fault, which takes the rejections of its lanes in (R237). -/
def State.pendedAt (s : State) (gid issue : Nat) : Bool :=
  match aget s.groups gid with
  | some g => g.gangs.any fun x => x.pend.isSome && x.issue = some issue
  | none => false

/-- When no message of the instruction is on its way any more and some were rejected, the instruction's late fault is taken (R144, R237):
the lowest rejected lane's cause, DONEMASK naming the lanes whose messages were not rejected. -/
def State.msgVerdict (s : State) (m : Msg) : State :=
  let sib := s.siblings m
  if s.pendedAt m.gid m.issue || sib.any (fun x => x.rejected.isNone || x.rejected = some 0x07) || (s.rels.any fun r => r.2.after.any fun x => x.gid = m.gid && x.issue = m.issue)
  then s
  else
    match sib.foldl (fun (acc : Option Msg) x => match acc with
      | none => some x
      | some y => if x.lane < y.lane then some x else some y) none with
    | none => s
    | some x =>
      let gone := laneMask (sib.flatMap (·.covers))
      let s1 := sib.foldl (fun st y => st.faultReq y) s
      s1.takeLate m.gid (x.cause (x.rejected.getD 0) (x.gang &&& ~~~gone))

/-- The rejected messages of a group sent again in their order (R375); one whose translation faults stands rejected by that cause. -/
def State.resendMsgs (s : State) : List Nat → State
  | [] => s
  | i :: rest =>
    match aget s.net i with
    | none => s.resendMsgs rest
    | some m =>
      match s.retranslate m with
      | .ok m1 => { s with net := aset s.net i m1 }.resendMsgs rest
      | .error code =>
        (({ s with net := aset s.net i { m with rejected := some code } }.modGroup m.gid fun g =>
          { g with rejected := g.rejected ++ [i] }).noteWorld code).resendMsgs rest

/-- The parts of a request with the rejected ones translated afresh; a part whose translation faults keeps that fault. -/
def State.redoParts (s : State) (q : Req) (pick : BitVec 8 → Bool) : List Part → List Part
  | [] => []
  | p :: ps =>
    (match q.atomic || !p.reject.any pick with
     | true => p
     | false =>
       match s.retranslatePart q p with
       | .ok x => x
       | .error code => { p with reject := some code }) :: s.redoParts q pick ps

/-- The destination of a producer marked empty again. -/
def Group.emptyDst (g : Group) (d : ReqDst) : Group :=
  match d with
  | .scalar r _ _ | .slowCsr r _ | .roundGet r _ _ | .value r _ => g.sempty r
  | .lanes r size _ _ => if size = 8 then (g.vempty r.toNat).vempty (r.toNat + 1) else g.vempty r.toNat
  | .record | .none | .silent => g

/-- A request whose fault was reported is performed again: its destination is empty until it lands. -/
def Group.redoReqs (g : Group) (gid : Nat) (reqs : Tbl Req) : Group :=
  reqs.foldl (fun acc x => if x.2.gid = gid && x.2.faulted then acc.emptyDst x.2.dst else acc) g

/-- The persist barrier that holds a message has not completed (R353). -/
def State.msgHeld (s : State) (m : Msg) : Bool :=
  m.persist ≠ 0 && match m.held with
  | some i => (aget s.cmds i).isSome
  | none => false

/-- What a message asks of another package (R326). -/
def Msg.remoteOp (m : Msg) : RemoteOp :=
  match m.kind with
  | .store bs p _ => .store bs (p ≠ 0) m.tag
  | .atomic op ty c d cas _ => .atomic (if cas then 8 else op) ty c d m.tag
  | .roundReg i slot _ _ => .roundReg (BitVec.ofNat 12 i) slot
  | .roundArrive i slot => .roundArrive (BitVec.ofNat 12 i) slot
  | _ => .store [] false m.tag

/-- A message to another package can leave now. -/
def State.leavesNow (s : State) (m : Msg) : Bool :=
  match m.place with
  | .remote _ _ => !m.sentOut && m.rejected.isNone && !s.msgHeld m && !s.olderPart m.gid m.issue m.place m.kind.len &&
      !s.rels.any fun r => r.2.after.any fun x => x.older m.gid m.issue m.place m.kind.len
  | _ => false

/-- The loads of groups that are not saved leave for other packages where nothing stands before them (R143, R326). -/
def State.flushLoads (s : State) : State :=
  s.reqs.foldl (fun st x =>
    match st.who x.2.gid with
    | some w => if w.team.frame.isNone then st.launchParts x.1 else st
    | none => st) s

/-- Messages and loads to other packages that can leave now leave, in their order (R326, R353). -/
def State.flushRemote (s : State) : State :=
  (s.net.foldl (fun st x =>
    match x.2.place with
    | .remote pkg pa =>
      if st.leavesNow x.2 then
        { st with
          net := aset st.net x.1 { x.2 with sentOut := true }
          fabricOut := st.fabricOut ++ [(pkg, .access st.self x.1 (BitVec.ofNat 6 x.2.ctx) x.2.gen pa x.2.remoteOp)] }
      else st
    | _ => st) s).flushLoads

/-- Of the messages named, one for each instruction that stands rejected by another cause than its generation. -/
def State.faultsOf (s : State) (ids : List Nat) : List Msg :=
  (ids.filterMap fun i => (aget s.net i).filter fun m => m.rejected.isSome && m.rejected ≠ some 0x07).foldl
    (fun acc m => if acc.any fun x => x.issue = m.issue then acc else acc ++ [m]) []

/-- A group of which some access is still rejected for its generation waits for its reissue (R375). -/
def State.markStale (s : State) (gid : Nat) : State :=
  if (s.net.any fun x => x.2.gid = gid && x.2.rejected = some 0x07) || s.reqs.any fun x => x.2.gid = gid && x.2.parts.any fun p => p.reject = some 0x07
  then s.modGroup gid fun g => { g with staleWait := true }
  else s

/-- The rejected accesses of a group whose causes satisfy `pick` reissued (R368, R372, R375): loads and messages. Translation faults of
stores are taken as late faults, with DONEMASK under R237; those of loads stand in their parts. -/
def State.reissueAll (s : State) (gid : Nat) (pick : BitVec 8 → Bool) : State :=
  match aget s.groups gid with
  | none => s
  | some g =>
    let redo := fun (x : Nat × Req) =>
      if x.2.gid = gid then (x.1, { x.2 with parts := s.redoParts x.2 pick x.2.parts, faulted := false }) else x
    let again := fun (x : Nat × Copy) => if x.2.gid = gid && x.2.reject.any pick then (x.1, { x.2 with reject := none }) else x
    let s1 := { s with reqs := s.reqs.map redo, copies := s.copies.map again }
    let mine := g.rejected.filter fun i => match aget s.net i with
      | some m => m.rejected.any pick
      | none => false
    let r := (s1.modGroup gid fun y =>
      { y.redoReqs gid s.reqs with rejected := y.rejected.filter fun i => !mine.contains i }).resendMsgs mine
    let s2 := (r.faultsOf mine).foldl State.msgVerdict (r.markStale gid)
    (s2.reqs.foldl (fun st x => if x.2.gid = gid then st.launchParts x.1 else st) s2).flushRemote

/-- The requests of a group whose fault was reported are given up: their destinations stand as the fault left them (R144, R237). -/
def State.dropReqs (s : State) (gid : Nat) : State := { s with reqs := s.reqs.filter fun x => !(x.2.gid = gid && x.2.faulted) }

/-- Nothing rejected is repeated (R368 `eret sA`, R372 CONTINUE). -/
def State.dropAll (s : State) (gid : Nat) : State :=
  let s1 := (s.dropRejected gid).dropReqs gid
  { s1 with copies := s1.copies.filter fun x => !(x.2.gid = gid && x.2.reject.isSome) }.flushRemote

/-! ## Words that hold the stream -/

/-- A side-effecting word that holds the S-stream (`klaunch`, `evset`): it enters the quarantine (stage 2), waits until it has left it,
releases at `scope` (stage 4), then `done` runs. A word whose ordinal was released before a strike runs `skip` (R386). -/
def State.sQuarRelease (s : State) (w : Who) (scope : Scope) (skip : Group → Out) (done : State → Group → Out) : Out :=
  let g := w.g
  match g.hold with
  | none =>
    let e := g.enterS s.cycle [.hold]
    if e.2 then
      s.sStall w.gid { e.1 with hold := some { pc := g.spc, stage := 2, since := s.cycle } } .none 0
    else skip e.1
  | some h =>
    if h.stage = 2 then
      (if !g.sQuarEmpty then s.sStall w.gid g .none 0
       else
        let r := s.beginRelease w.gid w.core w.ctx ((scopeMax g.relPend (some scope)).getD scope) (s.sReqs w.gid) []
        r.2.sStall w.gid { g with hold := some { h with stage := 4, ids := [r.1] }, relPend := none } .none 0)
    else if h.stage = 4 then
      (if h.ids.any fun i => (aget s.rels i).isSome then s.sStall w.gid g .none 0 else done s g)
    else done s g

/-- A `rnd.get` of the group has not landed: no later S access is performed and no later block starts (R321). -/
def State.getPending (s : State) (gid : Nat) : Bool :=
  s.reqs.any fun x => x.2.gid = gid && !x.2.faulted && (match x.2.dst with
    | .roundGet _ _ _ => true
    | _ => false)

/-- As `sIssueWho`, for a word that accesses memory or enqueues: it waits for a `rnd.get` of the group (R321). -/
def sAccess (s : State) (need : List SReg) (body : Who → Out) : Out :=
  sIssueWho s need fun w => if s.getPending w.gid then s.sStall w.gid w.g .none 0 else body w

/-- As `sAccess`, for a word that writes memory: a release that a fence has left to it comes first (R294). -/
def sStoring (s : State) (need : List SReg) (body : State → Who → Out) : Out := sAccess s need fun w => s.sFirstWrite w body

/-- Every producer of the group has landed (R86, R380): no request is outstanding and no command owes a scalar destination. -/
def State.producersLanded (s : State) (gid : Nat) (g : Group) : Bool :=
  (s.reqs.all fun x => x.2.gid ≠ gid || x.2.faulted) &&
  ((g.lq ++ g.mq ++ g.cq).all fun i => match aget s.cmds i with
    | some c => c.dst = 0
    | none => true) &&
  (s.copies.all fun x => x.2.gid ≠ gid || x.2.dst = 0) &&
  (s.colls.all fun x => x.2.gid ≠ gid || x.2.dst = 0) &&
  (s.batches.all fun x => x.2.gid ≠ gid || x.2.dst = 0)

end Sys2Proof.Machine
end

