-- ==== Sys2Proof/Machine/Barrier.lean ====
section
/-!
DEFINITION. Barrier objects (R283 to R286, R290) and cluster scratchpad addresses (R224).
-/
namespace Sys2Proof.Machine

/-- The physical core of a logical position (R63). -/
def State.physCore (s : State) (die col row : Nat) : CoreKey :=
  { die := die, row := row
    col := match aget (s.die die).colmap row with
      | some l => l.getD col 15
      | none => col }

/-! ## Cluster addresses -/

/-- The team that is member `m` of the group's cluster. -/
def State.clusterTeam (s : State) (w : Who) (m : Nat) : Option Nat :=
  match aget s.clusters w.team.cluster with
  | some c => c.teams[m]?
  | none => none

/-- The checks of R224 that are made at issue, on an n32 cluster address and an access of `n` bytes: the member's team and offset. -/
def State.clResolve (s : State) (w : Who) (a n : Nat) : Option (Nat × Nat) :=
  let off := bitsOf a 19 0
  let mem := bitsOf a 23 20
  if bitsOf a 31 24 ≠ 0 || w.lrec.cluw * w.lrec.cluh ≤ mem || w.lrec.scratch < off + n || w.lrec.scratch ≤ off then none
  else (s.clusterTeam w mem).map fun t => (t, off)

/-- The member's team has retired (R75). -/
def State.teamGone (s : State) (t : Nat) : Bool :=
  match aget s.teams t with
  | some x => x.retired || x.lost
  | none => true

/-- A barrier's address (R290): a cluster address, 32-byte aligned, the object within SCRATCH, the team not retired. -/
def State.barResolve (s : State) (w : Who) (a : Nat) : Option (Nat × Nat) :=
  if bitsOf a 4 0 ≠ 0 then none
  else match s.clResolve w a 32 with
    | some (t, o) => if s.teamGone t then none else some (t, o)
    | none => none

/-! ## The object -/

/-- A little-endian field of a team's scratchpad. -/
def Team.spNat (t : Team) (o n : Nat) : Nat := leNat (t.spRead o n)

/-- PHASE. -/
def Team.barPhase (t : Team) (o : Nat) : Word := w32 (t.spNat o 4)

/-- FLAGS.SCOPE, 7 read as 6 (R283). -/
def Team.barScope (t : Team) (o : Nat) : Scope :=
  match t.spNat (o + 12) 4 % 8 with
  | 0 => .grp | 1 => .team | 2 => .clu | 3 => .die | 4 => .pkg | 5 => .dom | _ => .sys

/-- FLAGS.LIVE. -/
def Team.barLive (t : Team) (o : Nat) : Bool := t.spNat (o + 12) 4 / 8 % 2 = 1

/-- Phase `n` has passed (R286). -/
def phasePassed (phase n : Word) : Bool := (phase - n - 1).toNat < 2 ^ 31

/-- The test of R285 on a team record, with writes of stamp `st`. -/
def Team.barTest (t : Team) (o st : Nat) : Team :=
  let e := if t.barLive o then t.live else t.spNat (o + 4) 4
  if e ≤ t.spNat (o + 8) 4 && t.spNat (o + 16) 8 ≤ t.spNat (o + 24) 8 then
    ((t.spWrite o (leBytes 4 (t.barPhase o + 1).toNat) st).spWrite (o + 8) (leBytes 4 0) st).spWrite (o + 16) (leBytes 16 0) st
  else t

/-- Arrivals added, saturating, then the test (R283, R285). -/
def Team.barArrive (t : Team) (o n st : Nat) : Team :=
  (t.spWrite (o + 8) (leBytes 4 (min (t.spNat (o + 8) 4 + n) 0xFFFFFFFF)) st).barTest o st

/-- Bytes credited, saturating, then the test. -/
def Team.barCredit (t : Team) (o n st : Nat) : Team :=
  (t.spWrite (o + 24) (leBytes 8 (min (t.spNat (o + 24) 8 + n) 0xFFFFFFFFFFFFFFFF)) st).barTest o st

/-- Bytes armed, then the test. -/
def Team.barArm (t : Team) (o : Nat) (n : DWord) (st : Nat) : Team :=
  (t.spWrite (o + 16) (leBytes 8 (t.spNat (o + 16) 8 + n.toNat)) st).barTest o st

/-- `binit` applied (R284, R289): the object, and the team's live-barrier record; none when that record is full. -/
def Team.barInit (t : Team) (o : Nat) (v : DWord) (st : Nat) : Option Team :=
  let live := v.getLsbD 35
  if live && !t.liveBars.contains o && 8 ≤ t.liveBars.length then none
  else
    let bars := if live then (if t.liveBars.contains o then t.liveBars else t.liveBars ++ [o]) else t.liveBars.filter (· ≠ o)
    some { t.spWrite o (leBytes 4 0 ++ leBytes 4 (dbits v 31 0) ++ leBytes 4 0 ++ leBytes 4 (dbits v 35 32) ++ leBytes 16 0) st with
      liveBars := bars }

/-- The live barriers of a team tested under its LIVE count (R284), with the cycle `now` noted for those that complete. -/
def Team.testLive (t : Team) (now st : Nat) : Team :=
  t.liveBars.foldl (fun acc o =>
    let y := acc.barTest o st
    if y.barPhase o = acc.barPhase o then y else { y with liveDone := aset y.liveDone o now }) t

/-- An `exit` of this cycle has completed a phase of the barrier: its test takes the arrivals of the cycle in, and they are surplus (R166,
R285). -/
def Team.exitDone (t : Team) (now o : Nat) : Bool := aget t.liveDone o = some now

/-- Arrivals that land in cycle `now`. -/
def Team.arrive (t : Team) (now o n st : Nat) : Team := if t.exitDone now o then t else t.barArrive o n st

/-- A team changed by a barrier update, with a new stamp. -/
def State.barUpdate (s : State) (t : Nat) (f : Team → Nat → Team) : State :=
  { s with stamp := s.stamp + 1, teams := amod s.teams t fun x => f x s.stamp }

end Sys2Proof.Machine
end

