-- ==== Sys2Proof/Machine/Queue.lean ====
section
/-!
DEFINITION. The command queues of a group (R90, R91), guards at their heads (R92), discards (R93), and enqueuing with the
guard-deadlock test (R94).
-/
namespace Sys2Proof.Machine

/-- The queues: 0 the L-queue, 1 the M-queue, 2 the C-queue (R90). -/
def Group.queue (g : Group) (q : Nat) : List Nat := if q = 0 then g.lq else if q = 1 then g.mq else g.cq

/-- The group with a command appended to a queue. -/
def Group.push (g : Group) (q id : Nat) : Group :=
  if q = 0 then { g with lq := g.lq ++ [id] } else if q = 1 then { g with mq := g.mq ++ [id] } else { g with cq := g.cq ++ [id] }

/-- The group with a command taken out of a queue. -/
def Group.unqueue (g : Group) (q id : Nat) : Group :=
  if q = 0 then { g with lq := g.lq.filter (· ≠ id) }
  else if q = 1 then { g with mq := g.mq.filter (· ≠ id) }
  else { g with cq := g.cq.filter (· ≠ id) }

/-- A command has started. -/
def State.cmdStarted (s : State) (id : Nat) : Bool :=
  match aget s.cmds id with
  | some c => c.started
  | none => true

/-- A command that stays at the head of its queue until it has completed: the fences (R278, R352), a latch (R266), a lane block (R108). -/
def CmdKind.blocks : CmdKind → Bool
  | .ofence | .pbar | .mld | .mldPair | .lrun => true
  | _ => false

/-- The head of a queue: its first command that has not started, or that holds back those behind it. -/
def State.headOf (s : State) (ids : List Nat) : Option Nat := ids.find? fun i => match aget s.cmds i with
  | some c => !c.started || c.kind.blocks
  | none => false

/-- The guard of a command: none when unguarded, else the state of its slot (R92). -/
inductive GuardState | open_ | held | false_
deriving DecidableEq, Repr

/-- The guard of a queued command as it stands (R92). -/
def Group.guardOf (g : Group) (c : Cmd) : GuardState :=
  match c.guard with
  | none => .open_
  | some n =>
    match aget g.guards n with
    | none => .held
    | some true => .open_
    | some false => .false_

/-- The command of the group is held on an unresolved slot. -/
def State.cmdHeld (s : State) (g : Group) (id : Nat) : Bool :=
  match aget s.cmds id with
  | some c => g.guardOf c == .held
  | none => false

/-- The head of the list is held on an unresolved slot, or is an `ofence` whose earlier lane blocks include one so held (R94). -/
def State.headDeadlocked (s : State) (g : Group) (ids : List Nat) : Bool :=
  match s.headOf ids with
  | none => false
  | some h =>
    s.cmdHeld g h ||
    (match aget s.cmds h with
     | some c => c.kind == .ofence && (match s.headOf g.lq with
        | some l => l < h && s.cmdHeld g l
        | none => false)
     | none => false)

/-- How many commands of a list hold an entry of the shared pool of queue `q`. -/
def State.pooled (s : State) (q : Nat) (ids : List Nat) : Nat :=
  (ids.filter fun i => match aget s.cmds i with
    | some c => c.pool.contains q
    | none => false).length

/-- The group resides on the core (R75, R77). -/
def State.onCore (s : State) (k : CoreKey) (g : Group) : Bool :=
  match aget s.teams g.team with
  | some t => t.core = k && !g.done && !(match aget s.clusters t.cluster with
      | some c => c.saved
      | none => false)
  | none => false

/-- Pool entries of an engine that the groups of a core use (R91). -/
def State.poolUsed (s : State) (k : CoreKey) (q : Nat) : Nat :=
  (s.groups.map fun p => if s.onCore k p.2 then s.pooled q (p.2.queue q) else 0).foldl (· + ·) 0

/-- Stage of a group whose enqueue waits for an entry of a pool; the hold keeps the number of the request and, as a mask, the queues. -/
def poolStage : Nat := 31

/-- The number under which the group asks for an entry of the pool of queue `q` (R91). -/
def State.poolAsk (s : State) (g : Group) (q : Nat) : Option Nat :=
  match g.hold with
  | some h => if h.stage = poolStage && h.pc = g.spc && s.mayIssue g && h.val.toNat / 2 ^ q % 2 = 1 then h.ids.head? else none
  | none => none

/-- Another group of the core has asked for an entry of the pool of queue `q` before this one (R91). -/
def State.askedBefore (s : State) (w : Who) (q : Nat) : Bool :=
  s.groups.any fun p => p.1 ≠ w.gid && s.onCore w.core p.2 && (match s.poolAsk p.2 q, s.poolAsk w.g q with
    | some a, some b => decide (a < b)
    | some _, none => true
    | none, _ => false)

/-- The next command takes a private entry of queue `q` (R91). -/
def State.privateFree (s : State) (g : Group) (q : Nat) : Bool := (g.queue q).length - s.pooled q (g.queue q) < 2

/-- A command can enter a queue of the group (R91): with a private entry, or with one of the pool in the order of the requests. -/
def State.canEnqueue (s : State) (w : Who) (q : Nat) : Bool :=
  (w.g.queue q).length < 4 && (s.privateFree w.g q || (s.poolUsed w.core q < 64 && !s.askedBefore w q))

/-- The queues that a command enters (R90). -/
def CmdKind.queues : CmdKind → List Nat
  | .lrun => [0]
  | .mld | .mldPair | .mmul | .mmt | .mfence | .mrel => [1]
  | .cpt | .cptIdx | .cptWs | .cptP | .pbar | .xmar | .xred | .xnorm | .xbar => [2]
  | .ofence => [1, 2]

/-- The guard slot that an instruction names. -/
def slotOf : GuardSel → Option Nat
  | .slot n => some n.toNat
  | .none => none

/-- The S word of a command that cannot enter its queues traps (R94), waits, or goes on with `body`. -/
def State.enqueueGate (s : State) (w : Who) (k : CmdKind) (body : Unit → Out) : Out :=
  if k.queues.all fun q => s.canEnqueue w q then body ()
  else if k.queues.any fun q => !s.canEnqueue w q && s.headDeadlocked w.g (w.g.queue q) then sTrap s w.gid w.g 0x01 1 0
  else if k.queues.any fun q => 4 ≤ (w.g.queue q).length then s.sStall w.gid w.g .none 0
  else match w.g.hold with
    | some _ => s.sStall w.gid w.g .none 0
    | none =>
      let mask := (k.queues.map fun q => if s.privateFree w.g q then 0 else 2 ^ q).foldl (· + ·) 0
      { s with nextId := s.nextId + 1 }.sStall w.gid
        { w.g with hold := some { pc := w.g.spc, stage := poolStage, since := s.cycle, ids := [s.nextId], val := dw mask } } .none 0

/-- A command put into the queues of the group, in state `g` of the group. -/
def State.enqueue (s : State) (gid : Nat) (g : Group) (c : Cmd) : State :=
  let id := s.nextId
  { (s.setGroup gid (c.kind.queues.foldl (fun acc q => acc.push q id) g)) with
    cmds := aset s.cmds id { c with pool := c.kind.queues.filter fun q => !s.privateFree g q }, nextId := id + 1 }

/-- The command leaves its queues and is gone. -/
def State.dropCmd (s : State) (gid id : Nat) : State :=
  match aget s.cmds id with
  | none => s
  | some c => { s.modGroup gid fun g => c.kind.queues.foldl (fun acc q => acc.unqueue q id) g with cmds := adel s.cmds id }

/-- Some queued command names the slot. -/
def State.slotNamed (s : State) (g : Group) (slot : Nat) : Bool :=
  (g.lq ++ g.mq ++ g.cq).any fun i => match aget s.cmds i with
    | some c => c.guard = some slot
    | none => false

/-- A command naming the slot stands in a queue behind a head that the S-stream alone could resolve (R92). -/
def State.slotDeadlocked (s : State) (g : Group) (slot : Nat) : Bool :=
  [0, 1, 2].any fun q => s.headDeadlocked g (g.queue q) && ((g.queue q).dropWhile fun i => some i ≠ s.headOf (g.queue q)).tail.any fun i =>
    match aget s.cmds i with
    | some c => c.guard = some slot
    | none => false

/-! ## The engines' view -/

/-- The head of a queue, if it is a command of kind `k` that has not started, released from the quarantine, with its guard in state `x`. -/
def State.headWith (s : State) (g : Group) (q : Nat) (k : CmdKind) (x : GuardState) : Option (Nat × Cmd) :=
  match s.headOf (g.queue q) with
  | none => none
  | some h =>
    match aget s.cmds h with
    | none => none
    | some c => if c.kind = k && !c.started && c.released && g.guardOf c == x then some (h, c) else none

/-- The command that an engine may start for a group (R90): the head of its queue, with its guard open. -/
def State.startable (s : State) (g : Group) (q : Nat) (k : CmdKind) : Option (Nat × Cmd) := s.headWith g q k .open_

/-- The head of a queue whose slot is false (R93), with the command. -/
def State.discardable (s : State) (g : Group) (q : Nat) (k : CmdKind) : Option (Nat × Cmd) := s.headWith g q k .false_

/-- An engine may start or discard queued commands of the group: it is neither parked (R369) nor being saved (R77). -/
def State.mayStart (s : State) (g : Group) : Bool := !g.done && g.park.isNone && !s.stopping g

/-- What an engine takes up next for a group: the command, and whether its guard discards it. -/
def State.nextCmd (s : State) (g : Group) (q : Nat) (k : CmdKind) : Option (Nat × Cmd × Bool) :=
  if !s.mayStart g then none
  else match s.startable g q k with
    | some (id, c) => some (id, c, false)
    | none => (s.discardable g q k).map fun x => (x.1, x.2, true)

/-- A command marked as started. -/
def State.startCmd (s : State) (id : Nat) : State := { s with cmds := amod s.cmds id fun c => { c with started := true } }

end Sys2Proof.Machine
end

