-- ==== Sys2Proof/Machine/SCmd.lean ====
section
/-!
DEFINITION. Enqueuing matrix and copy commands (R81, R90 to R94, R249 to R251, R263, R264, R267, R276, R352) with their record
checks, the batch of matrix commands (R275), and their place in the region (R383 to R386).
-/
namespace Sys2Proof.Machine

/-! ## Record checks -/

/-- The first failing check of a list: its register number. -/
def firstBad : List (Bool × Nat) → Option Nat
  | [] => none
  | (ok, i) :: rest => if ok then firstBad rest else some i

/-- Bits [63:57] are zero. -/
def addrOk (x : DWord) : Bool := dbits x 63 57 = 0

/-- A barrier word (R251, R276): BOFF, BMEM, NOBAR and SCOPE. With NOBAR = 1 no member holds a barrier, and the own member's scratchpad is not asked (log 91). -/
def barWordOk (w : Who) (x : DWord) : Bool :=
  let boff := dbits x 18 0
  let bmem := dbits x 22 19
  boff % 32 = 0 && bmem < w.lrec.cluw * w.lrec.cluh && dbits x 26 24 ≠ 7 &&
    (dbits x 23 23 = 0 || (boff = 0 && bmem = 0)) &&
    (x.getLsbD 23 || bmem ≠ w.team.member || boff + 32 ≤ w.lrec.scratch)

/-- The record of `mld` and `mld.pair` (R264). -/
def mldBad (_w : Who) (a : List DWord) : Option Nat :=
  let src := a.getD 0 0
  let r1 := a.getD 1 0
  let fmt := dbits r1 34 32
  firstBad [
    (addrOk src && !(fmt = 0 && src.getLsbD 0), 0),
    (dbits r1 63 35 = 0 && fmt ≤ 3 && !(fmt = 3 && dbits r1 31 0 ≠ 0) && !(fmt = 0 && r1.getLsbD 0), 1),
    (if fmt = 3 then addrOk (a.getD 2 0) else a.getD 2 0 = 0, 2),
    (if fmt = 3 then addrOk (a.getD 3 0) && dbits (a.getD 3 0) 1 0 = 0 else a.getD 3 0 = 0, 3)]

/-- The record of `mmul` and `mmt` (R267). -/
def mmulBad (_w : Who) (a : List DWord) : Option Nat :=
  let r0 := a.getD 0 0
  let r2 := a.getD 2 0
  firstBad [
    (dbits r0 1 0 = 0 && dbits r0 33 32 = 0, 0),
    (addrOk (a.getD 1 0) && dbits (a.getD 1 0) 5 0 = 0, 1),
    (dbits r2 1 0 = 0 && dbits r2 47 32 ≠ 0 && dbits r2 49 48 ≠ 3 && dbits r2 63 50 = 0, 2)]

/-- The barrier word of `mfence` (R276). -/
def mfenceBad (w : Who) (a : List DWord) : Option Nat :=
  firstBad [(barWordOk w (a.getD 0 0) && dbits (a.getD 0 0) 63 27 = 0, 0)]

/-- The layout record of a copy (R250, R251). -/
def copyBad (k : CmdKind) (w : Who) (a : List DWord) : Option Nat :=
  let r2 := a.getD 2 0
  let r5 := a.getD 5 0
  let idx := k == .cptIdx
  firstBad [
    (addrOk (a.getD 0 0), 0),
    (addrOk (a.getD 1 0), 1),
    (dbits r2 23 0 ≠ 0 && dbits r2 39 24 ≠ 0 && dbits r2 55 40 ≠ 0 && (!idx || dbits r2 55 40 = 1) && dbits r2 58 56 ≤ 4 &&
      dbits r2 63 59 = 0, 2),
    (!idx || dbits (a.getD 3 0) 63 32 = 0, 3),
    (!idx || dbits (a.getD 4 0) 63 32 = 0, 4),
    (barWordOk w r5 && (if k == .cptP then dbits r5 28 27 ≤ 2 else dbits r5 28 27 = 0) && dbits r5 63 29 = 0, 5),
    (if idx then addrOk (a.getD 6 0) && dbits (a.getD 6 0) 1 0 = 0 else a.getD 6 0 = 0, 6),
    (idx || a.getD 7 0 = 0, 7)]

/-! ## Batches (R275) and streams (R280) -/

/-- The command belongs to a batch: every command of op 0x1A but `ofence`. -/
def CmdKind.inBatch : CmdKind → Bool
  | .mld | .mldPair | .mmul | .mmt | .mfence | .mrel => true
  | _ => false

/-- The open batch of a group, begun when there is none. -/
def State.openBatch (s : State) (gid : Nat) (g : Group) : Nat × Group × State :=
  if (aget s.batches g.openBatch).isSome && g.openBatch ≠ 0 then (g.openBatch, g, s)
  else (s.nextId, { g with openBatch := s.nextId },
    { s with batches := aset s.batches s.nextId { gid := gid }, nextId := s.nextId + 1 })

/-- The columns that a queued `mmul` is going to meet: those of the nearest earlier latch in the queue, else of the array. -/
def State.colsAhead (s : State) (w : Who) : Nat :=
  match (w.g.mq.filterMap fun i => match aget s.cmds i with
      | some c => if c.started then none else if c.kind = .mld then some 128 else if c.kind = .mldPair then some 256 else none
      | none => none).getLast? with
  | some n => n
  | none =>
    match (s.core w.core).array with
    | some a => (match a.tile with
      | some t => t.codes.length
      | none => 128)
    | none => 128

/-- A matrix command's batch and stream, as it is enqueued under number `id`. -/
def State.joinBatch (s : State) (w : Who) (g : Group) (c : Cmd) (ordinal : Nat) : Cmd × Group × State :=
  if !c.kind.inBatch then (c, g, s)
  else
    let r := s.openBatch w.gid g
    let id := r.2.2.nextId
    let b := r.1
    let c1 := { c with batch := b }
    let s1 := { r.2.2 with batches := amod r.2.2.batches b fun x => { x with pending := x.pending ++ [id] } }
    match c.kind with
    | .mfence =>
      (c1, { r.2.1 with openBatch := 0, batchCtr := g.batchCtr + 1 },
       { s1 with batches := amod s1.batches b fun x =>
          { x with number := g.batchCtr, closed := true, barw := c.args.getD 0 0, dst := c.dst, pc := c.pc, ordinal := ordinal } })
    | .mmul | .mmt =>
      (c1, r.2.1, { s1 with streams := aset s1.streams id {
        gid := w.gid, batch := b, pc := c.pc, core := w.core, ctx := w.ctx, gen := s.genStamp w.core w.ctx, args := c.args
        transposed := c.kind == .mmt, outs := if c.kind == .mmt then 256 else s.colsAhead w, rows := dbits (c.args.getD 2 0) 47 32
        stamp := s.stamp } })
    | _ => (c1, r.2.1, s1)

/-! ## Enqueuing -/

/-- An engine command (R81, R91, R94, R378, R383 to R386): operands read, record checked, queue entered, status register empty. On a
replay of a released command its logged status is written and nothing is enqueued. -/
def sCommand (s : State) (g : GuardSel) (kind : CmdKind) (regs : List SReg) (dst : SReg)
    (bad : Who → List DWord → Option (BitVec 8 × DWord)) : Out :=
  sAccess s regs fun w =>
    let args := regs.map w.g.sget
    if !s.dstReady w.gid w.g dst then s.sStall w.gid w.g .barrier 0
    else match bad w args with
    | some (sub, addr) => sTrap s w.gid w.g 0x01 sub addr
    | none =>
      if dst ≠ 0 && w.g.logFull then sTrap s w.gid w.g 0x01 5 0
      else
        let o := w.g.nextOrdinal
        let g0 := if dst = 0 then w.g else w.g.addReturning
        let replayed : Bool := match w.g.region with
          | some r => r.sOrd + 1 ≤ r.rs
          | none => false
        if replayed then
          let g1 := (g0.enterS s.cycle []).1
          let g2 := if kind == .mfence then { g1 with batchCtr := g1.batchCtr + 1 } else g1
          .next (s.setGroup w.gid (if dst = 0 then g2 else g2.sput dst ((w.g.logged o).getD 0)).next)
        else s.enqueueGate w kind fun _ =>
          let c : Cmd := {
            kind := kind, guard := slotOf g, pc := w.g.spc, args := args, dst := dst, ordinal := o, stamp := s.stamp }
          let r := s.joinBatch w g0 c o
          let g1 := (r.2.1.enterS s.cycle [.cmd (kind.queues.getD 0 0) r.2.2.nextId]).1
          .next (r.2.2.enqueue w.gid (g1.sempty dst).next r.1)

/-- A record check as a command's check: subcode 4 (R364). -/
def recordCheck (f : Who → List DWord → Option Nat) (w : Who) (a : List DWord) : Option (BitVec 8 × DWord) :=
  (f w a).map fun i => (4, dw i)

/-- The registers s[a] to s[a+n-1] of a record. -/
def recordRegs (a : SReg) (n : Nat) : List SReg := (List.range n).map fun i => a + BitVec.ofNat 6 i

def execMld (g : GuardSel) (a : SReg) (s : State) : Out := sCommand s g .mld (recordRegs a 4) 0 (recordCheck mldBad)

/-- `mld.pair` (R261): the record first, then the follower's place. -/
def execMldPair (g : GuardSel) (a : SReg) (s : State) : Out :=
  sCommand s g .mldPair (recordRegs a 4) 0 fun w x =>
    match mldBad w x with
    | some i => some (4, dw i)
    | none => if w.lrec.cluw ≤ w.team.member % w.lrec.cluw + 1 then some (0, 8) else none

def execMmul (g : GuardSel) (a : SReg) (s : State) : Out := sCommand s g .mmul (recordRegs a 3) 0 (recordCheck mmulBad)
def execMmt (g : GuardSel) (a : SReg) (s : State) : Out := sCommand s g .mmt (recordRegs a 3) 0 (recordCheck mmulBad)
def execMfence (g : GuardSel) (a b : SReg) (s : State) : Out := sCommand s g .mfence [a] b (recordCheck mfenceBad)
def execMrel (g : GuardSel) (s : State) : Out := sCommand s g .mrel [] 0 fun _ _ => none
def execOfence (g : GuardSel) (s : State) : Out := sCommand s g .ofence [] 0 fun _ _ => none
def execCpt (g : GuardSel) (a b : SReg) (s : State) : Out := sCommand s g .cpt (recordRegs a 8) b (recordCheck (copyBad .cpt))
def execCptIdx (g : GuardSel) (a b : SReg) (s : State) : Out :=
  sCommand s g .cptIdx (recordRegs a 8) b (recordCheck (copyBad .cptIdx))
def execCptWs (g : GuardSel) (a b : SReg) (s : State) : Out :=
  sCommand s g .cptWs (recordRegs a 8) b (recordCheck (copyBad .cptWs))
def execCptP (g : GuardSel) (a b : SReg) (s : State) : Out := sCommand s g .cptP (recordRegs a 8) b (recordCheck (copyBad .cptP))
def execPbar (g : GuardSel) (b : SReg) (s : State) : Out := sCommand s g .pbar [] b fun _ _ => none

end Sys2Proof.Machine
end

