-- ==== Sys2Proof/Machine/SColl.lean ====
section
/-!
DEFINITION. Enqueuing collective commands with their record checks (R331, R332, R334, R337, R340 to R342).
-/
namespace Sys2Proof.Machine

/-- Grid extent `i` of a rank word (R332). -/
def rankExt (x : DWord) (i : Nat) : Nat := dbits x (8 * i + 7) (8 * i) + 1

/-- NR. -/
def rankNR (x : DWord) : Nat := rankExt x 0 * rankExt x 1 * rankExt x 2 * rankExt x 3

/-- RANK, PBASE, COMM. -/
def rankRank (x : DWord) : Nat := dbits x 39 32
def rankPbase (x : DWord) : Nat := dbits x 47 40
def rankComm (x : DWord) : BitVec 16 := BitVec.ofNat 16 (dbits x 63 48)

/-- The package of rank `r` (R332). -/
def rankPkg (x : DWord) (r : Nat) : Nat := (rankPbase x + r) % 256

/-- A rank word at package `self` (R332); `flat` when only NR matters. -/
def rankOk (self : Nat) (flat : Bool) (x : DWord) : Bool :=
  rankNR x ≤ 256 && rankRank x < rankNR x && rankPkg x (rankRank x) = self && (!flat || dbits x 31 8 = 0)

/-- A barrier word of a collective (R334). -/
def barwOk (w : Who) (x : DWord) : Bool := barWordOk w x && dbits x 63 27 = 0

/-! ## xmar (R337) -/

/-- Field `i` of four 16-bit fields. -/
def quarter (x : DWord) (i : Nat) : Nat := dbits x (16 * i + 15) (16 * i)

/-- Remove the entry at position `i`. -/
def dropAt (l : List Nat) (i : Nat) : List Nat := l.take i ++ l.drop (i + 1)

/-- π of a PERM code: the array dimensions in storage order. -/
def permOf (p : Nat) : List Nat :=
  let x := p / 6
  let r1 := dropAt [0, 1, 2, 3] x
  let y := p / 2 % 3
  let r2 := dropAt r1 y
  let z := p % 2
  let r3 := dropAt r2 z
  [x, r1.getD y 0, r2.getD z 0, r3.getD 0 0]

/-- Element size of `xmar`. -/
def xmarEsz (a : List DWord) : Nat := 4 * 2 ^ dbits (a.getD 5 0) 38 37
/-- Global, source block and destination block extents. -/
def xmarE (a : List DWord) (i : Nat) : Nat := quarter (a.getD 2 0) i
def xmarSB (a : List DWord) (i : Nat) : Nat := quarter (a.getD 3 0) i
def xmarH (a : List DWord) (i : Nat) : Nat := rankExt (a.getD 5 0) i
def xmarDB (a : List DWord) (i : Nat) : Nat := xmarE a i / xmarH a i
/-- Storage order and strides of the destination. -/
def xmarPi (a : List DWord) : List Nat := permOf (dbits (a.getD 5 0) 36 32)
def xmarS (a : List DWord) (j : Nat) : Nat :=
  if j = 0 then 1 else if j = 1 then dbits (a.getD 6 0) 20 0 else if j = 2 then dbits (a.getD 6 0) 41 21 else dbits (a.getD 6 0) 62 42

/-- The strides do not overlap (R337). -/
def xmarStridesOk (a : List DWord) : Bool :=
  let p := fun j => (xmarPi a).getD j 0
  xmarDB a (p 0) ≤ xmarS a 1 && xmarS a 1 * xmarDB a (p 1) ≤ xmarS a 2 && xmarS a 2 * xmarDB a (p 2) ≤ xmarS a 3

def xmarBad (self : Nat) (w : Who) (a : List DWord) : Option Nat :=
  let r5 := a.getD 5 0
  let dims := [0, 1, 2, 3]
  let al := dbits r5 38 37 = 3
  firstBad [
    (al || (a.getD 0 0).toNat % xmarEsz a = 0, 0),
    (al || (a.getD 1 0).toNat % xmarEsz a = 0, 1),
    (dims.all fun i => xmarE a i ≠ 0, 2),
    (dims.all fun i => xmarSB a i * rankExt (a.getD 4 0) i = xmarE a i, 3),
    (rankOk self false (a.getD 4 0), 4),
    ((xmarH a 0 * xmarH a 1 * xmarH a 2 * xmarH a 3 = rankNR (a.getD 4 0)) && (dims.all fun i => xmarE a i % xmarH a i = 0) &&
      dbits r5 36 32 ≤ 23 && !al && dbits r5 63 39 = 0, 5),
    (dbits (a.getD 6 0) 63 63 = 0 && xmarStridesOk a, 6),
    (barwOk w (a.getD 7 0), 7)]

/-! ## xred, xnorm, xbar -/

/-- Element size of `xred`, its type and operation. -/
def xredSize (a : List DWord) : Nat := if dbits (a.getD 2 0) 19 16 = 10 then 8 else 4
def xredCount (a : List DWord) : Nat := dbits (a.getD 2 0) 12 0
def xredTy (a : List DWord) : Option LTy :=
  match dbits (a.getD 2 0) 19 16 with
  | 0 => some .b32 | 1 => some .i32 | 2 => some .n32 | 3 => some .f32 | 10 => some .b64 | _ => none
def xredOp (a : List DWord) : Nat := dbits (a.getD 2 0) 22 20

def xredBad (self : Nat) (w : Who) (a : List DWord) : Option Nat :=
  let r2 := a.getD 2 0
  firstBad [
    ((a.getD 0 0).toNat % xredSize a = 0, 0),
    ((a.getD 1 0).toNat % xredSize a = 0, 1),
    (1 ≤ xredCount a && xredCount a * xredSize a ≤ 4096 && dbits r2 15 13 = 0 && dbits r2 63 23 = 0 &&
      (match xredTy a with
       | some t => if xredOp a ≤ 2 then t = .i32 || t = .n32 || t = .f32 else xredOp a ≤ 5 && (t = .b32 || t = .b64)
       | none => false), 2),
    (rankOk self true (a.getD 3 0), 3),
    (barwOk w (a.getD 4 0), 4)]

def xnormBad (self : Nat) (w : Who) (a : List DWord) : Option Nat :=
  let r3 := a.getD 3 0
  firstBad [
    (dbits (a.getD 0 0) 63 32 = 0, 0),
    (dbits (a.getD 1 0) 63 32 = 0 && (f32 ((a.getD 1 0).setWidth 32)).posFinite, 1),
    (dbits (a.getD 2 0) 2 0 = 0 && (dbits r3 12 0 ≠ 0 || a.getD 2 0 = 0), 2),
    (dbits r3 12 0 ≤ 4096 && dbits r3 15 13 = 0 && dbits r3 63 18 = 0, 3),
    (rankOk self true (a.getD 4 0), 4),
    (barwOk w (a.getD 5 0), 5)]

def xbarBad (self : Nat) (w : Who) (a : List DWord) : Option Nat :=
  firstBad [(rankOk self true (a.getD 0 0), 0), (barwOk w (a.getD 1 0), 1)]

def execXmar (g : GuardSel) (a b : SReg) (s : State) : Out :=
  sCommand s g .xmar (recordRegs a 8) b (recordCheck (xmarBad s.self))
def execXred (g : GuardSel) (a b : SReg) (s : State) : Out :=
  sCommand s g .xred (recordRegs a 5) b (recordCheck (xredBad s.self))
def execXnorm (g : GuardSel) (a b : SReg) (s : State) : Out :=
  sCommand s g .xnorm (recordRegs a 6) b (recordCheck (xnormBad s.self))
def execXbar (g : GuardSel) (a b : SReg) (s : State) : Out :=
  sCommand s g .xbar (recordRegs a 2) b (recordCheck (xbarBad s.self))

end Sys2Proof.Machine
end

