-- ==== Sys2Proof/Machine/Colls.lean ====
section
/-!
DEFINITION. An outstanding collective command and the messages of its instance (R332, R333, R335, R338): what it has heard, whether it
agrees, what it waits for.
-/
namespace Sys2Proof.Machine

/-! ## Record words -/

/-- RANKW and BARW of a collective's record (R332, R334). -/
def collRankw (k : CollKind) (a : List DWord) : DWord := a.getD (match k with
  | .xmar | .xnorm => 4
  | .xred => 3
  | .xbar => 0) 0

def collBarw (k : CollKind) (a : List DWord) : DWord := a.getD (match k with
  | .xmar => 7
  | .xred => 4
  | .xnorm => 5
  | .xbar => 1) 0

/-- The fields that are compared across ranks (R333, R337, R340, R342). RANK is not. -/
def collHdr (k : CollKind) (a : List DWord) : CollHdr :=
  let x := collRankw k a
  { kind := k, nr := rankNR x, pbase := rankPbase x, comm := rankComm x
    matched := match k with
      | .xmar => [a.getD 2 0, a.getD 3 0, x &&& ~~~0xFF00000000, a.getD 5 0]
      | .xred => [a.getD 2 0]
      | .xnorm => [a.getD 1 0]
      | .xbar => [] }

def Coll.rankw (c : Coll) : DWord := collRankw c.kind c.args
def Coll.barw (c : Coll) : DWord := collBarw c.kind c.args
def Coll.nr (c : Coll) : Nat := c.hdr.nr
def Coll.rank (c : Coll) : Nat := rankRank c.rankw
/-- The other ranks. -/
def Coll.others (c : Coll) : List Nat := (List.range c.nr).filter (· ≠ c.rank)

/-! ## What has been heard -/

/-- The messages of the command's (context, COMM, instance) that have arrived. -/
def State.collMsgs (s : State) (c : Coll) : List CollMsg :=
  s.collIn.filter fun m => m.ctx.toNat = c.ctx && m.inst = c.inst && m.hdr.comm = c.hdr.comm

/-- The message comes from the package of its rank in the command's rank set, with the same fields (R333). -/
def Coll.agrees (c : Coll) (m : CollMsg) : Bool := m.hdr = c.hdr && m.rank < c.nr && m.src = rankPkg c.rankw m.rank

/-- The message that a rank is fenced as lost (R330). -/
def bodyLost : CollBody → Bool
  | .lost => true
  | _ => false

/-- A command that differs has been met (R333). -/
def State.collMismatch (s : State) (c : Coll) : Bool := (s.collMsgs c).any fun m => !bodyLost m.body && !c.agrees m

/-- Rank `r` has sent a message that satisfies `f`. -/
def State.heard (s : State) (c : Coll) (r : Nat) (f : CollBody → Bool) : Bool :=
  (s.collMsgs c).any fun m => c.agrees m && m.rank = r && f m.body

/-- Every other rank has started. -/
def State.heardAll (s : State) (c : Coll) : Bool := c.others.all fun r => s.heard c r fun b => !bodyLost b

/-- A rank of the instance is fenced as lost. -/
def State.collLost (s : State) (c : Coll) : Bool :=
  (s.collMsgs c).any (fun m => bodyLost m.body) || c.others.any fun r => s.lostPkgs.contains (rankPkg c.rankw r)

/-! ## Pieces (R338) -/

/-- Coordinate `i` of rank `r` in a grid of extents `g`. -/
def gridCoord (g : Nat → Nat) (r i : Nat) : Nat :=
  match i with
  | 0 => r % g 0
  | 1 => r / g 0 % g 1
  | 2 => r / (g 0 * g 1) % g 2
  | _ => r / (g 0 * g 1 * g 2) % g 3

/-- Lowest and first excluded index of dimension `i` that rank `r` holds and rank `q` receives. -/
def pieceSpan (a : List DWord) (r q i : Nat) : Nat × Nat :=
  let lo := gridCoord (rankExt (a.getD 4 0)) r i * xmarSB a i
  let lo' := gridCoord (xmarH a) q i * xmarDB a i
  (max lo lo', min (lo + xmarSB a i) (lo' + xmarDB a i))

/-- Elements of the piece from rank `r` to rank `q`. -/
def pieceCount (a : List DWord) (r q : Nat) : Nat :=
  [0, 1, 2, 3].foldl (fun n i => n * ((pieceSpan a r q i).2 - (pieceSpan a r q i).1)) 1

/-- Elements of a destination block. -/
def destCount (a : List DWord) : Nat := xmarDB a 0 * xmarDB a 1 * xmarDB a 2 * xmarDB a 3

/-! ## What a command waits for (R335) -/

def bodyPiece : CollBody → Bool
  | .piece _ | .pieceDropped _ => true
  | _ => false
def bodyDropped : CollBody → Bool
  | .pieceDropped _ => true
  | _ => false
def bodyAck : CollBody → Bool
  | .pieceAck => true
  | _ => false
def bodyValues : CollBody → Bool
  | .values _ => true
  | _ => false
def bodyNorm : CollBody → Bool
  | .norm _ _ => true
  | _ => false
def bodyNormAck : CollBody → Bool
  | .normAck => true
  | _ => false
def bodyNormCommit : CollBody → Bool
  | .normCommit => true
  | _ => false
def bodyReleased : CollBody → Bool
  | .released => true
  | _ => false

/-- Every message that the command needs of other ranks has arrived. -/
def State.collHeard (s : State) (c : Coll) : Bool :=
  match c.kind with
  | .xmar =>
    s.heardAll c &&
    (c.disc || c.others.all fun r => pieceCount c.args r c.rank = 0 || s.heard c r bodyPiece) &&
    (c.disc || c.others.all fun q => pieceCount c.args c.rank q = 0 || s.heard c q bodyAck)
  | .xred => c.others.all fun r => s.heard c r bodyValues
  | .xnorm =>
    c.committed || (if c.rank = 0 then c.others.all fun r => s.heard c r bodyNormAck else s.heard c 0 bodyNormCommit)
  | .xbar => c.others.all fun r => s.heard c r bodyReleased

/-- A command of the group has waited longer than HANGLIM for another rank (R335). -/
def State.hungColl (s : State) (gid hanglim : Nat) : Option (Nat × Coll) :=
  s.colls.find? fun x => x.2.gid = gid && x.2.cause = 0 && x.2.stage < 3 && x.2.since + hanglim < s.cycle && !s.collHeard x.2

end Sys2Proof.Machine
end

