-- ==== Sys2Proof/Machine/Operands.lean ====
section
/-!
DEFINITION. Issuing a lane instruction: the sub-gang and its active lanes (R162, R169), the operand forms (R99, R100), the
full/empty rules (R87), register limits (R103), moving lanes to their next states (R167), and lane traps (R164).
-/
namespace Sys2Proof.Machine

/-! ## Slice sequencers (R167) -/

/-- A state stands before another in its sequencer: deeper, then lower PC. -/
def SliceState.goesBefore (a b : SliceState) : Bool := b.depth < a.depth || (a.depth = b.depth && a.pc.toNat < b.pc.toNat)

/-- A state put into a sequencer: merged with one of equal PC and depth, else in the order of R167. -/
def insertState (x : SliceState) : List SliceState → List SliceState
  | [] => if x.mask = 0 then [] else [x]
  | y :: t =>
    if x.mask = 0 then y :: t
    else if x.pc = y.pc ∧ x.depth = y.depth then { y with mask := y.mask ||| x.mask } :: t
    else if x.goesBefore y then x :: y :: t
    else y :: insertState x t

/-- The lanes 4i to 4i + 3 named by the mask of slice `i`. -/
def maskLanes (i : Nat) (m : BitVec 4) : List Nat := ((List.range 4).filter fun j => m.getLsbD j).map fun j => 4 * i + j

/-- A slice after its running state's lanes have moved: `nxt` gives each lane's next PC and depth, none for a lane that leaves. -/
def moveSlice (i : Nat) (nxt : Nat → Option (Word × Nat)) : List SliceState → List SliceState
  | [] => []
  | r :: pend =>
    (maskLanes i r.mask).foldl (fun acc l =>
      match nxt l with
      | some (pc, d) => insertState { pc := pc, depth := d, mask := (1 : BitVec 4) <<< (l % 4) } acc
      | none => acc) pend

/-- The slices whose running state stands at (pc, depth): one sub-gang (R169). -/
def Group.gang (g : Group) (pc : Word) (depth : Nat) : List Nat :=
  (g.slices.filter fun p => match p.2 with
    | r :: _ => r.pc = pc && r.depth = depth
    | [] => false).map (·.1)

/-- The lanes of a sub-gang: those of the running states of its slices, ascending. -/
def Group.gangLanes (g : Group) (slices : List Nat) : List Nat :=
  slices.flatMap fun i => match aget g.slices i with
    | some (r :: _) => maskLanes i r.mask
    | _ => []

/-- The sub-gangs of a group (R169): the distinct PC and depth of its slices' running states. -/
def Group.gangKeys (g : Group) : List (Word × Nat) :=
  (g.slices.filterMap fun p => match p.2 with
    | r :: _ => some (r.pc, r.depth)
    | [] => none).eraseDups

/-- How often a sub-gang has been passed over (R109). -/
def Group.passed (g : Group) (pc : Word) (d : Nat) : Nat :=
  match g.gangs.find? fun x => x.pc = pc && x.depth = d with
  | some x => x.passed
  | none => 0

/-- The order of R109: passed over in 63 cycles first, then deepest, then lowest PC. -/
def Group.gangBefore (g : Group) (a b : Word × Nat) : Bool :=
  let pa := decide (63 ≤ g.passed a.1 a.2)
  let pb := decide (63 ≤ g.passed b.1 b.2)
  if pa ≠ pb then pa
  else if a.2 ≠ b.2 then b.2 < a.2
  else a.1.toNat ≤ b.1.toNat

/-- Insertion into a list ordered by R109. -/
def Group.insertGang (g : Group) (a : Word × Nat) : List (Word × Nat) → List (Word × Nat)
  | [] => [a]
  | b :: t => if g.gangBefore a b then a :: b :: t else b :: g.insertGang a t

/-- The sub-gangs of a group in the order of R109. -/
def Group.gangsInOrder (g : Group) : List (Word × Nat) := g.gangKeys.foldl (fun acc x => g.insertGang x acc) []

/-- The physical slices of a sub-gang, as a mask over the core's 16 (R74). -/
def Group.gangMask (g : Group) (slices : List Nat) : BitVec 16 :=
  slices.foldl (fun m i => m ||| ((1 : BitVec 16) <<< (g.home + i))) 0

/-- The guard holds for a lane (R162). -/
def guardHolds (f : LGuard) (l : Lane) : Bool :=
  match f with
  | .always => true
  | .pred p neg => xor (l.pget p.toNat) neg

/-- The sub-gang that issues: its group, PC, depth, slices, lanes (guard or not), and active lanes. -/
structure LaneCtx where
  who : Who
  pc : Word
  depth : Nat
  slices : List Nat
  lanes : List Nat
  act : List Nat
deriving DecidableEq, Repr

/-- Every slice that is not done has its running state at the sub-gang's place (R186, R202). -/
def LaneCtx.gathered (c : LaneCtx) : Bool := c.who.g.slices.all fun p => p.2.isEmpty || c.slices.contains p.1

/-- The wait slot of a sub-gang in its group's waits. -/
def laneWaitKey (pc : Word) (depth : Nat) : Nat := 1 + depth * 2 ^ 32 + pc.toNat

/-- The address of the S word after the `lrun` of the running block (R83, TRAPPC of lane traps). -/
def State.blockPc (s : State) (g : Group) : DWord :=
  match g.block with
  | some b => (match aget s.cmds b.cmd with
    | some c => c.pc + 4
    | none => g.spc)
  | none => g.spc

/-- The sub-gang does not issue (R108): its wait is noted. -/
def State.lStall (s : State) (c : LaneCtx) (kind : HangKind) (addr : DWord) : Out :=
  .next { (s.modGroup c.who.gid fun g => g.noteWait (laneWaitKey c.pc c.depth) s.cycle kind (s.blockPc g) c.pc addr) with
    cur := s.cur.map fun x => { x with stalled := true } }

/-- What is kept for a sub-gang. -/
def Group.gangRec (g : Group) (pc : Word) (depth : Nat) : SubGang :=
  (g.gangs.find? fun x => x.pc = pc && x.depth = depth).getD { pc := pc, depth := depth }

/-- The group with a sub-gang's record replaced. -/
def Group.setGang (g : Group) (x : SubGang) : Group :=
  { g with gangs := x :: g.gangs.filter fun y => !(y.pc = x.pc && y.depth = x.depth) }

/-- A lane fault (R164, R237, R366) with the group as it then stands, DONEMASK and the lanes done: the block stops and the group takes the
cause. While the S-stream holds a word that has begun, the cause is taken at its next boundary. -/
def State.laneFault (s : State) (c : LaneCtx) (g : Group) (code sub : BitVec 8) (addr donemask done : DWord) : Out :=
  let cause : Cause := {
    code := code, sub := sub, lane := true, pc := s.blockPc g, lpc := c.pc, addr := addr, donemask := donemask }
  let g1 := g.setGang { g.gangRec c.pc c.depth with stuck := true, done := done }
  if g.inWord then .next (s.setGroup c.who.gid { g1.stopBlock true with late := g.late ++ [cause] })
  else .next ((s.setGroup c.who.gid g1).takeCause c.who.gid cause false)

/-- A lane trap of an instruction that has performed nothing (R164). A walk rejected for its generation is resolved without software (R375):
the sub-gang waits until the homes have adopted the core's value. -/
def State.laneTrap (s : State) (c : LaneCtx) (code sub : BitVec 8) (addr : DWord) : Out :=
  if code = 0x07 then s.lStall c .none 0
  else s.laneFault c c.who.g code sub addr c.who.g.trap.donemask (c.who.g.gangRec c.pc c.depth).done

/-- Something of issue `issue` of the group has not been answered: it is in quarantine, behind a release, on its way, or a transfer under way. -/
def State.issueOpen (s : State) (gid issue : Nat) (g : Group) : Bool :=
  let mine := fun (m : Msg) => m.gid = gid && m.issue = issue
  (s.net.any fun x => mine x.2 && x.2.standing) || (s.rels.any fun r => r.2.after.any mine) ||
  (g.quar.any fun q => q.effects.any fun e => match e with
    | .msg m | .l1Store m | .releaseThen _ m _ _ | .perLaneCopy _ m _ _ _ _ _ => mine m
    | .cmd _ _ | .hold => false) ||
  s.copies.any fun x => x.2.perLane && x.2.gid = gid && x.2.issue = issue && (x.2.reject.isNone || x.2.reject = some 0x07)

/-- The lanes of an issue that were rejected, with their causes and addresses, as faults of an instruction that stands at its own fault `p`. -/
def State.rejections (s : State) (gid issue : Nat) (p : Pend) : List (Nat × BitVec 8 × DWord) :=
  (p.lane, p.code, p.ea) ::
  (s.net.filter fun x => x.2.gid = gid && x.2.issue = issue && x.2.rejected.isSome).map (fun x => (x.2.lane, x.2.rejected.getD 0, x.2.ea)) ++
  (s.copies.filter fun x => x.2.perLane && x.2.gid = gid && x.2.issue = issue && x.2.reject.isSome).map fun x =>
    (x.2.lane, x.2.reject.getD 0, x.2.args.getD 0 0)

/-- A partially performed instruction that met a fault waits until its lanes sent have been answered, and raises it then (R237): the lowest
lane that faulted gives cause and address, DONEMASK names the lanes sent and not rejected and the demoted ones, the destination is full. -/
def State.pendStep (s : State) (c : LaneCtx) (p : Pend) : Out :=
  let x := c.who.g.gangRec c.pc c.depth
  let issue := x.issue.getD 0
  if s.issueOpen c.who.gid issue c.who.g then s.lStall c .none 0
  else
    let gone := (s.net.filter fun y => y.2.gid = c.who.gid && y.2.issue = issue).flatMap (fun y => y.2.covers) ++
      (s.copies.filter fun y => y.2.perLane && y.2.gid = c.who.gid && y.2.issue = issue).map fun y => y.2.lane
    let w := (s.rejections c.who.gid issue p).foldl (fun b y => if y.1 < b.1 then y else b) (p.lane, p.code, p.ea)
    let s1 := match aget s.reqs (issue + 1) with
      | some q => if q.gid = c.who.gid && q.atomic && q.lpc = c.pc then s.faultProducer (issue + 1) else s
      | none => s
    match aget s1.groups c.who.gid with
    | none => .next s1
    | some g => s1.laneFault c (g.setGang { x with pend := none }) w.2.1 0 w.2.2 (x.done &&& ~~~laneMask gone) x.done

/-- The block ends when every slice is done (R170): the queue entry goes, and at-end lanes stand at depth 0 for the next block. -/
def State.endBlock (s : State) (gid : Nat) (g : Group) : State :=
  if g.slices.all fun p => p.2.isEmpty then
    match g.block with
    | some b => { (s.setGroup gid { g with block := none, lq := g.lq.filter (· ≠ b.cmd), slices := [], gangs := [] }) with
        cmds := adel s.cmds b.cmd }
    | none => s.setGroup gid { g with slices := [] }
  else s.setGroup gid g

/-- The group after the sub-gang's lanes have moved by `nxt` (R167). -/
def Group.moveGang (g : Group) (c : LaneCtx) (nxt : Nat → Option (Word × Nat)) : Group :=
  { g with
    slices := g.slices.map fun p => if c.slices.contains p.1 then (p.1, moveSlice p.1 nxt p.2) else p
    waits := adel g.waits (laneWaitKey c.pc c.depth)
    gangs := g.gangs.filter fun x => !(x.pc = c.pc && x.depth = c.depth) }

/-- The sub-gang has issued and its lanes move by `nxt`; the block ends if every slice is done. -/
def State.laneMove (s : State) (c : LaneCtx) (g : Group) (nxt : Nat → Option (Word × Nat)) : Out :=
  .next (s.endBlock c.who.gid (g.moveGang c nxt))

/-- The sub-gang has issued and every lane goes on at the next instruction. -/
def State.laneNext (s : State) (c : LaneCtx) (g : Group) : Out :=
  s.laneMove c g fun _ => some (c.pc + 1, c.depth)

/-- The block of the group runs: no trap has stopped it. -/
def Group.runs (g : Group) : Bool :=
  match g.block with
  | some b => !b.stopped
  | none => false

/-- The sub-gangs of the core that issue in this cycle, with those of group `gid` added (R108). -/
def State.joinSet (s : State) (k : CoreKey) (gid : Nat) (mask : BitVec 16) : State :=
  s.modCore k fun x => if x.laneCycle = some s.cycle then { x with laneSlices := x.laneSlices ||| mask, laneGroups := gid :: x.laneGroups }
    else { x with laneCycle := some s.cycle, laneSlices := mask, laneGroups := [gid] }

/-- The sub-gang may join the set of this cycle ahead of what has not been tried (R108, R109): it is the first of its group, its slices
are free, and no older group whose block runs needs one of them. -/
def State.mayJoin (s : State) (w : Who) (pc : Word) (depth : Nat) : Bool :=
  let x := s.core w.core
  let now := x.laneCycle = some s.cycle
  let mask := w.g.gangMask (w.g.gang pc depth)
  w.g.gangsInOrder.head? = some (pc, depth) && (!now || (x.laneSlices &&& mask = 0 && !x.laneGroups.contains w.gid)) &&
    ((s.groupsOn w.core).takeWhile fun p => p.1 ≠ w.gid).all fun p =>
      !p.2.runs || (now && x.laneGroups.contains p.1) || p.2.gangMask (p.2.slices.map (·.1)) &&& mask = 0

/-- What a lane instruction needs of registers: lane registers written, read whatever the fe bits hold, read as sources A, B and C,
and a scalar destination; `gather` waits until the group's slices have come together (R202); `illegal` finds what only the group shows to be illegal,
which comes before an empty operand (R164). -/
structure Need where
  dst : List Nat := []
  keep : List Nat := []
  a : List Nat := []
  b : List Nat := []
  c : List Nat := []
  sdst : List SReg := []
  gather : Bool := false
  illegal : LaneCtx → Bool := fun _ => false

/-- The lane registers of a source: one, or a pair. -/
def srcRegs (sel : Sel) (r : VReg) (wide : Bool) : List Nat :=
  match sel with
  | .vec => if wide then [r.toNat, r.toNat + 1] else [r.toNat]
  | _ => []

/-- A register and, for a pair, the next one. -/
def regs1 (r : VReg) (wide : Bool) : List Nat := if wide then [r.toNat, r.toNat + 1] else [r.toNat]

/-- The scalar register of a broadcast source. -/
def scalarSrc (sel : Sel) (r : VReg) : List SReg := if sel = .scalar then [r.setWidth 6] else []

/-- The sources of one operand are full. -/
def Group.srcFull (g : Group) (vs : List Nat) (ss : List SReg) : Bool := vs.all g.vfull && ss.all g.sfull

/-- A predicate write of one of these lanes has not completed: a now-mode `ldb` that has not landed (R163, R319). -/
def State.predPending (s : State) (gid : Nat) (ls : List Nat) : Bool :=
  s.reqs.any fun x => x.2.gid = gid && !x.2.faulted && (match x.2.dst with
    | .lanes _ _ _ (some _) => (x.2.zeros.any ls.contains) || x.2.parts.any fun p => ls.contains p.lane
    | _ => false)

/-- A lane instruction of the issuing sub-gang (R87, R103, R108): the stream position, a fault that waits for the answers of the lanes sent (R237),
the earlier predicate writes (R163), the register limits, the full/empty rules, then `body`. An instruction whose `.t` source is empty while no lane
performs goes by without a body: it draws no random bits (R87, R123, log 89). -/
def laneIssue (s : State) (f : LF) (n : Need) (body : LaneCtx → Out) : Out :=
  match s.cur with
  | some { gid := gid, sub := some (pc, depth), .. } =>
    match s.who gid with
    | none => .fault .noIssuer
    | some w =>
      let g := w.g
      let slices := g.gang pc depth
      let lanes := g.gangLanes slices
      let act := lanes.filter fun l => guardHolds f.guard (g.lane l)
      let c : LaneCtx := { who := w, pc := pc, depth := depth, slices := slices, lanes := lanes, act := act }
      if lanes.isEmpty then .fault .noIssuer
      else match (g.gangRec pc depth).pend with
      | some p => s.pendStep c p
      | none =>
      if s.predPending gid lanes then s.lStall c .none 0
      else if (n.dst ++ n.keep ++ n.a ++ n.b ++ n.c).any fun k => w.lrec.regsAlloc ≤ k then s.laneTrap c 0x01 0 0
      else if n.illegal c then s.laneTrap c 0x01 0 0
      else if n.gather && !c.gathered then s.lStall c .barrier 0
      else
        let fullA := g.srcFull n.a []
        let fullB := g.srcFull n.b (scalarSrc f.bsel f.b)
        let fullC := g.srcFull n.c (scalarSrc f.csel f.c)
        if !(n.dst.all g.vfull && n.keep.all g.vfull && n.sdst.all (s.dstReady gid g)) || (!fullA && !f.feA) || (!fullB && !f.feB) ||
            (!fullC && !f.feC) then s.lStall c .barrier 0
        else if !fullA || !fullB || !fullC then
          (if act.isEmpty then s.laneNext c g else s.laneTrap c 0x02 0 0)
        else body c
  | _ => .fault .noIssuer

/-- An acquiring load or atomic of one of the lanes has not landed: nothing after it is performed (R299). -/
def State.laneAcqPending (s : State) (gid : Nat) (ls : List Nat) : Bool :=
  s.reqs.any fun x => x.2.gid = gid && x.2.lane && x.2.acquire.isSome && !x.2.faulted && x.2.parts.any fun p => ls.contains p.lane

/-- As `laneIssue`, for an instruction that accesses memory or a barrier. -/
def laneAccess (s : State) (f : LF) (n : Need) (body : LaneCtx → Out) : Out :=
  laneIssue s f n fun c => if s.laneAcqPending c.who.gid c.act then s.lStall c .none 0 else body c

/-! ## Operand values -/

/-- Source A as 32 bits. -/
def LaneCtx.a32 (c : LaneCtx) (f : LF) (l : Nat) : Word := (c.who.g.lane l).get f.a.toNat

/-- Source A as a pair. -/
def LaneCtx.a64 (c : LaneCtx) (f : LF) (l : Nat) : DWord := (c.who.g.lane l).getPair f.a.toNat

/-- A selected source as 32 bits (R99). -/
def LaneCtx.sel32 (c : LaneCtx) (sel : Sel) (r : VReg) (f : LF) (l : Nat) : Word :=
  match sel with
  | .vec => (c.who.g.lane l).get r.toNat
  | .scalar => (c.who.g.sget (r.setWidth 6)).setWidth 32
  | .imm => f.w2

/-- A selected source as 64 bits: a pair, a whole scalar, or the sign-extended immediate (R174, R176). -/
def LaneCtx.sel64 (c : LaneCtx) (sel : Sel) (r : VReg) (f : LF) (l : Nat) : DWord :=
  match sel with
  | .vec => (c.who.g.lane l).getPair r.toNat
  | .scalar => c.who.g.sget (r.setWidth 6)
  | .imm => f.w2.signExtend 64

/-- Source B as 32 bits. -/
def LaneCtx.b32 (c : LaneCtx) (f : LF) (l : Nat) : Word := c.sel32 f.bsel f.b f l
/-- Source C as 32 bits. -/
def LaneCtx.c32 (c : LaneCtx) (f : LF) (l : Nat) : Word := c.sel32 f.csel f.c f l
/-- Source B as 64 bits. -/
def LaneCtx.b64 (c : LaneCtx) (f : LF) (l : Nat) : DWord := c.sel64 f.bsel f.b f l
/-- Source C as 64 bits. -/
def LaneCtx.c64 (c : LaneCtx) (f : LF) (l : Nat) : DWord := c.sel64 f.csel f.c f l

/-- The needs of an instruction that writes v[d] from sources A, B and C as used; `wd`, `wa`, `wb`, `wc` mark pairs. -/
def needOf (f : LF) (u : Uses) (wd wa wb wc : Bool) : Need :=
  { dst := if u.d then regs1 f.d wd else []
    a := if u.a then regs1 f.a wa else []
    b := if u.b then srcRegs f.bsel f.b wb else []
    c := if u.c then srcRegs f.csel f.c wc else [] }

/-- A lane instruction that writes 32 bits to v[d] of every active lane. -/
def laneWrite (s : State) (f : LF) (n : Need) (fn : LaneCtx → Nat → Word) : Out :=
  laneIssue s f n fun c => s.laneNext c (c.who.g.mapLanes c.act fun l x => x.put f.d.toNat (fn c l))

/-- A lane instruction that writes the pair v[d], v[d+1] of every active lane. -/
def laneWrite64 (s : State) (f : LF) (n : Need) (fn : LaneCtx → Nat → DWord) : Out :=
  laneIssue s f n fun c => s.laneNext c (c.who.g.mapLanes c.act fun l x => x.putPair f.d.toNat (fn c l))

/-- A lane instruction that writes predicate p[k] of every active lane. -/
def lanePred (s : State) (f : LF) (n : Need) (k : Nat) (fn : LaneCtx → Nat → Bool) : Out :=
  laneIssue s f n fun c => s.laneNext c (c.who.g.mapLanes c.act fun l x => x.pput k (fn c l))

end Sys2Proof.Machine
end

