-- ==== Sys2Proof/Machine/SAlu.lean ====
section
/-!
DEFINITION. Scalar integer arithmetic and logic (R136, R137) and the immediate forms (R138).
-/
namespace Sys2Proof.Machine

/-! ## The operations OP(x, y, w) of R136 -/

/-- High half of the signed product. -/
def mulHighI {w : Nat} (x y : BitVec w) : BitVec w := BitVec.ofInt w (x.toInt * y.toInt / (2 ^ w : Nat))

/-- High half of the unsigned product. -/
def mulHighN {w : Nat} (x y : BitVec w) : BitVec w := BitVec.ofNat w (x.toNat * y.toNat / 2 ^ w)

/-- Signed quotient rounded toward zero; division by zero gives all ones. -/
def divSigned {w : Nat} (x y : BitVec w) : BitVec w :=
  if y.toNat = 0 then BitVec.allOnes w else BitVec.ofInt w (x.toInt.tdiv y.toInt)

/-- Unsigned quotient; division by zero gives all ones. -/
def divUnsigned {w : Nat} (x y : BitVec w) : BitVec w :=
  if y.toNat = 0 then BitVec.allOnes w else BitVec.ofNat w (x.toNat / y.toNat)

/-- Signed remainder with the dividend's sign; division by zero gives the dividend. -/
def remSigned {w : Nat} (x y : BitVec w) : BitVec w :=
  if y.toNat = 0 then x else BitVec.ofInt w (x.toInt.tmod y.toInt)

/-- Unsigned remainder; division by zero gives the dividend. -/
def remUnsigned {w : Nat} (x y : BitVec w) : BitVec w :=
  if y.toNat = 0 then x else BitVec.ofNat w (x.toNat % y.toNat)

/-- Shift amounts are taken modulo the width. -/
def shlMod {w : Nat} (x y : BitVec w) : BitVec w := x <<< (y.toNat % w)
def shrMod {w : Nat} (x y : BitVec w) : BitVec w := x >>> (y.toNat % w)
def sraMod {w : Nat} (x y : BitVec w) : BitVec w := x.sshiftRight (y.toNat % w)

def minSigned {w : Nat} (x y : BitVec w) : BitVec w := if x.toInt < y.toInt then x else y
def maxSigned {w : Nat} (x y : BitVec w) : BitVec w := if x.toInt < y.toInt then y else x
def minUnsigned {w : Nat} (x y : BitVec w) : BitVec w := if x.toNat < y.toNat then x else y
def maxUnsigned {w : Nat} (x y : BitVec w) : BitVec w := if x.toNat < y.toNat then y else x

/-- 1 or 0. -/
def bit01 {w : Nat} (b : Bool) : BitVec w := BitVec.ofNat w b.toNat

/-- The number of one bits. -/
def popCount {w : Nat} (x : BitVec w) : Nat := (List.range w).countP fun i => x.getLsbD i

/-- The number of leading zero bits. -/
def leadingZeros {w : Nat} (x : BitVec w) : Nat := if x.toNat = 0 then w else w - 1 - Nat.log2 x.toNat

/-! ## The two forms -/

/-- An ALU instruction with two sources (R136): 64-bit form, or 32-bit form with the result sign-extended. -/
def alu2 (s : State) (w : Bool) (d a b : SReg) (op : {n : Nat} → BitVec n → BitVec n → BitVec n) : Out :=
  sIssue s [a, b, d] fun gid g =>
    sWrite s gid g d (if w then (op ((g.sget a).setWidth 32) ((g.sget b).setWidth 32)).signExtend 64 else op (g.sget a) (g.sget b))

/-- An ALU instruction with one source. -/
def alu1 (s : State) (w : Bool) (d a : SReg) (op : {n : Nat} → BitVec n → BitVec n) : Out :=
  sIssue s [a, d] fun gid g =>
    sWrite s gid g d (if w then (op ((g.sget a).setWidth 32)).signExtend 64 else op (g.sget a))

def execAdd (w : Bool) (d a b : SReg) (s : State) : Out := alu2 s w d a b fun x y => x + y
def execSub (w : Bool) (d a b : SReg) (s : State) : Out := alu2 s w d a b fun x y => x - y
def execMul (w : Bool) (d a b : SReg) (s : State) : Out := alu2 s w d a b fun x y => x * y
def execMulhI (w : Bool) (d a b : SReg) (s : State) : Out := alu2 s w d a b mulHighI
def execMulhN (w : Bool) (d a b : SReg) (s : State) : Out := alu2 s w d a b mulHighN
def execDivI (w : Bool) (d a b : SReg) (s : State) : Out := alu2 s w d a b divSigned
def execDivN (w : Bool) (d a b : SReg) (s : State) : Out := alu2 s w d a b divUnsigned
def execRemI (w : Bool) (d a b : SReg) (s : State) : Out := alu2 s w d a b remSigned
def execRemN (w : Bool) (d a b : SReg) (s : State) : Out := alu2 s w d a b remUnsigned
def execAnd (w : Bool) (d a b : SReg) (s : State) : Out := alu2 s w d a b fun x y => x &&& y
def execOr (w : Bool) (d a b : SReg) (s : State) : Out := alu2 s w d a b fun x y => x ||| y
def execXor (w : Bool) (d a b : SReg) (s : State) : Out := alu2 s w d a b fun x y => x ^^^ y
def execAndn (w : Bool) (d a b : SReg) (s : State) : Out := alu2 s w d a b fun x y => x &&& ~~~y
def execShl (w : Bool) (d a b : SReg) (s : State) : Out := alu2 s w d a b shlMod
def execShr (w : Bool) (d a b : SReg) (s : State) : Out := alu2 s w d a b shrMod
def execSra (w : Bool) (d a b : SReg) (s : State) : Out := alu2 s w d a b sraMod
def execMinI (w : Bool) (d a b : SReg) (s : State) : Out := alu2 s w d a b minSigned
def execMaxI (w : Bool) (d a b : SReg) (s : State) : Out := alu2 s w d a b maxSigned
def execMinN (w : Bool) (d a b : SReg) (s : State) : Out := alu2 s w d a b minUnsigned
def execMaxN (w : Bool) (d a b : SReg) (s : State) : Out := alu2 s w d a b maxUnsigned
def execSltI (w : Bool) (d a b : SReg) (s : State) : Out := alu2 s w d a b fun x y => bit01 (x.toInt < y.toInt)
def execSltN (w : Bool) (d a b : SReg) (s : State) : Out := alu2 s w d a b fun x y => bit01 (x.toNat < y.toNat)
def execSeq (w : Bool) (d a b : SReg) (s : State) : Out := alu2 s w d a b fun x y => bit01 (x = y)
def execClz (w : Bool) (d a : SReg) (s : State) : Out := alu1 s w d a fun x => BitVec.ofNat _ (leadingZeros x)
def execPopc (w : Bool) (d a : SReg) (s : State) : Out := alu1 s w d a fun x => BitVec.ofNat _ (popCount x)

/-! ## Immediate forms (R138) -/

/-- An instruction that writes s[d] from s[a] alone. -/
def unary (s : State) (d a : SReg) (op : DWord → DWord) : Out :=
  sIssue s [a, d] fun gid g => sWrite s gid g d (op (g.sget a))

def execAddi (d a : SReg) (imm : BitVec 14) (s : State) : Out := unary s d a fun x => x + imm.signExtend 64
def execAndi (d a : SReg) (imm : BitVec 14) (s : State) : Out := unary s d a fun x => x &&& imm.signExtend 64
def execOri (d a : SReg) (imm : BitVec 14) (s : State) : Out := unary s d a fun x => x ||| imm.signExtend 64
def execXori (d a : SReg) (imm : BitVec 14) (s : State) : Out := unary s d a fun x => x ^^^ imm.signExtend 64
def execShli (d a : SReg) (n : BitVec 6) (s : State) : Out := unary s d a fun x => x <<< n.toNat
def execShri (d a : SReg) (n : BitVec 6) (s : State) : Out := unary s d a fun x => x >>> n.toNat
def execSrai (d a : SReg) (n : BitVec 6) (s : State) : Out := unary s d a fun x => x.sshiftRight n.toNat
def execRotli (d a : SReg) (n : BitVec 6) (s : State) : Out := unary s d a fun x => rotl64 x n.toNat
def execSlti (d a : SReg) (imm : BitVec 14) (s : State) : Out :=
  unary s d a fun x => bit01 (x.toInt < (imm.signExtend 64).toInt)

/-- `lui`: no source. -/
def execLui (d : SReg) (imm : BitVec 20) (s : State) : Out :=
  sIssue s [d] fun gid g => sWrite s gid g d (imm.signExtend 64 <<< 12)

/-- `lhi`: s[d] is a source too. -/
def execLhi (d : SReg) (imm : BitVec 20) (s : State) : Out :=
  unary s d d fun x => (x &&& 0x00000FFFFFFFFFFF) ||| (imm.setWidth 64 <<< 44)

end Sys2Proof.Machine
end

