-- ==== Sys2Proof/Machine/LInt.lean ====
section
/-!
DEFINITION. Lane integer instructions (R171 to R177).
-/
namespace Sys2Proof.Machine

/-! ## Types, elements and saturation (R116, R173) -/

/-- The 32-bit value of a type: signed for i32, unsigned otherwise. -/
def intOf (ty : LTy) (w : Word) : Int := if ty = .i32 then w.toInt else w.toNat

/-- An 8-bit element of a packed type: signed for i8x4. -/
def elem8 (ty : LTy) (w : Word) (e : Nat) : Int :=
  let b : Byte := BitVec.ofNat 8 (w.toNat / 2 ^ (8 * e))
  if ty = .i8x4 then b.toInt else b.toNat

/-- Four elements packed, each reduced modulo 2^8. -/
def pack8 (f : Nat → Int) : Word :=
  let b := fun e => BitVec.ofInt 8 (f e)
  b 3 ++ b 2 ++ b 1 ++ b 0

/-- The range of a type (R173). -/
def tyRange : LTy → Int × Int
  | .i8x4 => (-128, 127)
  | .n8x4 => (0, 255)
  | .i32 => (-2147483648, 2147483647)
  | _ => (0, 4294967295)

/-- Clamped to the range of the type when SAT. -/
def satTo (ty : LTy) (sat : Bool) (v : Int) : Int := if sat then max (tyRange ty).1 (min (tyRange ty).2 v) else v

/-- An operation on 32-bit values or on packed elements (R172). -/
def typed2 (ty : LTy) (sat : Bool) (op : Int → Int → Int) (a b : Word) : Word :=
  match ty with
  | .i8x4 | .n8x4 => pack8 fun e => satTo ty sat (op (elem8 ty a e) (elem8 ty b e))
  | _ => BitVec.ofInt 32 (satTo ty sat (op (intOf ty a) (intOf ty b)))

/-- mod5[0]. -/
def satBit (f : LF) : Bool := f.mod5.getLsbD 0

/-! ## Shapes -/

/-- v[d] from A and B. -/
def lane2 (s : State) (f : LF) (op : Word → Word → Word) : Out :=
  laneWrite s f (needOf f { d := true, a := true, b := true } false false false false) fun c l => op (c.a32 f l) (c.b32 f l)

/-- v[d] from A. -/
def lane1 (s : State) (f : LF) (op : Word → Word) : Out :=
  laneWrite s f (needOf f { d := true, a := true } false false false false) fun c l => op (c.a32 f l)

/-- v[d] from A, B and C. -/
def lane3 (s : State) (f : LF) (op : Word → Word → Word → Word) : Out :=
  laneWrite s f (needOf f { d := true, a := true, b := true, c := true } false false false false)
    fun c l => op (c.a32 f l) (c.b32 f l) (c.c32 f l)

def execLAdd (f : LF) (s : State) : Out := lane2 s f (typed2 f.ty (satBit f) fun x y => x + y)
def execLSub (f : LF) (s : State) : Out := lane2 s f (typed2 f.ty (satBit f) fun x y => x - y)
def execLMul (f : LF) (s : State) : Out := lane2 s f fun x y => x * y
def execLMulhi (f : LF) (s : State) : Out := lane2 s f fun x y => BitVec.ofInt 32 (intOf f.ty x * intOf f.ty y / 4294967296)
def execLMad (f : LF) (s : State) : Out := lane3 s f fun x y z => x * y + z
def execLAnd (f : LF) (s : State) : Out := lane2 s f fun x y => x &&& y
def execLOr (f : LF) (s : State) : Out := lane2 s f fun x y => x ||| y
def execLXor (f : LF) (s : State) : Out := lane2 s f fun x y => x ^^^ y
def execLAndn (f : LF) (s : State) : Out := lane2 s f fun x y => x &&& ~~~y
def execLShl (f : LF) (s : State) : Out := lane2 s f shlMod
def execLShr (f : LF) (s : State) : Out := lane2 s f fun x y => if f.ty = .i32 then sraMod x y else shrMod x y
def execLRotl (f : LF) (s : State) : Out := lane2 s f fun x y => x.rotateLeft (y.toNat % 32)
def execLMin (f : LF) (s : State) : Out := lane2 s f (typed2 f.ty false min)
def execLMax (f : LF) (s : State) : Out := lane2 s f (typed2 f.ty false max)
def execLAbs (f : LF) (s : State) : Out := lane1 s f fun x => typed2 f.ty (satBit f) (fun y _ => (y.natAbs : Int)) x x
def execLPopc (f : LF) (s : State) : Out := lane1 s f fun x => w32 (popCount x)
def execLClz (f : LF) (s : State) : Out := lane1 s f fun x => w32 (leadingZeros x)
def execLBrev (f : LF) (s : State) : Out := lane1 s f fun x => w32 (maskOf 32 fun i => x.getLsbD (31 - i))
def execLDiv (f : LF) (s : State) : Out := lane2 s f fun x y => if f.ty = .i32 then divSigned x y else divUnsigned x y
def execLRem (f : LF) (s : State) : Out := lane2 s f fun x y => if f.ty = .i32 then remSigned x y else remUnsigned x y

/-! ## madw, dp4, bfe, bfi -/

/-- An extension of 32 bits to 64 by the type (R174). -/
def extend64 (ty : LTy) (w : Word) : DWord := if ty = .i32 then w.signExtend 64 else w.setWidth 64

/-- `madw` (R174): an immediate C is extended as A is. -/
def execLMadw (f : LF) (s : State) : Out :=
  laneWrite64 s f (needOf f { d := true, a := true, b := true, c := true } true false false true) fun c l =>
    let z := if f.csel = .imm then extend64 f.ty f.w2 else c.c64 f l
    extend64 f.ty (c.a32 f l) * extend64 f.ty (c.b32 f l) + z

/-- `dp4` (R174): the exact sum, wrapped or clamped to i32 or n32. -/
def dp4 (ty : LTy) (sat : Bool) (a b c : Word) : Word :=
  let wide : LTy := if ty = .i8x4 then .i32 else .n32
  let sum := (List.range 4).foldl (fun acc e => acc + elem8 ty a e * elem8 ty b e) (intOf wide c)
  BitVec.ofInt 32 (satTo wide sat sum)

def execLDp4 (f : LF) (s : State) : Out := lane3 s f (dp4 f.ty (satBit f))

/-- pos and len of `bfe` and `bfi` (R175). -/
def fieldOf (b c : Word) : Nat × Nat :=
  let pos := b.toNat % 32
  (pos, min (c.toNat % 64) (32 - pos))

def execLBfe (f : LF) (s : State) : Out :=
  lane3 s f fun x y z =>
    let p := fieldOf y z
    let v := x.toNat / 2 ^ p.1 % 2 ^ p.2
    if p.2 = 0 then 0 else if f.ty = .i32 then BitVec.ofInt 32 (sextI v p.2) else w32 v

/-- Bits [pos + len - 1 : pos] of `old` replaced. -/
def insertField (old x : Word) (pos len : Nat) : Word :=
  let m := w32 ((2 ^ len - 1) * 2 ^ pos)
  (old &&& ~~~m) ||| ((x <<< pos) &&& m)

/-- `bfi` reads v[d] too, whatever the fe bits hold (R175). -/
def execLBfi (f : LF) (s : State) : Out :=
  let n := needOf f { d := true, a := true, b := true, c := true } false false false false
  laneIssue s f n fun c => s.laneNext c (c.who.g.mapLanes c.act fun l x =>
    let p := fieldOf (c.b32 f l) (c.c32 f l)
    x.put f.d.toNat (insertField (x.get f.d.toNat) (c.a32 f l) p.1 p.2))

/-! ## mov, sel, sreg -/

def execLMov (f : LF) (s : State) : Out :=
  if f.ty = .b64 then laneWrite64 s f (needOf f { d := true, b := true } true false true false) fun c l => c.b64 f l
  else laneWrite s f (needOf f { d := true, b := true } false false false false) fun c l => c.b32 f l

/-- A predicate index in W2. -/
def pField (f : LF) (lo : Nat) : Nat := bitsOf f.w2.toNat (lo + 4) lo

def execLSel (f : LF) (s : State) : Out :=
  let k := pField f 5
  if f.ty = .b64 then
    laneWrite64 s f (needOf f { d := true, a := true, b := true } true true true false) fun c l =>
      if (c.who.g.lane l).pget k then c.a64 f l else c.b64 f l
  else
    laneWrite s f (needOf f { d := true, a := true, b := true } false false false false) fun c l =>
      if (c.who.g.lane l).pget k then c.a32 f l else c.b32 f l

/-- The mask of a group's lanes that are not exited. -/
def Group.liveMask (g : Group) : Nat := maskOf 64 fun l => (g.lane l).life ≠ .exited

/-- A lane context value (R177). -/
def laneContext (c : LaneCtx) (now : Nat) (code l : Nat) : Word :=
  match code with
  | 0 => w32 l
  | 1 => w32 c.who.g.width
  | 2 => w32 (l / 4)
  | 3 => w32 c.depth
  | 4 => if (c.who.g.lane l).life = .demoted then 1 else 0
  | 5 => w32 c.who.g.liveMask
  | 6 => w32 (c.who.g.liveMask / 2 ^ 32)
  | 7 => w32 now
  | 8 => w32 c.who.g.idx
  | 9 => w32 (c.who.g.idx * c.who.g.width + l)
  | _ => w32 c.who.team.live

def execLSreg (f : LF) (s : State) : Out :=
  laneWrite s f (needOf f { d := true } false false false false) fun c l => laneContext c s.cycle f.mod5.toNat l

end Sys2Proof.Machine
end

