-- ==== Sys2Proof/Machine/LCtl.lean ====
section
/-!
DEFINITION. Lane control flow (R181 to R186), barriers (R291, R292) and fences (R293), the trap of an illegal lane instruction (R105),
and the place of lane instructions in the quarantine and the region (R378, R383, R386).
-/
namespace Sys2Proof.Machine

/-! ## Quarantine of lane instructions -/

/-- The ordinal of lane `l`'s next side-effecting instruction (R383). -/
def Region.nextL (r : Region) (l : Nat) : Nat := (aget r.lOrd l).getD 0 + 1

/-- The lanes of a side-effecting instruction take their ordinals; those that its region has released already do not perform it again
(R386). -/
def Group.countLanes (g : Group) (ls : List Nat) : Group × List Nat :=
  match g.region with
  | none => (g, ls)
  | some r =>
    ({ g with region := some { r with lOrd := ls.foldl (fun t l => aset t l (r.nextL l)) r.lOrd } },
     ls.filter fun l => !r.performed (l + 1) (r.nextL l))

/-- Effects of lanes entered in the quarantine, with the ordinals that the lanes have taken (R383). -/
def Group.quarLanes (g : Group) (now : Nat) (ls : List Nat) (es : List Effect) : Group :=
  if es.isEmpty && ls.isEmpty then g
  else
    match g.region with
    | none => { g with quar := g.quar ++ [{ at_ := now, effects := es, lanes := ls, sinceOpen := false }] }
    | some r =>
      let ord := fun l => (aget r.lOrd l).getD 0
      let effects := es.map fun e => e.withOrds fun m => m.covers.map fun l => (l + 1, ord l)
      { g with quar := g.quar ++ [{ at_ := now, effects := effects, lanes := ls, lOrdinals := ls.map fun l => (l, ord l) }] }

/-- No quarantined effect of these lanes. -/
def Group.laneQuarEmpty (g : Group) (ls : List Nat) : Bool := g.quar.all fun q => q.lanes.all fun l => !ls.contains l

/-- The lane producers of a group that serve one of these lanes. -/
def State.laneReqs (s : State) (gid : Nat) (ls : List Nat) : List Nat :=
  (s.reqs.filter fun p => p.2.gid = gid && p.2.lane && p.2.parts.any fun x => ls.contains x.lane).map (·.1)

/-- The earlier reads of these lanes have been performed (R299). -/
def State.laneReadsDone (s : State) (gid : Nat) (ls : List Nat) : Bool :=
  (s.laneReqs gid ls).all fun i => match aget s.reqs i with
    | some q => q.parts.all fun x => !ls.contains x.lane || x.settled
    | none => true

/-! ## Control -/

/-- The fields of an instruction without operands. -/
def lfNone : LF :=
  { guard := .always, feA := false, feB := false, feC := false, ty := .b32, bsel := .vec, csel := .vec, mod5 := 0
    d := 0, a := 0, b := 0, c := 0, w2 := 0 }

/-- The trap of a lane instruction that matches no instruction or breaks a field rule (R105). -/
def execIllegalLaneInstruction (_w0 _w1 _w2 : Word) (s : State) : Out := laneIssue s lfNone {} fun c => s.laneTrap c 0x01 0 0

/-- The performing lanes go to `t` at depth `d`, the others go on. -/
def LaneCtx.goto (c : LaneCtx) (t : Nat → Word) (d : Nat) (l : Nat) : Option (Word × Nat) :=
  if c.act.contains l then some (t l, d) else some (c.pc + 1, c.depth)

/-- A relative target (R181). -/
def LaneCtx.target (c : LaneCtx) (f : LF) : Word := c.pc + f.w2

def execLBra (f : LF) (s : State) : Out := laneIssue s f {} fun c => s.laneMove c c.who.g (c.goto (fun _ => c.target f) c.depth)

/-- The return offset written to v[d] of the performing lanes. -/
def LaneCtx.linked (c : LaneCtx) (f : LF) : Group := c.who.g.mapLanes c.act fun _ x => x.put f.d.toNat (c.pc + 1)

/-- The call depth limits (R168). -/
def LaneCtx.tooDeep (c : LaneCtx) : Bool := c.depth = 63 && !c.act.isEmpty

def execLCall (f : LF) (s : State) : Out :=
  laneIssue s f { dst := [f.d.toNat] } fun c =>
    if c.tooDeep then s.laneTrap c 0x04 0 0
    else s.laneMove c (c.linked f) (c.goto (fun _ => c.target f) (c.depth + 1))

def execLRet (f : LF) (s : State) : Out :=
  laneIssue s f { a := [f.a.toNat] } fun c =>
    if c.depth = 0 && !c.act.isEmpty then s.laneTrap c 0x04 0 0
    else s.laneMove c c.who.g (c.goto (c.a32 f) (c.depth - 1))

/-- The L dispatch table read for lanes with their indices (R21): targets, a fault, or a wait at an address. -/
def State.fetchEntries (s : State) (w : Who) : List (Nat × Nat) → Except (Option (BitVec 8) × DWord) (Tbl Word)
  | [] => .ok []
  | (l, ix) :: rest =>
    let va := dw (w.lrec.ldtab.toNat + 4 * ix)
    match s.fetchWord w.core w.ctx s.keeping va with
    | .wait => .error (none, va)
    | .bad code addr => .error (some code, addr)
    | .word e =>
      match s.fetchEntries w rest with
      | .error x => .error x
      | .ok t => .ok ((l, e) :: t)

/-- Dispatch through the L table (R182): range check of every performing lane, the depth check, the entries, then `go`. -/
def lDispatch (s : State) (f : LF) (n : Need) (deep : Bool) (go : State → LaneCtx → (Nat → Word) → Out) : Out :=
  laneIssue s f n fun c =>
    let ix := fun l => (c.a32 f l).toNat
    match c.act.find? fun l => c.who.lrec.ldlen ≤ ix l with
    | some l => s.laneTrap c 0x03 0 (dw (ix l))
    | none =>
      if deep && c.tooDeep then s.laneTrap c 0x04 0 0
      else match s.fetchEntries c.who (c.act.map fun l => (l, ix l)) with
        | .error (none, va) => (s.askRemote c.who.gid c.who.core c.who.ctx va).lStall c .none 0
        | .error (some code, addr) => (s.noteWorld code).laneTrap c code 0 addr
        | .ok t =>
          let kept := c.act.foldl (fun st l =>
            st.keepIf s.keeping c.who.core c.who.ctx (dw (c.who.lrec.ldtab.toNat + 4 * ix l)) ((aget t l).getD 0)) s
          go kept c fun l => (aget t l).getD 0

def execLDcall (f : LF) (s : State) : Out :=
  lDispatch s f { dst := [f.d.toNat], a := [f.a.toNat] } true fun st c t =>
    st.laneMove c (c.linked f) (c.goto t (c.depth + 1))

def execLDjmp (f : LF) (s : State) : Out :=
  lDispatch s f { a := [f.a.toNat] } false fun st c t => st.laneMove c c.who.g (c.goto t c.depth)

/-- The performing lanes leave their states, the others go on. -/
def LaneCtx.leave (c : LaneCtx) (l : Nat) : Option (Word × Nat) := if c.act.contains l then none else some (c.pc + 1, c.depth)

def execLLend (f : LF) (s : State) : Out :=
  laneIssue s f {} fun c => s.laneMove c (c.who.g.mapLanes c.act fun _ x => { x with atEnd := true }) c.leave

/-- Demotion of a lane: only a live lane changes (R182). -/
def Life.demote : Life → Life
  | .live => .demoted
  | x => x

def execLDemote (f : LF) (s : State) : Out :=
  laneIssue s f {} fun c => s.laneNext c (c.who.g.mapLanes c.act fun _ x => { x with life := x.life.demote })

/-- LIVE falls by `n`, and the team's live barriers are tested (R166, R284). -/
def State.lowerLive (s : State) (t n : Nat) : State :=
  if n = 0 then s else s.barUpdate t fun x st => { x with live := x.live - n }.testLive s.cycle st

def execLExit (f : LF) (s : State) : Out :=
  laneIssue s f {} fun c =>
    (s.lowerLive c.who.g.team c.act.length).laneMove c
      (c.who.g.mapLanes c.act fun _ x => { x with life := .exited }) c.leave

def execLNop (f : LF) (s : State) : Out := laneIssue s f {} fun c => s.laneNext c c.who.g

/-- `trap` (R185): no effect when no lane performs. -/
def execLTrap (f : LF) (s : State) : Out :=
  laneIssue s f { a := [f.a.toNat] } fun c =>
    match c.act with
    | [] => s.laneNext c c.who.g
    | l :: _ => s.laneTrap c 0x0C 0 ((c.a32 f l).setWidth 64)

/-- `regang` (R186): the sub-gang waits for the others or for n cycles, then goes on. -/
def execLRegang (f : LF) (s : State) : Out :=
  laneIssue s f {} fun c =>
    let x := c.who.g.gangRec c.pc c.depth
    let until_ := x.regang.getD (s.cycle + f.w2.toNat)
    if c.gathered || until_ ≤ s.cycle then s.laneNext c c.who.g
    else (s.setGroup c.who.gid (c.who.g.setGang { x with regang := some until_ })).lStall c .none 0

/-- `rgn` (R185, R380): the group must be one sub-gang; both streams are held, an S word that has begun ending first, while one that only waits
goes on waiting; `rgnCheckpoint` opens the region. Stage 0 waits for the producers, stage 1 counts the cycles without a strike. -/
def execLRgn (f : LF) (s : State) : Out :=
  laneIssue s f {} fun c =>
    let g := c.who.g
    if !c.who.lrec.rgn then s.laneTrap c 0x01 0 0
    else if !c.gathered then s.laneTrap c 0x04 0 0
    else if g.inWord then s.lStall c .none 0
    else match g.lrgn with
      | none =>
        (s.setGroup c.who.gid { g with lrgn := some {
          pc := g.spc, stage := 0, since := s.cycle, ids := [c.depth], val := c.pc.setWidth 64 } }).lStall c .none 0
      | some h =>
        if h.stage = 0 && s.producersLanded c.who.gid g then
          (s.setGroup c.who.gid { g with lrgn := some { h with stage := 1, since := s.cycle } }).lStall c .none 0
        else s.lStall c .none 0

/-! ## Barriers (R291, R292) -/

/-- The barrier of every performing lane, or the lowest lane whose address fails (R290). -/
def State.laneBars (s : State) (c : LaneCtx) (f : LF) : List Nat → Except Nat (List (Nat × Nat × Nat))
  | [] => .ok []
  | l :: ls =>
    match s.barResolve c.who (c.b32 f l).toNat with
    | none => .error l
    | some (t, o) =>
      match s.laneBars c f ls with
      | .error x => .error x
      | .ok r => .ok ((l, t, o) :: r)

/-- The arrival messages of one issue: one per barrier named, of that many lanes (R285, R291). -/
def State.arrivals (s : State) (c : LaneCtx) (f : LF) (bs : List (Nat × Nat × Nat)) : List Effect :=
  (bs.map fun x => x.2).eraseDups.map fun p =>
    let ls := bs.filter fun x => x.2 = p
    let lane := (ls.map (·.1)).headD 0
    .releaseThen none {
      kind := .barLanes ls.length, gid := c.who.gid, core := c.who.core, ctx := c.who.ctx, gen := s.genStamp c.who.core c.who.ctx
      ea := (c.b32 f lane).setWidth 64, place := .scratch p.1 p.2, lane := lane, isLane := true, pc := s.blockPc c.who.g
      lpc := c.pc, issue := s.nextId, covers := ls.map (·.1) } p.1 p.2

def execLBarr (f : LF) (s : State) : Out :=
  laneAccess s f (needOf f { b := true } false false false false) fun c =>
    match s.laneBars c f c.act with
    | .error l => s.laneTrap c 0x06 0 ((c.b32 f l).setWidth 64)
    | .ok bs =>
      let r := c.who.g.countLanes c.act
      let es := s.arrivals c f (bs.filter fun x => r.2.contains x.1)
      { s with nextId := s.nextId + 1 }.laneNext c (r.1.quarLanes s.cycle r.2 es)

/-- The lowest lane that still waits at its barrier (R292), with its own pending updates of the object ahead of it (R379). -/
def State.laneWaits (s : State) (c : LaneCtx) (f : LF) (bs : List (Nat × Nat × Nat)) : Option Nat :=
  (bs.find? fun x =>
    s.spBusy c.who.gid c.who.g (.scratch x.2.1 x.2.2) 32 ||
    match aget s.teams x.2.1 with
    | some t => !phasePassed (t.barPhase x.2.2) (c.c32 f x.1)
    | none => true).map (·.1)

def execLBwait (f : LF) (s : State) : Out :=
  laneAccess s f (needOf f { b := true, c := true } false false false false) fun c =>
    match s.laneBars c f c.act with
    | .error l => s.laneTrap c 0x06 0 ((c.b32 f l).setWidth 64)
    | .ok bs =>
      match s.laneWaits c f bs with
      | some l => s.lStall c .barrier ((c.b32 f l).setWidth 64)
      | none =>
        let scopes := bs.filterMap fun x => (aget s.teams x.2.1).map fun t => t.barScope x.2.2
        (scopes.foldl (fun st sc => st.acquire c.who.core c.who.ctx sc) s).laneNext c c.who.g

/-! ## Fences (R293) -/

/-- The scope of mod5[2:0]. -/
def scopeOfL (f : LF) : Scope :=
  match f.mod5.toNat % 8 with
  | 0 => .grp | 1 => .team | 2 => .clu | 3 => .die | 4 => .pkg | 5 => .dom | _ => .sys

/-- A release of the performing lanes that holds the sub-gang (R298): their quarantined effects leave, the release begins and
completes, then `done` runs. A sub-gang that other lanes have joined begins again. -/
def State.laneRelease (s : State) (c : LaneCtx) (scope : Scope) (done : State → Group → Out) : Out :=
  let g := c.who.g
  let x := g.gangRec c.pc c.depth
  let fresh := fun (_ : Unit) =>
    if !g.laneQuarEmpty c.act then s.lStall c .none 0
    else
      let r := s.beginRelease c.who.gid c.who.core c.who.ctx scope (s.laneReqs c.who.gid c.act) []
      (r.2.setGroup c.who.gid (g.setGang { x with rel := some (r.1, c.act) })).lStall c .none 0
  match x.rel with
  | some (id, ls) =>
    if ls ≠ c.act then fresh ()
    else if (aget s.rels id).isSome then s.lStall c .none 0
    else done s g
  | none => fresh ()

/-- The next write of each performing lane is a release with the fence's scope too (R294). -/
def LaneCtx.leaveRelease (c : LaneCtx) (g : Group) (scope : Scope) : Group :=
  g.mapLanes c.act fun _ x => { x with relPend := scopeMax x.relPend (some scope) }

def execLFence (f : LF) (s : State) : Out :=
  laneIssue s f {} fun c =>
    let kind := f.mod5.toNat / 8
    if c.act.isEmpty then s.laneNext c c.who.g
    else if kind = 0 then s.laneRelease c (scopeOfL f) fun st g => st.laneNext c (c.leaveRelease g (scopeOfL f))
    else if kind = 1 then
      (if s.laneReadsDone c.who.gid c.act then (s.acquire c.who.core c.who.ctx (scopeOfL f)).laneNext c c.who.g
       else s.lStall c .none 0)
    else s.laneRelease c (scopeOfL f) fun st g => (st.acquire c.who.core c.who.ctx (scopeOfL f)).laneNext c (c.leaveRelease g (scopeOfL f))

end Sys2Proof.Machine
end

