-- ==== Sys2Proof/Machine/LFp.lean ====
section
/-!
DEFINITION. Lane FP32 and packed BF16 arithmetic (R188 to R193): sign modifiers, rounding codes with the core's generator, flags.
-/
namespace Sys2Proof.Machine

/-! ## Modifiers and rounding (R188) -/

/-- A value with its sign bits `signs` cleared by `absolute`, then flipped by `negate`. -/
def signMod (signs : Word) (absolute negate : Bool) (x : Word) : Word :=
  let y := if absolute then x &&& ~~~signs else x
  if negate then y ^^^ signs else y

/-- Bit `i` of the W2 fields. -/
def w2Bit (f : LF) (i : Nat) : Bool := f.fields / 2 ^ i % 2 = 1

/-- The sign bits of the elements of a type. -/
def signBits (ty : LTy) : Word := if ty = .bf16x2 then 0x80008000 else 0x80000000

/-- A, B and C after their modifiers. -/
def modA (f : LF) (x : Word) : Word := signMod (signBits f.ty) (w2Bit f 1) (w2Bit f 0) x
def modB (f : LF) (x : Word) : Word := signMod (signBits f.ty) false (w2Bit f 2) x
def modC (f : LF) (x : Word) : Word := signMod (signBits f.ty) false (w2Bit f 3) x

/-- mod5[2:0]. -/
def roundCode (f : LF) : Nat := f.mod5.toNat % 8

/-- mod5[3], SAT. -/
def satOf (f : LF) : Bool := f.mod5.getLsbD 3

/-- A rounding code with the lane's random word and D (R102, R121, R124). -/
def rndOf (f : LF) (x : DWord) (l e : Nat) (d : Option Nat) : Rnd :=
  match roundCode f with
  | 0 => .rne
  | 1 => .rtz
  | 2 => .rdn
  | 3 => .rup
  | _ => .sr (srWord x l e) (bitsOf f.fields 12 8) d

/-- The rounding code rounds toward −∞ (R112, zero signs). -/
def roundsDown (f : LF) : Bool := roundCode f = 2

/-- The generator's value for the draws of this issue, and the state in which it has stepped (R123). -/
def State.draw (s : State) (f : LF) (c : LaneCtx) : DWord × State :=
  if roundCode f = 4 then s.stepGen c.who.core else (0, s)

/-! ## Shapes -/

/-- What a lane's conversion gives: the value, OVFL and NVAL. -/
structure Conv where
  val : Word
  ovfl : Bool := false
  nval : Bool := false

/-- A lane instruction that rounds: `fn` gets the generator's value and the lane. Flags are set for active lanes (R118, R200). -/
def laneConv (s : State) (f : LF) (n : Need) (fn : LaneCtx → DWord → Nat → Conv) : Out :=
  laneIssue s f n fun c =>
    let r := s.draw f c
    let rs := c.act.map fun l => (l, fn c r.1 l)
    let g1 := rs.foldl (fun g x => g.setLane x.1 ((g.lane x.1).put f.d.toNat x.2.val)) c.who.g
    let g2 := (g1.raiseOvfl s.cycle (rs.any fun x => x.2.ovfl)).raiseNval s.cycle (rs.any fun x => x.2.nval)
    r.2.laneNext c g2

/-- FP32 of A. -/
def lfp1 (s : State) (f : LF) (op : Fp → Fp) : Out :=
  laneConv s f (needOf f { d := true, a := true } false false false false) fun c x l =>
    { val := round32 (rndOf f x l 0 none) (op (f32 (modA f (c.a32 f l)))) }

/-- FP32 of A and B. -/
def lfp2 (s : State) (f : LF) (op : Fp → Fp → Fp) : Out :=
  laneConv s f (needOf f { d := true, a := true, b := true } false false false false) fun c x l =>
    { val := round32 (rndOf f x l 0 none) (op (f32 (modA f (c.a32 f l))) (f32 (modB f (c.b32 f l)))) }

def execLFadd (f : LF) (s : State) : Out := lfp2 s f (Fp.add (roundsDown f))
def execLFsub (f : LF) (s : State) : Out := lfp2 s f fun a b => Fp.add (roundsDown f) a b.neg
def execLFmul (f : LF) (s : State) : Out := lfp2 s f Fp.mul
def execLFdiv (f : LF) (s : State) : Out := lfp2 s f Fp.div
def execLFrcp (f : LF) (s : State) : Out := lfp1 s f fun a => Fp.div (.fin false 1 0) a
def execLFrsqrt (f : LF) (s : State) : Out := lfp1 s f Fp.rsqrt
def execLFsqrt (f : LF) (s : State) : Out := lfp1 s f Fp.sqrt
def execLFexp2 (f : LF) (s : State) : Out := lfp1 s f Fp.exp2
def execLFlog2 (f : LF) (s : State) : Out := lfp1 s f Fp.log2

/-- `fma`: A · B + C, rounded once. -/
def execLFma (f : LF) (s : State) : Out :=
  laneConv s f (needOf f { d := true, a := true, b := true, c := true } false false false false) fun c x l =>
    { val := round32 (rndOf f x l 0 none) (Fp.add (roundsDown f)
        (Fp.mul (f32 (modA f (c.a32 f l))) (f32 (modB f (c.b32 f l)))) (f32 (modC f (c.c32 f l)))) }

/-- minimumNumber and maximumNumber of A and B. -/
def lfpPick (s : State) (f : LF) (op : Fmt → Nat → Nat → Nat) : Out :=
  laneWrite s f (needOf f { d := true, a := true, b := true } false false false false) fun c l =>
    w32 (op fmtF32 (modA f (c.a32 f l)).toNat (modB f (c.b32 f l)).toNat)

def execLFmin (f : LF) (s : State) : Out := lfpPick s f minNum
def execLFmax (f : LF) (s : State) : Out := lfpPick s f maxNum

/-! ## Integral values and scaling (R191) -/

/-- A rounded to an integral value, keeping its sign. -/
def frint (md : Rnd) (x : Fp) : Fp :=
  match x with
  | .fin n m e => .fin n (roundInt md n m e) 0
  | y => y

def execLFrint (f : LF) (s : State) : Out := lfp1 s f (frint (rndOf f 0 0 0 none))

def execLFcvtI (f : LF) (s : State) : Out :=
  laneWrite s f (needOf f { d := true, a := true } false false false false) fun c l =>
    BitVec.ofInt 32 (toIntClamp (rndOf f 0 0 0 none) (tyRange f.ty).1 (tyRange f.ty).2 (f32 (signMod 0x80000000 (w2Bit f 1) (w2Bit f 0) (c.a32 f l))))

def execLIcvtF (f : LF) (s : State) : Out :=
  laneWrite s f (needOf f { d := true, a := true } false false false false) fun c l =>
    round32 (rndOf f 0 0 0 none) (fpOfInt (intOf f.ty (c.a32 f l)))

/-- A · 2^b; beyond ±512 every finite nonzero A overflows or underflows alike. -/
def fscale (x : Fp) (b : Int) : Fp :=
  match x with
  | .fin n m e => .fin n m (e + max (-512) (min 512 b))
  | y => y

def execLFscale (f : LF) (s : State) : Out :=
  laneWrite s f (needOf f { d := true, a := true, b := true } false false false false) fun c l =>
    round32 (rndOf f 0 0 0 none) (fscale (f32 (modA f (c.a32 f l))) (c.b32 f l).toInt)

/-- The class bit of an FP32 value (R192). -/
def classBit (x : Word) : Nat :=
  let mag := x.toNat % 2 ^ 31
  let neg := x.getLsbD 31
  if 0x7F800000 < mag then (if x.getLsbD 22 then 9 else 8)
  else if mag = 0x7F800000 then (if neg then 0 else 7)
  else if mag = 0 then (if neg then 3 else 4)
  else if mag < 0x800000 then (if neg then 2 else 5)
  else if neg then 1 else 6

def execLFclass (f : LF) (s : State) : Out :=
  laneWrite s f (needOf f { d := true, a := true } false false false false) fun c l => (1 : Word) <<< classBit (modA f (c.a32 f l))

/-! ## Packed BF16 (R193) -/

/-- Element `e` of width `w` of a word. -/
def elemOf (w : Nat) (x : Word) (e : Nat) : Nat := x.toNat / 2 ^ (w * e) % 2 ^ w

/-- The word with element `e` of width `w` replaced. -/
def putElem (w : Nat) (x : Word) (e v : Nat) : Word := insertField x (w32 v) (w * e) w

/-- Element `e` of packed BF16 arithmetic: its exact result rounded once. -/
def bf16Elem (f : LF) (x : DWord) (l : Nat) (op : Fp → Fp → Fp → Fp) (a b c : Word) (e : Nat) : Nat × Bool :=
  let v := fun w => fmtBf16.decode (elemOf 16 w e)
  fmtBf16.narrow (rndOf f x l e none) (satOf f) (op (v a) (v b) (v c))

/-- Packed BF16 arithmetic. -/
def lhp (s : State) (f : LF) (useC : Bool) (op : Fp → Fp → Fp → Fp) : Out :=
  laneConv s f (needOf f { d := true, a := true, b := true, c := useC } false false false false) fun c x l =>
    let a := modA f (c.a32 f l)
    let b := modB f (c.b32 f l)
    let z := if useC then modC f (c.c32 f l) else 0
    let r0 := bf16Elem f x l op a b z 0
    let r1 := bf16Elem f x l op a b z 1
    { val := w32 (r0.1 + r1.1 * 65536), ovfl := r0.2 || r1.2 }

def execLHadd2 (f : LF) (s : State) : Out := lhp s f false fun a b _ => Fp.add false a b
def execLHmul2 (f : LF) (s : State) : Out := lhp s f false fun a b _ => Fp.mul a b
def execLHfma2 (f : LF) (s : State) : Out := lhp s f true fun a b c => Fp.add false (Fp.mul a b) c

end Sys2Proof.Machine
end

