-- ==== Sys2Proof/Machine/LCross.lean ====
section
/-!
DEFINITION. Cross-lane instructions (R131, R201 to R209).
-/
namespace Sys2Proof.Machine

/-! ## Reduction operations (R205) -/

/-- min or max of two values of a type. -/
def pickTy (ty : LTy) (mx : Bool) (a b : Word) : Word :=
  match ty with
  | .f32 => w32 ((if mx then maxNum else minNum) fmtF32 a.toNat b.toNat)
  | .bf16x2 =>
    let one := fun e => (if mx then maxNum else minNum) fmtBf16 (elemOf 16 a e) (elemOf 16 b e)
    w32 (one 0 + one 1 * 65536)
  | _ => BitVec.ofInt 32 (if mx then max (intOf ty a) (intOf ty b) else min (intOf ty a) (intOf ty b))

/-- The sum of two values of a type, and whether a BF16 element overflowed. -/
def addTy (ty : LTy) (a b : Word) : Word × Bool :=
  match ty with
  | .f32 => (round32 .rne (Fp.add false (f32 a) (f32 b)), false)
  | .bf16x2 =>
    let one := fun e => fmtBf16.narrow .rne false (Fp.add false (fmtBf16.decode (elemOf 16 a e)) (fmtBf16.decode (elemOf 16 b e)))
    (w32 ((one 0).1 + (one 1).1 * 65536), (one 0).2 || (one 1).2)
  | _ => (a + b, false)

/-- One step of a reduction. -/
def redStep (op : Nat) (ty : LTy) (a b : Word) : Word × Bool :=
  match op with
  | 0 => addTy ty a b
  | 1 => (pickTy ty false a b, false)
  | 2 => (pickTy ty true a b, false)
  | 3 => (a &&& b, false)
  | 4 => (a ||| b, false)
  | _ => (a ^^^ b, false)

/-- The identity of a reduction (R205). -/
def redIdentity (op : Nat) (ty : LTy) : Word :=
  match op, ty with
  | 0, .f32 => 0x80000000
  | 0, .bf16x2 => 0x80008000
  | 1, .f32 => 0x7F800000
  | 1, .bf16x2 => 0x7F807F80
  | 1, .i32 => 0x7FFFFFFF
  | 1, _ => 0xFFFFFFFF
  | 2, .f32 => 0xFF800000
  | 2, .bf16x2 => 0xFF80FF80
  | 2, .i32 => 0x80000000
  | 3, _ => 0xFFFFFFFF
  | _, _ => 0

/-- One level of the tree of R131. -/
def pairUp {α : Type} (op : α → α → α) : List α → List α
  | a :: b :: t => op a b :: pairUp op t
  | l => l

/-- The fixed pairwise tree over `n` levels. -/
def treeLevels {α : Type} (op : α → α → α) : Nat → List α → List α
  | 0, l => l
  | n + 1, l => treeLevels op n (pairUp op l)

/-- Each lane position's contribution to a reduction (R201). -/
def LaneCtx.contribs (c : LaneCtx) (f : LF) (identity : Word) : List Word :=
  (List.range c.who.g.width).map fun l => if c.act.contains l then c.a32 f l else identity

/-- The reduction of a list of contributions: the value, and whether a step overflowed. -/
def reduce (op : Nat) (ty : LTy) (xs : List Word) : Word × Bool :=
  ((treeLevels (fun (x y : Word × Bool) =>
    let r := redStep op ty x.1 y.1
    (r.1, x.2 || y.2 || r.2)) 6 (xs.map fun x => (x, false))).head?).getD (0, false)

/-! ## Scalar destinations (R202) -/

/-- A value from 32 bits as s[d] receives it. -/
def toScalar (ty : LTy) (v : Word) : DWord := if ty = .i32 then v.signExtend 64 else v.setWidth 64

/-- A scalar-destination form: it waits until the group's slices have come together, then it is a producer of s[d], with the flag that it raises
when it lands (R120). -/
def laneScalar (s : State) (f : LF) (n : Need) (fn : LaneCtx → DWord × Bool) : Out :=
  let d : SReg := f.d.setWidth 6
  laneIssue s f { n with sdst := [d], gather := true } fun c =>
    let r := fn c
    let q : Req := {
      gid := c.who.gid, lane := true, pc := s.blockPc c.who.g, lpc := c.pc, dst := .value d r.1, parts := [], core := c.who.core
      ctx := c.who.ctx, since := s.cycle, ovfl := r.2 }
    { s with reqs := aset s.reqs s.nextId q, nextId := s.nextId + 1 }.laneNext c (c.who.g.sempty d)

/-- mod5[3] selects a scalar destination. -/
def toScalarDst (f : LF) : Bool := f.mod5.getLsbD 3

/-! ## rdc, rdcx, scan -/

/-- The result of `rdc`, and whether it overflowed. -/
def rdcResult (f : LF) (c : LaneCtx) : Word × Bool :=
  let op := f.mod5.toNat % 8
  reduce op f.ty (c.contribs f (redIdentity op f.ty))

def execLRdc (f : LF) (s : State) : Out :=
  if toScalarDst f then
    laneScalar s f (needOf f { a := true } false false false false) fun c =>
      let r := rdcResult f c
      (toScalar f.ty r.1, r.2)
  else
    laneIssue s f (needOf f { d := true, a := true } false false false false) fun c =>
      let r := rdcResult f c
      s.laneNext c ((c.who.g.raiseOvfl s.cycle r.2).mapLanes c.act fun _ x => x.put f.d.toNat r.1)

/-- A pair of `rdcx` beats another (R206); of equal pairs the earlier stays. -/
def rdcxBeats (ty : LTy) (mx : Bool) (a b : Word × Word) : Bool :=
  let nan := fun (x : Word) => ty = .f32 && (f32 x).isNan
  let less := fun (x y : Word) => if ty = .f32 then Fp.lt (f32 x) (f32 y) else decide (intOf ty x < intOf ty y)
  let better := if mx then less b.1 a.1 else less a.1 b.1
  let worse := if mx then less a.1 b.1 else less b.1 a.1
  if nan a.1 then nan b.1 && decide (a.2.toNat < b.2.toNat)
  else if nan b.1 then true
  else better || (!worse && decide (a.2.toNat < b.2.toNat))

/-- The extreme pair of a group. -/
def rdcxResult (f : LF) (c : LaneCtx) : Word × Word :=
  let mx := f.mod5.getLsbD 0
  let ident : Word × Word := (redIdentity (if mx then 2 else 1) f.ty, 0xFFFFFFFF)
  let one := fun l => if c.act.contains l then (c.a32 f l, if f.mod5.getLsbD 1 then c.b32 f l else w32 l) else ident
  let best := (List.range (c.who.g.width - 1)).foldl
    (fun b i => if rdcxBeats f.ty mx (one (i + 1)) b then one (i + 1) else b) (one 0)
  (if f.ty = .f32 && (f32 best.1).isNan then 0x7FC00000 else best.1, best.2)

def execLRdcx (f : LF) (s : State) : Out :=
  let useB := f.mod5.getLsbD 1
  if toScalarDst f then
    laneScalar s f (needOf f { a := true, b := useB } false false false false) fun c =>
      let r := rdcxResult f c
      (r.2 ++ r.1, false)
  else
    laneIssue s f (needOf f { d := true, a := true, b := useB } true false false false) fun c =>
      let r := rdcxResult f c
      s.laneNext c (c.who.g.mapLanes c.act fun _ x => x.putPair f.d.toNat (r.2 ++ r.1))

/-- The results of a left fold, one for each position (R207). -/
def scanList (op : Word → Word → Word) (exclusive : Bool) : Word → List Word → List Word
  | _, [] => []
  | acc, x :: t =>
    let nxt := op acc x
    (if exclusive then acc else nxt) :: scanList op exclusive nxt t

def execLScan (f : LF) (s : State) : Out :=
  let op := f.mod5.toNat % 8
  laneIssue s f (needOf f { d := true, a := true } false false false false) fun c =>
    let id := redIdentity op f.ty
    let rs := scanList (fun a b => (redStep op f.ty a b).1) (toScalarDst f) id (c.contribs f id)
    s.laneNext c (c.who.g.mapLanes c.act fun l x => x.put f.d.toNat (rs.getD l 0))

/-! ## xlane, canvass, vtos, bcast -/

/-- The source lane of `xlane`, if it is valid (R203). -/
def xlaneSource (f : LF) (w l n : Nat) : Option Nat :=
  let k := f.mod5.toNat / 4
  let seg := if k = 0 then w else 2 ^ k
  let base := l - l % seg
  match f.mod5.toNat % 4 with
  | 0 => some (base + n % seg)
  | 1 => if base + n ≤ l then some (l - n) else none
  | 2 => if l + n < base + seg then some (l + n) else none
  | _ => some (l ^^^ (n % seg))

/-- The lane whose A a lane receives: the source when it is active in this issue, else itself. -/
def xlanePick (f : LF) (c : LaneCtx) (l : Nat) : Nat :=
  match xlaneSource f c.who.g.width l (c.b32 f l).toNat with
  | some j => if c.act.contains j then j else l
  | none => l

/-- `xlane` (R203): a segment above W is illegal. -/
def execLXlane (f : LF) (s : State) : Out :=
  let wide : Bool := f.ty = .b64
  let n := needOf f { d := true, a := true, b := true } wide wide false false
  laneIssue s f { n with illegal := fun c => c.who.g.width < 2 ^ (f.mod5.toNat / 4) } fun c =>
    if wide then
      s.laneNext c (c.who.g.mapLanes c.act fun l x => x.putPair f.d.toNat (c.a64 f (xlanePick f c l)))
    else s.laneNext c (c.who.g.mapLanes c.act fun l x => x.put f.d.toNat (c.a32 f (xlanePick f c l)))

/-- The active lanes in which the predicate of `canvass` holds (R204). -/
def canvassHolds (f : LF) (c : LaneCtx) : List Nat :=
  c.act.filter fun l => xor ((c.who.g.lane l).pget (pField f 5)) (f.mod5.getLsbD 2)

def execLCanvass (f : LF) (s : State) : Out :=
  if f.mod5.toNat % 4 < 3 then
    lanePred s f {} (pField f 0) fun c _ =>
      let n := (canvassHolds f c).length
      match f.mod5.toNat % 4 with
      | 0 => n = c.act.length
      | 1 => n ≠ 0
      | _ => n = 0 || n = c.act.length
  else if f.mod5.getLsbD 3 then
    laneWrite s f (needOf f { d := true } false false false false) fun c _ => w32 (canvassHolds f c).length
  else if f.ty = .b64 then
    laneWrite64 s f (needOf f { d := true } true false false false) fun c _ => dw (maskOf 64 fun l => (canvassHolds f c).contains l)
  else laneWrite s f (needOf f { d := true } false false false false) fun c _ => w32 (maskOf 32 fun l => (canvassHolds f c).contains l)

/-- The lane that `vtos` and `bcast` name, if it is active (R208, R209). -/
def namedLane (f : LF) (c : LaneCtx) : Option Nat :=
  if f.mod5.getLsbD 0 then c.act.head?
  else
    let j := (c.b32 f 0).toNat % 64
    if c.act.contains j then some j else none

def execLVtos (f : LF) (s : State) : Out :=
  let first := f.mod5.getLsbD 0
  laneScalar s f (needOf f { a := true, b := !first } false (f.ty = .b64) false false) fun c =>
    (match namedLane f c with
      | none => 0
      | some j => if f.ty = .b64 then c.a64 f j else toScalar f.ty (c.a32 f j), false)

def execLBcast (f : LF) (s : State) : Out :=
  let wide : Bool := f.ty = .b64
  let first := f.mod5.getLsbD 0
  laneIssue s f (needOf f { d := true, a := true, b := !first } wide wide false false) fun c =>
    let src := fun l => (namedLane f c).getD l
    if wide then s.laneNext c (c.who.g.mapLanes c.act fun l x => x.putPair f.d.toNat (c.a64 f (src l)))
    else s.laneNext c (c.who.g.mapLanes c.act fun l x => x.put f.d.toNat (c.a32 f (src l)))

end Sys2Proof.Machine
end

