-- ==== Sys2Proof/Machine/SMem.lean ====
section
/-!
DEFINITION. Scalar loads and stores (R140 to R144).
-/
namespace Sys2Proof.Machine

/-- The address of a scalar access (R141): the effective address, whether it is a scratchpad offset (mode 10), and s[a] after the
update. -/
structure SAddr where
  ea : DWord
  scratch : Bool
  upd : Option DWord
deriving DecidableEq, Repr

/-- The modulo step of R141 and R240: o moved by `inc` within the ring of MOD[K]. -/
def moduloStep (m : DWord) (o inc : Nat) : Nat :=
  let base := dbits m 31 0
  let len := dbits m 63 32
  (base + ((o + 2 ^ 32 - base) % 2 ^ 32 + inc) % len) % 2 ^ 32

/-- The address and the update of s[a] (R141). -/
def Group.saddr (g : Group) (a : SReg) (mode : SMode) : SAddr :=
  match mode with
  | .offset d => { ea := g.sget a + d.signExtend 64, scratch := false, upd := none }
  | .postInc d => { ea := g.sget a, scratch := false, upd := some (g.sget a + d.signExtend 64) }
  | .modulo k inc =>
    let o := dbits (g.sget a) 31 0
    { ea := dw o, scratch := true, upd := some (dw (moduloStep (g.modReg k.toNat) o inc.toNat)) }

/-- The group with s[a] updated by the address mode. -/
def Group.bump (g : Group) (a : SReg) (upd : Option DWord) : Group :=
  match upd with
  | some v => g.sput a v
  | none => g

/-- The units of a scalar access: generic ones resolved (R142), or the scratchpad offset of mode 10 against SCRATCH (R141). -/
def State.sUnits (s : State) (w : Who) (kind : AccKind) (x : SAddr) (n : Nat) : Except (BitVec 8) (List RUnit) :=
  if x.scratch then
    (if x.ea.toNat + n ≤ w.lrec.scratch then
      .ok ((accUnits x.ea n).map fun u => { off := u.1, n := u.2, place := .scratch w.g.team (x.ea.toNat + u.1), attr := {} })
    else .error 0x06)
  else s.resolveUnits w kind x.ea (accUnits x.ea n)

/-- A scalar load: a producer (R143). The destination is empty until `producerLand`; a load of s0 writes nothing. -/
def sLoad (s : State) (sext : Bool) (size : BitVec 2) (t a : SReg) (mode : SMode) : Out :=
  sAccess s [a, t] fun w =>
    let n := 2 ^ size.toNat
    let x := w.g.saddr a mode
    match s.sUnits w .read x n with
    | .error code => sTrap (s.noteWorld code) w.gid w.g code 0 x.ea
    | .ok us =>
      match s.loadParts w none 0 x.ea none true us with
      | none => s.sStall w.gid w.g .none 0
      | some (parts, s1) =>
        let q : Req := {
          gid := w.gid, lane := false, pc := w.g.spc, lpc := 0xFFFFFFFF, dst := .scalar t sext n, parts := parts
          core := w.core, ctx := w.ctx, since := s.cycle }
        .next ({ (s1.setGroup w.gid ((w.g.bump a x.upd).sempty t).next) with
          reqs := aset s1.reqs s1.nextId q, nextId := s1.nextId + 1 }.launchParts s1.nextId)

def execLd (size : BitVec 2) (t a : SReg) (mode : SMode) (s : State) : Out := sLoad s false size t a mode
def execLdx (size : BitVec 2) (t a : SReg) (mode : SMode) (s : State) : Out := sLoad s true size t a mode

/-- `st`: scratchpad bytes are written at issue, other stores enter the quarantine (R378). -/
def execSt (size : BitVec 2) (t a : SReg) (mode : SMode) (s0 : State) : Out :=
  sStoring s0 [a, t] fun s w =>
    let n := 2 ^ size.toNat
    let x := w.g.saddr a mode
    match s.sUnits w .write x n with
    | .error code => sTrap (s.noteWorld code) w.gid w.g code 0 x.ea
    | .ok us =>
      if us.any fun u => s.spBusy w.gid w.g u.place u.n then s.sStall w.gid w.g .none 0
      else
        let r := s.storeUnits w none 0xFFFFFFFF x.ea (leBytes n (w.g.sget t).toNat) s.nextId us
        let es := if w.g.sActive then r.1.map Effect.asMessage else r.1
        let g1 := if es.isEmpty then w.g else (w.g.enterS s.cycle es).1
        .next { (r.2.setGroup w.gid (g1.sWrote.bump a x.upd).next) with nextId := r.2.nextId + 1 }

end Sys2Proof.Machine
end

