-- ==== Sys2Proof/Machine/LMem.lean ====
section
/-!
DEFINITION. Lane loads and stores (R165, R233 to R241, R318, R319): addresses, all-or-nothing and partially performed accesses,
DONEMASK, scratchpad and cluster scratchpad.
-/
namespace Sys2Proof.Machine

/-! ## Addresses and sizes (R233, R234) -/

/-- SCALE at bit `lo` of W2. -/
def scaleOf (f : LF) (lo : Nat) : Nat := bitsOf f.w2.toNat (lo + 2) lo

/-- The effective address of a lane, with the displacement in the low `lo` bits of W2 and SCALE above it. -/
def LaneCtx.ea (c : LaneCtx) (f : LF) (lo l : Nat) : DWord :=
  let k := scaleOf f lo
  let idx := if k = 0 then 0 else dwI ((c.a32 f l).toInt * 2 ^ (k - 1))
  c.b64 f l + idx + dwI (sextI f.w2.toNat lo)

/-- The registers of an address: the index and the base. -/
def addrNeed (f : LF) (lo : Nat) : Need :=
  { a := if scaleOf f lo = 0 then [] else [f.a.toNat], b := srcRegs f.bsel f.b true }

/-- SIZE in bytes. -/
def accSize (f : LF) : Nat := 2 ^ bitsOf f.w2.toNat 24 23

/-- SX. -/
def sxOf (f : LF) : Bool := f.w2.getLsbD 25

/-- v[a] plus disp20, as an n32 (R240, R241). -/
def LaneCtx.off20 (c : LaneCtx) (f : LF) (l : Nat) : Nat :=
  (BitVec.ofInt 32 ((c.a32 f l).toInt + sextI f.w2.toNat 20)).toNat

/-- The bytes that a store writes: the low SIZE bytes of C. -/
def LaneCtx.cBytes (c : LaneCtx) (f : LF) (n l : Nat) : List Byte :=
  leBytes n (if n = 8 then (c.c64 f l).toNat else (c.c32 f l).toNat)

/-! ## Lanes that perform (R165, R237) -/

/-- The active lanes that are demoted. -/
def LaneCtx.demoted (c : LaneCtx) : List Nat := c.act.filter fun l => (c.who.g.lane l).life = .demoted

/-- The lanes that an earlier, partially performed issue has done. -/
def LaneCtx.doneBefore (c : LaneCtx) : DWord := (c.who.g.gangRec c.pc c.depth).done

/-- The lanes that perform: active, not demoted, not done. -/
def LaneCtx.perform (c : LaneCtx) : List Nat :=
  c.act.filter fun l => (c.who.g.lane l).life ≠ .demoted && !c.doneBefore.getLsbD l

/-- The number of a partially performed instruction's issue: it keeps the one under which its first lanes were sent. -/
def LaneCtx.issueNo (c : LaneCtx) (s : State) : Nat := (c.who.g.gangRec c.pc c.depth).issue.getD s.nextId

/-- DONEMASK clears when a partially performed instruction completes (R237): now, or when the lanes of its earlier issue that are sent again
have been answered. -/
def LaneCtx.clearDone (c : LaneCtx) (s : State) (g : Group) : Group :=
  if c.doneBefore = 0 then g
  else if s.issueOpen c.who.gid (c.issueNo s) c.who.g then { g with dmIssue := some (c.issueNo s) }
  else { g with trap := { g.trap with donemask := 0 } }

/-- A message of one or several lanes of this issue. -/
def LaneCtx.tag (c : LaneCtx) (s : State) (covers : List Nat) (m : Msg) : Msg :=
  { m with
    pc := s.blockPc c.who.g, lpc := c.pc, isLane := true, lane := covers.headD 0, covers := covers, issue := c.issueNo s
    gang := laneMask (c.perform ++ c.demoted) ||| c.doneBefore }

/-- The group after a write of the performing lanes: no fence's release is left to them (R294). -/
def LaneCtx.wrote (c : LaneCtx) (g : Group) : Group :=
  if c.perform.any fun l => (g.lane l).relPend.isSome then g.mapLanes c.perform fun _ x => { x with relPend := none } else g

/-! ## Lane writes -/

/-- The widest scope that fences have left to the next write of the lanes (R294). -/
def LaneCtx.fenceScope (c : LaneCtx) : Option Scope :=
  c.perform.foldl (fun acc l => scopeMax acc (c.who.g.lane l).relPend) none

/-- The first write of lanes after a fence is a release with the fence's scope (R294, R298): what precedes it is performed first. -/
def State.firstWrite (s : State) (c : LaneCtx) (body : State → LaneCtx → Out) : Out :=
  match c.fenceScope with
  | none => body s c
  | some sc => s.laneRelease c sc fun st g => body st { c with who := { c.who with g := g } }

/-- A lane instruction that writes: as `laneAccess`, after the release that a fence has left to it. -/
def laneStore (s : State) (f : LF) (n : Need) (body : State → LaneCtx → Out) : Out :=
  laneAccess s f n fun c => s.firstWrite c body

/-- A fence at `.clu` or wider has left its release to the lane's next write, which goes to its home without delay (R298, R306). -/
def LaneCtx.active (c : LaneCtx) (l : Nat) : Bool := (c.who.g.lane l).relPend.any scopeWide

/-! ## All-or-nothing loads -/

/-- A lane with its address and resolved units. -/
structure LaneAcc where
  lane : Nat
  ea : DWord
  us : List RUnit
deriving DecidableEq, Repr

/-- Every lane of an all-or-nothing access resolved, or the fault of the lowest that fails (R164, R237). -/
def State.resolveLanes (s : State) (w : Who) (kind : AccKind) (n : Nat) (aligned : Bool) (ea : Nat → DWord) :
    List Nat → Except (BitVec 8 × DWord) (List LaneAcc)
  | [] => .ok []
  | l :: ls =>
    if aligned && (ea l).toNat % n ≠ 0 then .error (0x06, ea l)
    else match s.resolveUnits w kind (ea l) (accUnits (ea l) n) with
      | .error code => .error (code, ea l)
      | .ok us =>
        match s.resolveLanes w kind n aligned ea ls with
        | .error x => .error x
        | .ok r => .ok ({ lane := l, ea := ea l, us := us } :: r)

/-- The parts of a load of several lanes; none when one of them waits. -/
def State.laneParts (s : State) (w : Who) (need : Nat → Option (Nat × Word)) (plain : Bool) :
    List LaneAcc → Option (List Part × State)
  | [] => some ([], s)
  | x :: rest =>
    match s.loadParts w (some x.lane) x.lane x.ea (need x.lane) plain x.us with
    | none => none
    | some (ps, s1) =>
      match s1.laneParts w need plain rest with
      | none => none
      | some (qs, s2) => some (ps ++ qs, s2)

/-- The request of a lane load. -/
def LaneCtx.req (c : LaneCtx) (s : State) (dst : ReqDst) (parts : List Part) (zeros : List Nat) : Req :=
  { gid := c.who.gid, lane := true, pc := s.blockPc c.who.g, lpc := c.pc, dst := dst, parts := parts, core := c.who.core
    ctx := c.who.ctx, since := s.cycle, zeros := zeros }

/-- A lane load issues: its destination is empty until it lands (R86). `g` is the group as the issue leaves it otherwise. -/
def State.issueLoad (s : State) (c : LaneCtx) (g : Group) (q : Req) : Out :=
  ({ s with reqs := aset s.reqs s.nextId q, nextId := s.nextId + 1 }.launchParts s.nextId).laneNext c
    (if q.parts.isEmpty && q.zeros.isEmpty then g else g.emptyDst q.dst)

/-- A load by the address form of R233; `acq` is the scope of an acquire, performed as the load lands. -/
def laneLoad (s : State) (f : LF) (kind : AccKind) (aligned plain : Bool) (acq : Option Scope) : Out :=
  let n := accSize f
  laneAccess s f { addrNeed f 20 with dst := regs1 f.d (n = 8) } fun c =>
    match s.resolveLanes c.who kind n aligned (c.ea f 20) c.perform with
    | .error (code, ea) => (s.noteWorld code).laneTrap c code 0 ea
    | .ok xs =>
      match s.laneParts c.who (fun _ => none) plain xs with
      | none => s.lStall c .none 0
      | some (ps, s1) => s1.issueLoad c c.who.g { c.req s1 (.lanes f.d n (sxOf f) none) ps c.demoted with acquire := acq }

def execLLd (f : LF) (s : State) : Out := laneLoad s f .read false true none

/-- `ldacq` (R238): its acquire is performed as it lands. -/
def execLLdacq (f : LF) (s : State) : Out := laneLoad s f .read true true (some (scopeOfL f))

/-- `ldws` (R239): only the own die's weight store. -/
def execLLdws (f : LF) (s : State) : Out := laneLoad s f .ldws false false none

/-! ## Bounded loads (R318, R319) -/

/-- The first lane whose bounded load needs an unreadable record, with the record's number (R309, R310). -/
def State.unreadableFor (s : State) (c : LaneCtx) (xs : List LaneAcc) : Option Nat :=
  xs.findSome? fun x => match s.member c.who.core c.who.ctx x.ea true with
    | .unreadable i => some i
    | _ => none

/-- The pending floors of the regions that the lanes name settled (R323). -/
def State.settleFor (s : State) (c : LaneCtx) (xs : List LaneAcc) : State :=
  xs.foldl (fun st x => (st.loadNeed c.who.core c.who.ctx x.ea).2) s

/-- The region and need of a lane's bounded load: the greater of N and the floor. -/
def State.ldbNeed (s : State) (c : LaneCtx) (f : LF) (xs : List LaneAcc) (l : Nat) : Option (Nat × Word) :=
  match xs.find? fun x => x.lane = l with
  | none => none
  | some x =>
    (s.loadNeed c.who.core c.who.ctx x.ea).1.map fun r =>
      (r.1, if r.2.toNat < (c.c32 f l).toNat then c.c32 f l else r.2)

def execLLdb (f : LF) (s : State) : Out :=
  let n := accSize f
  let now := f.mod5.getLsbD 0
  laneAccess s f { addrNeed f 20 with dst := regs1 f.d (n = 8), c := srcRegs f.csel f.c false } fun c =>
    match s.resolveLanes c.who .read n false (c.ea f 20) c.perform with
    | .error (code, ea) => (s.noteWorld code).laneTrap c code 0 ea
    | .ok xs =>
      match s.unreadableFor c xs with
      | some i => s.laneTrap c 0x06 0 (regionVa i)
      | none =>
        let s0 := s.settleFor c xs
        match s0.laneParts c.who (s0.ldbNeed c f xs) true xs with
        | none => s.lStall c .none 0
        | some (ps, s1) =>
          let psel : Option (BitVec 5) := if now then some (BitVec.ofNat 5 (pField f 26)) else none
          let qs := ps.map fun p => if now && (s0.ldbNeed c f xs p.lane).isNone then { p with asLd := true } else p
          s1.issueLoad c c.who.g { c.req s1 (.lanes f.d n (sxOf f) psel) qs c.demoted with now := now }

/-! ## Scratchpad (R240) -/

/-- The window offset and the update of v[a]. -/
def LaneCtx.spAddr (c : LaneCtx) (f : LF) (l : Nat) : Nat × Option Word :=
  let a := c.a32 f l
  match f.mod5.toNat % 4 with
  | 0 => (c.off20 f l, none)
  | 1 => (a.toNat, some (w32 (c.off20 f l)))
  | _ => (a.toNat, some (w32 (moduloStep (c.who.g.modReg (f.mod5.toNat / 4)) a.toNat (f.w2.toNat % 2 ^ 20))))

/-- The units of a scratchpad access. -/
def LaneCtx.spUnits (c : LaneCtx) (off n : Nat) : List RUnit :=
  (accUnits (dw off) n).map fun u => { off := u.1, n := u.2, place := .scratch c.who.g.team (off + u.1), attr := {} }

/-- The group with v[a] updated in every active lane. -/
def LaneCtx.spUpdate (c : LaneCtx) (f : LF) (g : Group) : Group :=
  g.mapLanes c.act fun l x => match (c.spAddr f l).2 with
    | some v => x.put f.a.toNat v
    | none => x

/-- The lowest performing lane whose scratchpad access touches an offset at or above SCRATCH (R223). -/
def LaneCtx.spBad (c : LaneCtx) (f : LF) (n : Nat) : Option Nat :=
  c.perform.find? fun l => c.who.lrec.scratch < (c.spAddr f l).1 + n

def execLLds (f : LF) (s : State) : Out :=
  let n := accSize f
  laneAccess s f { dst := regs1 f.d (n = 8), a := [f.a.toNat] } fun c =>
    match c.spBad f n with
    | some l => s.laneTrap c 0x06 0 (dw (c.spAddr f l).1)
    | none =>
      let xs := c.perform.map fun l => { lane := l, ea := dw (c.spAddr f l).1, us := c.spUnits (c.spAddr f l).1 n : LaneAcc }
      match s.laneParts c.who (fun _ => none) false xs with
      | none => s.lStall c .none 0
      | some (ps, s1) =>
        match ps.find? fun p => p.reject.isSome with
        | some p => s.laneTrap c (p.reject.getD 0) 0 p.ea
        | none => s1.issueLoad c (c.spUpdate f c.who.g) (c.req s1 (.lanes f.d n (sxOf f) none) ps c.demoted)

/-- The scratchpad stores of the lanes, in ascending order (R236). -/
def State.spStores (s : State) (c : LaneCtx) (f : LF) (n : Nat) : State :=
  c.perform.foldl (fun st l => st.spWrite c.who.g.team (c.spAddr f l).1 (c.cBytes f n l)) s

def execLSts (f : LF) (s0 : State) : Out :=
  let n := accSize f
  laneStore s0 f { a := [f.a.toNat], c := srcRegs f.csel f.c (n = 8) } fun s c =>
    match c.spBad f n with
    | some l => s.laneTrap c 0x06 0 (dw (c.spAddr f l).1)
    | none =>
      if c.perform.any fun l => s.spBusy c.who.gid c.who.g (.scratch c.who.g.team (c.spAddr f l).1) n then s.lStall c .none 0
      else (s.spStores c f n).laneNext c (c.wrote (c.spUpdate f c.who.g))

/-! ## Partially performed instructions (R237) -/

/-- The page that an address names: its leaf's, or 64 KiB of an address that does not translate or lies in the scratchpad window. -/
def State.pageKey (s : State) (w : Who) (ea : DWord) : Nat × Nat :=
  if spWindow ≤ ea.toNat then (0, ea.toNat / 65536)
  else match s.translate w.core w.ctx ea with
    | .leaf l => (l.size, ea.toNat / l.size)
    | .bad _ => (0, ea.toNat / 65536)

/-- What the pages of a partially performed instruction give: the lanes sent, the fault at which it stops, and its lane. -/
structure Sent where
  lanes : List LaneAcc
  fault : Option (BitVec 8 × DWord)
  lane : Nat := 0
deriving DecidableEq, Repr

/-- The lanes of one page resolved, or the fault of the lowest that fails. -/
def State.sendPages (s : State) (w : Who) (kind : AccKind) (n : Nat) (aligned : Bool) (ea : Nat → DWord) (ls : List Nat) :
    List (Nat × Nat) → Sent
  | [] => { lanes := [], fault := none }
  | k :: ks =>
    let here := ls.filter fun l => s.pageKey w (ea l) = k
    match s.resolveLanes w kind n aligned ea here with
    | .error x => { lanes := [], fault := some x, lane := (here.find? fun l => ea l = x.2).getD 0 }
    | .ok xs =>
      let r := s.sendPages w kind n aligned ea ls ks
      { r with lanes := xs ++ r.lanes }

/-- The pages taken in the order of the lowest lane naming each; the lanes sent, in ascending order (R236). -/
def State.sendLanes (s : State) (w : Who) (kind : AccKind) (n : Nat) (aligned : Bool) (ea : Nat → DWord) (ls : List Nat) : Sent :=
  let r := s.sendPages w kind n aligned ea ls (ls.map fun l => s.pageKey w (ea l)).eraseDups
  { r with lanes := ls.filterMap fun l => r.lanes.find? fun x => x.lane = l }

/-- The issue of a partially performed instruction ends: complete, or with its fault, DONEMASK naming the lanes sent, the demoted lanes
and those done before. The fault is raised at once when every lane sent wrote scratchpad only, else when the homes have answered (`pendStep`). A walk
rejected for its generation only waits (R375). -/
def State.endPartial (s : State) (c : LaneCtx) (g : Group) (r : Sent) : Out :=
  let s1 := { s with nextId := s.nextId + 1 }
  let g0 := c.wrote g
  match r.fault with
  | none => s1.laneNext c (c.clearDone s g0)
  | some (code, ea) =>
    let done := laneMask (r.lanes.map (·.lane) ++ c.demoted) ||| c.doneBefore
    let g1 := g0.setGang { g0.gangRec c.pc c.depth with done := done, issue := some (c.issueNo s) }
    if g.quar = c.who.g.quar && !s.issueOpen c.who.gid (c.issueNo s) c.who.g then
      (if code = 0x07 then (s1.setGroup c.who.gid g1).lStall c .none 0 else (s1.noteWorld code).laneFault c g1 code 0 ea done done)
    else if code = 0x07 then .next (s1.setGroup c.who.gid g1)
    else .next ((s1.noteWorld code).setGroup c.who.gid (g1.setGang { g1.gangRec c.pc c.depth with pend := some { code := code, ea := ea, lane := r.lane } }))

/-- The group with the effects of an issue in quarantine, for the lanes that perform it now (R386); each takes its ordinal. -/
def Group.quarSent (g : Group) (now : Nat) (xs : List LaneAcc) (effects : LaneAcc → List Effect) : Group :=
  let r := g.countLanes (xs.map (·.lane))
  r.1.quarLanes now r.2 ((xs.filter fun x => r.2.contains x.lane).flatMap effects)

/-- The access has a unit outside scratchpad. -/
def LaneAcc.outside (x : LaneAcc) : Bool := x.us.any fun u => match u.place with
  | .scratch _ _ => false
  | _ => true

/-- The block that an instruction of the running block belongs to, for the order against persist barriers (R353). -/
def LaneCtx.blockId (c : LaneCtx) : Nat := (c.who.g.block.map (·.cmd)).getD 0

/-- The units of several lanes' stores that lie in scratchpad, written at issue in ascending lane order. -/
def State.windowStores (s : State) (c : LaneCtx) (bytes : Nat → List Byte) (xs : List LaneAcc) : State :=
  xs.foldl (fun st x => (st.storeUnits c.who (some x.lane) c.pc x.ea (bytes x.lane) c.blockId x.us).2) s

/-- The lanes wait for a pending update of their scratchpad words (R379). -/
def State.sentBusy (s : State) (c : LaneCtx) (xs : List LaneAcc) : Bool :=
  xs.any fun x => x.us.any fun u => s.spBusy c.who.gid c.who.g u.place u.n

/-- `st` (R238). -/
def execLSt (f : LF) (s0 : State) : Out :=
  let n := accSize f
  laneStore s0 f { addrNeed f 20 with c := srcRegs f.csel f.c (n = 8) } fun s c =>
    let r := s.sendLanes c.who .write n false (c.ea f 20) c.perform
    if s.sentBusy c r.lanes then s.lStall c .none 0
    else
      let g := c.who.g.quarSent s.cycle (r.lanes.filter LaneAcc.outside) fun x =>
        (s.storeUnits c.who (some x.lane) c.pc x.ea (c.cBytes f n x.lane) c.blockId x.us).1.map fun e =>
          (if c.active x.lane then e.asMessage else e).mapMsg (c.tag s [x.lane])
      (s.windowStores c (c.cBytes f n) r.lanes).endPartial c g r

/-- The message of a whole aligned access of a lane to its place. -/
def LaneCtx.msgAt (c : LaneCtx) (s : State) (k : MsgKind) (x : LaneAcc) (u : RUnit) : Msg :=
  c.tag s [x.lane] {
    kind := k, gid := c.who.gid, core := c.who.core, ctx := c.who.ctx, gen := s.genStamp c.who.core c.who.ctx, ea := x.ea
    uoff := u.off, place := u.place, tag := s.stepTag, persist := 0, hostp := u.attr.hostp }

/-- The bytes of a `strel` as its message writes them. -/
def strelKind (u : RUnit) (bytes : List Byte) : MsgKind :=
  match u.place with
  | .scratch _ _ => .scratchStore bytes
  | p => .store (bytes.map some) p.persist false

/-- `strel` (R238): all-or-nothing; a release at SCOPE when it leaves the quarantine, then its write as a message (R298). -/
def execLStrel (f : LF) (s0 : State) : Out :=
  let n := accSize f
  laneStore s0 f { addrNeed f 20 with c := srcRegs f.csel f.c (n = 8) } fun s c =>
    match s.resolveLanes c.who .write n true (c.ea f 20) c.perform with
    | .error (code, ea) => (s.noteWorld code).laneTrap c code 0 ea
    | .ok xs =>
      let g := c.who.g.quarSent s.cycle xs fun x => x.us.map fun u =>
        let m := c.msgAt s (strelKind u (c.cBytes f n x.lane)) x u
        .releaseThen (some (scopeOfL f)) { m with
          persist := u.place.persist, held := if u.place.persist = 0 then none else s.pbarHold c.who.g c.blockId } 0 0
      { s with nextId := s.nextId + 1 }.laneNext c (c.wrote g)

/-! ## Cluster scratchpad (R241) -/

/-- The lowest performing lane whose cluster address fails a check made at issue (R224). -/
def State.clBad (s : State) (c : LaneCtx) (f : LF) (n : Nat) : Option Nat :=
  c.perform.find? fun l => (s.clResolve c.who (c.off20 f l) n).isNone

/-- The units of a cluster access. -/
def State.clAcc (s : State) (c : LaneCtx) (f : LF) (n l : Nat) : LaneAcc :=
  let a := c.off20 f l
  let p := (s.clResolve c.who a n).getD (0, 0)
  { lane := l, ea := dw a, us := (accUnits (dw a) n).map fun u => { off := u.1, n := u.2, place := .scratch p.1 (p.2 + u.1), attr := {} } }

/-- The parts of a cluster load: they are answered where the owning core holds the bytes. -/
def LaneCtx.clParts (c : LaneCtx) (s : State) (x : LaneAcc) : List Part :=
  x.us.map fun u => {
    lane := x.lane, byteOff := u.off, n := u.n, ea := x.ea, place := u.place, gen := s.genStamp c.who.core c.who.ctx }

def execLLdcl (f : LF) (s : State) : Out :=
  let n := accSize f
  laneAccess s f { dst := regs1 f.d (n = 8), a := [f.a.toNat] } fun c =>
    match s.clBad c f n with
    | some l => s.laneTrap c 0x06 0 (dw (c.off20 f l))
    | none =>
      let xs := c.perform.map (s.clAcc c f n)
      if s.sentBusy c xs then s.lStall c .none 0
      else s.issueLoad c c.who.g (c.req s (.lanes f.d n (sxOf f) none) (xs.flatMap (c.clParts s)) c.demoted)

def execLStcl (f : LF) (s0 : State) : Out :=
  let n := accSize f
  laneStore s0 f { a := [f.a.toNat], c := srcRegs f.csel f.c (n = 8) } fun s c =>
    match s.clBad c f n with
    | some l =>
      let done := laneMask c.demoted ||| c.doneBefore
      s.laneFault c c.who.g 0x06 0 (dw (c.off20 f l)) done done
    | none =>
      let xs := c.perform.map (s.clAcc c f n)
      if s.sentBusy c xs then s.lStall c .none 0
      else
        let g := c.who.g.quarSent s.cycle xs fun x => x.us.map fun u =>
          .msg (c.msgAt s (.scratchStore (unitBytes (c.cBytes f n x.lane) u)) x u)
        s.endPartial c g { lanes := xs, fault := none }

end Sys2Proof.Machine
end

