-- ==== Sys2Proof/Machine/LAtom.lean ====
section
/-!
DEFINITION. Atomics (R242 to R246) and per-lane copies (R247, R248).
-/
namespace Sys2Proof.Machine

/-! ## The new value (R242) -/

/-- The operation of an atomic on 32 bits. -/
def atom32 (op : Nat) (ty : LTy) (old c comparand : Word) : Word :=
  match op with
  | 0 | 1 | 2 | 3 | 4 | 5 => (redStep op ty old c).1
  | 6 => c
  | 7 => if c.toNat ≤ old.toNat then 0 else old + 1
  | _ => if old = comparand then c else old

/-- The operation of an atomic on 64 bits. -/
def atom64 (op : Nat) (old c comparand : DWord) : DWord :=
  match op with
  | 0 => old + c
  | 3 => old &&& c
  | 4 => old ||| c
  | 5 => old ^^^ c
  | 6 => c
  | _ => if old = comparand then c else old

/-- The new value at a location; `cas` compares with the comparand whatever the operation field holds (R244). -/
def atomNew (op : BitVec 4) (ty : LTy) (cas : Bool) (old c comparand : DWord) : DWord :=
  let k := if cas then 8 else op.toNat
  if ty = .b64 then atom64 k old c comparand
  else (atom32 k ty (old.setWidth 32) (c.setWidth 32) (comparand.setWidth 32)).setWidth 64

/-- The width of an atomic in bytes. -/
def atomWidth (f : LF) : Nat := if f.ty = .b64 then 8 else 4

/-- OP, W2[26:23]. -/
def atomOp (f : LF) : BitVec 4 := BitVec.ofNat 4 (bitsOf f.w2.toNat 26 23)

/-- Source C at the width of an atomic. -/
def LaneCtx.atomC (c : LaneCtx) (f : LF) (l : Nat) : DWord := if f.ty = .b64 then c.c64 f l else (c.c32 f l).setWidth 64

/-- v[d] at the width of an atomic, the comparand. -/
def LaneCtx.atomD (c : LaneCtx) (f : LF) (l : Nat) : DWord :=
  if f.ty = .b64 then (c.who.g.lane l).getPair f.d.toNat else ((c.who.g.lane l).get f.d.toNat).setWidth 64

/-! ## Returning atomics -/

/-- The logged value of lane `l`'s instruction of ordinal `o` (R383). -/
def Region.loggedL (r : Region) (l o : Nat) : Option DWord := (r.log.find? fun v => v.lane = some l && v.ordinal = o).map (·.value)

/-- The elements of a returning atomic: a lane whose effect was released before a strike takes its logged value (R386). -/
def LaneCtx.atomParts (c : LaneCtx) (s : State) (n : Nat) (xs : List LaneAcc) : List Part :=
  let live := (c.who.g.countLanes (xs.map (·.lane))).2
  xs.map fun x =>
    let base : Part := {
      lane := x.lane, n := n, ea := x.ea, place := (x.us.head?.map (·.place)).getD (.home 0)
      gen := s.genStamp c.who.core c.who.ctx }
    if live.contains x.lane then base
    else match c.who.g.region with
      | some r => { base with value := some (leBytes n ((r.loggedL x.lane (r.nextL x.lane)).getD 0).toNat) }
      | none => base

/-- The log keys of a returning atomic: each lane's ordinal. -/
def LaneCtx.atomKeys (c : LaneCtx) (xs : List LaneAcc) : Tbl Nat :=
  match c.who.g.region with
  | some r => xs.map fun x => (x.lane, r.nextL x.lane)
  | none => []

/-- What an atomic does with its result: nothing, an answer that only acquires, or v[d]. -/
def atomDst (f : LF) (n : Nat) (ret ar : Bool) : Option ReqDst :=
  if ret then some (.lanes f.d n false none) else if ar then some .silent else none

/-- The atomics of an issue, sent for the lanes `r` names (R243, R244, R246): in quarantine, each a release first when AR, with the
request that their answers fill, which an issue of the remaining lanes takes up again. `kind` makes a lane's operation, given its element of the request. -/
def State.issueAtomics (s : State) (c : LaneCtx) (f : LF) (ret ar : Bool) (r : Sent)
    (kind : LaneAcc → RUnit → Option (Nat × Nat) → MsgKind) : Out :=
  let n := atomWidth f
  let g := c.who.g
  if ret && c.doneBefore = 0 && g.logFull && !c.act.isEmpty then s.laneTrap c 0x01 5 0
  else
    let rid := c.issueNo s + 1
    let old := (aget s.reqs rid).filter fun q => q.gid = c.who.gid && q.atomic
    let dst := atomDst f n ret ar
    let ix := fun l => (old.map (·.parts.length)).getD 0 + (r.lanes.map (·.lane)).idxOf l
    let g0 := if ret && c.doneBefore = 0 && !c.act.isEmpty then g.addReturning else g
    let g1 := g0.quarSent s.cycle r.lanes fun x => x.us.map fun u =>
      let m := c.msgAt s (kind x u (dst.map fun _ => (rid, ix x.lane))) x u
      if ar then .releaseThen (some (scopeOfL f)) m 0 0 else .msg m
    match dst with
    | none => s.endPartial c g1 r
    | some d =>
      let parts := c.atomParts s n r.lanes
      let zeros := if ret then c.demoted else []
      if parts.isEmpty && zeros.isEmpty then s.endPartial c g1 r
      else
        let q0 := { c.req s d parts zeros with
          atomic := true, llog := c.atomKeys r.lanes, acquire := if ar then some (scopeOfL f) else none }
        let q := match old with
          | some o => { q0 with parts := o.parts ++ parts, llog := o.llog ++ q0.llog, since := o.since }
          | none => q0
        { s with reqs := aset s.reqs rid q, nextId := s.nextId + 1 }.endPartial c (g1.emptyDst d) r

/-- The message kind of an atomic at a place. -/
def atomKind (f : LF) (op : BitVec 4) (cas : Bool) (cv dv : DWord) (u : RUnit) (req : Option (Nat × Nat)) : MsgKind :=
  match u.place with
  | .scratch _ _ => .scratchAtomic (if cas then 8 else op) f.ty cv dv req
  | _ => .atomic op f.ty cv dv cas req

/-- `atom` (R243). -/
def execLAtom (f : LF) (s0 : State) : Out :=
  let n := atomWidth f
  let ret := f.mod5.getLsbD 3
  laneStore s0 f { addrNeed f 20 with dst := if ret then regs1 f.d (n = 8) else [], c := srcRegs f.csel f.c (n = 8) } fun s c =>
    s.issueAtomics c f ret (f.mod5.getLsbD 4) (s.sendLanes c.who .atomic n true (c.ea f 20) c.perform) fun x u req =>
      atomKind f (atomOp f) false (c.atomC f x.lane) 0 u req

/-- `acas` (R244): v[d] is the comparand. -/
def execLAcas (f : LF) (s0 : State) : Out :=
  let n := atomWidth f
  laneStore s0 f { addrNeed f 20 with dst := regs1 f.d (n = 8), c := srcRegs f.csel f.c (n = 8) } fun s c =>
    s.issueAtomics c f true (f.mod5.getLsbD 4) (s.sendLanes c.who .atomic n true (c.ea f 20) c.perform) fun x u req =>
      atomKind f 0 true (c.atomC f x.lane) (c.atomD f x.lane) u req

/-- The scratchpad location of a lane's `spatom`, when its checks pass (R223, R224, R235). -/
def State.spatomPlace (s : State) (c : LaneCtx) (f : LF) (n l : Nat) : Option (Nat × Nat) :=
  let a := c.off20 f l
  if a % n ≠ 0 then none
  else if f.w2.getLsbD 29 then
    (match s.clResolve c.who a n with
     | some (t, o) => if s.teamGone t then none else some (t, o)
     | none => none)
  else if a + n ≤ c.who.lrec.scratch then some (c.who.g.team, a) else none

/-- The access of a lane's `spatom`. -/
def State.spatomAcc (s : State) (c : LaneCtx) (f : LF) (n l : Nat) : LaneAcc :=
  let p := (s.spatomPlace c f n l).getD (0, 0)
  { lane := l, ea := dw (c.off20 f l), us := [{ off := 0, n := n, place := .scratch p.1 p.2, attr := {} }] }

/-- `spatom` (R246): all-or-nothing. -/
def execLSpatom (f : LF) (s0 : State) : Out :=
  let n := atomWidth f
  let ret := f.mod5.getLsbD 3
  laneStore s0 f { dst := if ret then regs1 f.d (n = 8) else [], a := [f.a.toNat], c := srcRegs f.csel f.c (n = 8) } fun s c =>
    match c.perform.find? fun l => (s.spatomPlace c f n l).isNone with
    | some l => s.laneTrap c 0x06 0 (dw (c.off20 f l))
    | none =>
      s.issueAtomics c f ret false { lanes := c.perform.map (s.spatomAcc c f n), fault := none } fun x _ req =>
        .scratchAtomic (atomOp f) f.ty (c.atomC f x.lane) (if atomOp f = 8 then c.atomD f x.lane else 0) req

/-! ## apush (R245) -/

/-- The lanes of a list of accesses that name an address, ascending. -/
def lanesAt (xs : List LaneAcc) (ea : DWord) : List Nat := (xs.filter fun x => x.ea = ea).map (·.lane)

/-- The combination of the lanes that name one address: a left fold in ascending order. -/
def LaneCtx.combine (c : LaneCtx) (f : LF) : List Nat → Word
  | [] => 0
  | l :: ls => ls.foldl (fun acc k => (redStep (atomOp f).toNat f.ty acc (c.c32 f k)).1) (c.c32 f l)

/-- The operation that is sent for an address: by its lowest lane, for every lane that names it. -/
def LaneCtx.pushOp (c : LaneCtx) (s : State) (f : LF) (xs : List LaneAcc) (live : List Nat) (x : LaneAcc) : List Effect :=
  let ls := (lanesAt xs x.ea).filter fun l => live.contains l
  if ls.head? = some x.lane then
    x.us.map fun u =>
      .msg { c.msgAt s (atomKind f (atomOp f) false ((c.combine f ls).setWidth 64) 0 u none) x u with covers := ls }
  else []

/-- `apush` (R245): lanes whose effect was released before a strike take no part in a replay (R386). -/
def execLApush (f : LF) (s0 : State) : Out :=
  laneStore s0 f { addrNeed f 20 with c := srcRegs f.csel f.c false } fun s c =>
    let r := s.sendLanes c.who .atomic 4 true (c.ea f 20) c.perform
    let live := (c.who.g.countLanes (r.lanes.map (·.lane))).2
    s.endPartial c (c.who.g.quarSent s.cycle r.lanes (c.pushOp s f r.lanes live)) r

/-! ## cpl (R247, R248) -/

/-- N of a per-lane copy. -/
def cplBytes (f : LF) : Nat := 4 * 2 ^ bitsOf f.w2.toNat 16 15

/-- The barrier of a per-lane copy: its offset in the issuing team's scratchpad. -/
def cplBar (f : LF) : Option Nat := if f.w2.getLsbD 31 then none else some (32 * bitsOf f.w2.toNat 30 17)

/-- The scratchpad side of a lane fails: misaligned, or beyond SCRATCH. -/
def LaneCtx.cplSpBad (c : LaneCtx) (f : LF) (l : Nat) : Bool :=
  let o := (c.c32 f l).toNat
  o % cplBytes f ≠ 0 || c.who.lrec.scratch < o + cplBytes f

/-- The lanes of a per-lane copy that are sent: the pages of R237, each lane's scratchpad offset checked with its page. -/
def State.cplSend (s : State) (c : LaneCtx) (f : LF) : Sent :=
  let r := s.sendLanes c.who (if f.mod5.getLsbD 3 then .write else .read) (cplBytes f) true (c.ea f 12) c.perform
  match r.lanes.find? fun x => c.cplSpBad f x.lane with
  | none => r
  | some x =>
    let before := match r.fault with
      | some y => (c.perform.find? fun l => c.ea f 12 l = y.2).any fun l => l < x.lane
      | none => false
    { lanes := r.lanes.filter fun y => !c.cplSpBad f y.lane, fault := if before then r.fault else some (0x06, x.ea), lane := if before then r.lane else x.lane }

/-- The transfer of a lane. -/
def LaneCtx.cplEffect (c : LaneCtx) (s : State) (f : LF) (x : LaneAcc) : List Effect :=
  x.us.map fun u => .perLaneCopy (!f.mod5.getLsbD 3) (c.msgAt s (.store [] 0 false) x u) c.who.g.team (c.c32 f x.lane).toNat
    (cplBytes f) (cplBar f) (scopeOfL f)

/-- The credit of a demoted lane: N bytes, nothing moved (R165, R248). -/
def LaneCtx.cplDemoted (c : LaneCtx) (s : State) (f : LF) (l : Nat) : LaneAcc × List Effect :=
  let n := cplBytes f
  ({ lane := l, ea := c.ea f 12 l, us := [] },
   match cplBar f with
   | none => []
   | some o => [.msg (c.tag s [l] {
       kind := .barCredit n none, gid := c.who.gid, core := c.who.core, ctx := c.who.ctx
       gen := s.genStamp c.who.core c.who.ctx, ea := dw (o + c.who.team.member * 2 ^ 20), place := .scratch c.who.g.team o })])

/-- `cpl` (R247). A demoted lane's credit takes its place in the quarantine with the instruction. -/
def execLCpl (f : LF) (s0 : State) : Out :=
  laneStore s0 f { addrNeed f 12 with c := srcRegs f.csel f.c false } fun s c =>
    let r := s.cplSend c f
    let dem := (c.demoted.filter fun l => !c.doneBefore.getLsbD l).map (c.cplDemoted s f)
    let g := c.who.g.quarSent s.cycle (dem.map (·.1) ++ r.lanes) fun x =>
      if x.us.isEmpty then ((dem.find? fun y => y.1.lane = x.lane).map (·.2)).getD [] else c.cplEffect s f x
    s.endPartial c g r

end Sys2Proof.Machine
end

