-- ==== Sys2Proof/Machine/Homes.lean ====
section
/-!
DEFINITION. What a home does with an access that reaches it (R50, R219, R228, R231, R319, R375, R400): its order after the group's
earlier accesses, its fate, and what a rejection does to the group.
-/
namespace Sys2Proof.Machine

/-! ## Order at a home (R143, R228, R236, R376) -/

/-- A write-back of the core on its way to bytes of [p, p + n) (R222). -/
def Msg.isWriteBack (m : Msg) : Bool := match m.kind with
  | .store _ _ wb => wb
  | _ => false

/-- The streams whose windows a message does not fall into (R280): those of its own group behind it, and for a write-back those of its core,
which its stores met when they were written. -/
def Msg.outOf (m : Msg) (id : Nat) (x : Stream) : Bool := x.follows id m.gid m.issue || (m.isWriteBack && x.core = m.core)

/-- Something that the access of issue `issue` and lane `lane` must follow has not reached its home: an earlier message of the group to these
bytes, of a lower lane too (R236), an earlier one of another generation to this line (R376), one that a release holds back, a write-back of the core. -/
def State.behind (s : State) (gid : Nat) (core : CoreKey) (gen : BitVec 12) (issue id : Nat) (p : Place) (n : Nat) (lane : Nat := 0) : Bool :=
  (s.net.any fun x =>
    let m := x.2
    (m.gid = gid && gid ≠ 0 && m.standing && (m.precedes issue lane || (m.issue = issue && m.lane = lane && x.1 < id)) &&
      (m.place.meets m.kind.len p n || (m.gen ≠ gen && m.place.sameLine p))) ||
    (m.isWriteBack && m.core = core && x.1 < id && m.place.meets m.kind.len p n)) ||
  (s.rels.any fun r => r.2.after.any fun m => m.gid = gid && gid ≠ 0 && m.precedes issue lane && m.place.meets m.kind.len p n)

/-- A store message of the core to these bytes that was sent before load `id` issued is on its way (R229): L1 may have shown it to the core's
parties, so the load must not be served at the home before it (R295). -/
def State.coreStore (s : State) (core : CoreKey) (c id : Nat) (p : Place) (n : Nat) : Bool :=
  s.net.any fun x => x.1 < id && x.2.core = core && x.2.ctx = c && x.2.standing && (match x.2.kind with
    | .store _ _ _ => x.2.place.meets x.2.kind.len p n
    | _ => false)

/-- An earlier `cpl` of the lane has still to move bytes of [p, p + n) (R236). -/
def State.cplBefore (s : State) (gid lane issue : Nat) (p : Place) (n : Nat) : Bool :=
  s.copies.any fun x => x.2.perLane && x.2.gid = gid && x.2.lane = lane && x.2.issue < issue && x.2.reject.isNone &&
    (match s.resolve x.2.core x.2.ctx x.2.team 524288 .read (x.2.args.getD 0 0) 1 with
     | .ok q _ => q.meets (x.2.args.getD 2 0).toNat p n
     | .bad _ => false)

/-- A load part waits for earlier accesses of its group, and for write-backs and stores of its core (R143, R222, R228, R295, R376). -/
def State.partBlocked (s : State) (id : Nat) (q : Req) (p : Part) : Bool :=
  (q.lane && s.cplBefore q.gid p.lane id p.place p.n) || s.behind q.gid q.core p.gen id s.nextId p.place p.n || s.olderPart q.gid id p.place p.n ||
    s.olderTag q.gid id p.gen p.place || s.coreStore q.core q.ctx id p.place p.n

/-- A message waits for the persist barrier that holds it (R353) and for earlier accesses of its group. -/
def State.msgBlocked (s : State) (id : Nat) (m : Msg) : Bool :=
  s.msgHeld m || (m.isLane && s.cplBefore m.gid m.lane m.issue m.place m.kind.len) || s.behind m.gid m.core m.gen m.issue id m.place m.kind.len m.lane ||
    (m.gid ≠ 0 && (s.olderPart m.gid m.issue m.place m.kind.len || s.olderTag m.gid m.issue m.gen m.place))

/-! ## Fates (R50, R219, R231, R400) -/

/-- What becomes of an access at its home. -/
inductive Fate
  | serve
  | stale
  | bad (code : BitVec 8)
deriving DecidableEq, Repr

/-- The fate of an access of context `c` to [pa, pa + n): its generation, the world of the address, and poison for what reads. -/
def State.fate (s : State) (c : Nat) (gen : BitVec 12) (pa n : Nat) (reads : Bool) : Fate :=
  if gen ≠ (s.ctx c).gen then .stale
  else if s.aperture pa == .none then .bad 0x06
  else if !s.worldOk (s.ctx c).secure pa || s.aperture pa == .reserved then .bad 0x08
  else if reads && s.poisonIn pa n then .bad 0x09
  else .serve

/-- An offset lies beyond the team's SCRATCH (R223). -/
def State.beyond (s : State) (t off : Nat) : Bool :=
  match aget s.teams t with
  | some x => (match aget s.launches x.launch with
    | some l => l.lrec.scratch < off
    | none => true)
  | none => true

/-- The fate of an access to [off, off + n) of a team's scratchpad at its core (R224, R401). -/
def State.scratchFate (s : State) (t off n : Nat) (reads : Bool) : Fate :=
  match aget s.teams t with
  | none => .bad 0x06
  | some x =>
    if x.retired || x.lost || s.beyond t (off + n) then .bad 0x06 else if reads && x.spPoisoned off n then .bad 0x09 else .serve

/-- The message reads what it writes. -/
def MsgKind.reads : MsgKind → Bool
  | .atomic _ _ _ _ _ _ | .scratchAtomic _ _ _ _ _ | .roundReg _ _ _ _ | .roundArrive _ _ => true
  | .barArm _ | .barLanes _ | .barGroup _ _ | .barCredit _ _ => true
  | .store _ _ _ | .scratchStore _ | .barInit _ => false

/-- `binit` is refused when the team's live-barrier record is full: an illegal instruction (R284). -/
def State.initRefused (s : State) (m : Msg) : Bool :=
  match m.kind, m.place with
  | .barInit v, .scratch t o => (match aget s.teams t with
    | some x => (x.barInit o v 0).isNone
    | none => true)
  | _, _ => false

/-- The bytes that a message reads at its home for poison: a region record's 64 for the round instructions. -/
def MsgKind.span : MsgKind → Nat
  | .roundReg _ _ _ _ | .roundArrive _ _ => 64
  | k => k.len

/-- The fate of a message where it arrives. -/
def State.msgFate (s : State) (m : Msg) : Fate :=
  match m.place with
  | .home pa =>
    match s.fate m.ctx m.gen pa m.kind.span m.kind.reads, m.kind with
    | .serve, .roundArrive _ _ => (match s.regionAt pa with
      | .valid _ => .serve
      | _ => .bad 0x06)
    | f, _ => f
  | .scratch t o =>
    match s.scratchFate t o m.kind.len m.kind.reads with
    | .serve => if s.initRefused m then .bad 0x01 else .serve
    | f => f
  | .remote _ _ => .serve

/-- Cycles since the start of the period in which the die's noted slot began (R226): the rotation goes by the cycle, whether or not its events have
come. -/
def Die.wsTime (d : Die) (now : Nat) : Nat := d.wsBank * 13600 + (now - d.wsOrigin)

/-- The bank whose slot is current, and whether it is refreshing (R226, R227). -/
def Die.slotBank (d : Die) (now : Nat) : Nat := d.wsTime now / 13600 % 8
def Die.refreshing (d : Die) (now : Nat) : Bool := d.wsTime now % 13600 < 3400

/-- A bank of a weight store is refreshing (R226). -/
def State.bankBusy (s : State) (pa : Nat) : Bool :=
  wsBase ≤ pa && pa < wsEnd &&
    (let d := s.die ((pa - wsBase) / 2 ^ 29)
     d.refreshing s.cycle && d.slotBank s.cycle = (pa - wsBase) % 2 ^ 29 / 2 ^ 26)

/-- Stripe of the shard that is being rebuilt (R415, R418) and holds the address. -/
def stripeBytes : Nat := 49152

/-- SL, the shard length (R414). -/
def State.shardLen (s : State) : Nat := (s.lehr.liveLen.toNat + 256 + stripeBytes - 1) / stripeBytes * stripeBytes

/-- The address lies in a stripe that the adopter has not rebuilt yet (R418). -/
def State.rebuilding (s : State) (pa : Nat) : Bool :=
  let base := s.cullet.adoptBase.toNat
  s.cullet.serving && !s.cullet.done && base ≤ pa && pa < base + s.shardLen &&
    !(s.cullet.stripes ++ s.cullet.failedStripes).contains ((pa - base) / stripeBytes)

/-- The home die has a failed slice without a spare and has not switched to 480 slices yet (R406). -/
def State.switching (s : State) (pa : Nat) : Bool :=
  let d := s.die (s.homeDie pa)
  pa < wsBase && 16 < d.sdead && !d.n480

/-- The home cannot serve the address yet: a refreshing bank (R226), a stripe not yet rebuilt (R418), a die that switches (R406). -/
def State.homeBusy (s : State) (pa : Nat) : Bool := s.bankBusy pa || s.rebuilding pa || s.switching pa

/-- The fate of a part of a load. A `rnd.get` of an invalid record faults (R321). -/
def State.partFate (s : State) (q : Req) (p : Part) : Fate :=
  match p.place with
  | .home pa =>
    match s.fate q.ctx p.gen pa p.n true, q.dst with
    | .serve, .roundGet _ _ _ => (match s.regionAt pa with
      | .valid _ => .serve
      | _ => .bad 0x06)
    | f, _ => f
  | .scratch t o => s.scratchFate t o p.n true
  | .remote _ _ => .serve

/-! ## Rejections -/

/-- A part changed. -/
def State.modPart (s : State) (id ix : Nat) (f : Part → Part) : State :=
  { s with reqs := amod s.reqs id fun q => { q with
      parts := (List.range q.parts.length).filterMap fun i => q.parts[i]?.map fun p => if i = ix then f p else p } }

/-- A part served. -/
def State.fillPart (s : State) (id ix : Nat) (bytes : List Byte) : State := s.modPart id ix fun p => { p with value := some bytes }

/-- The element of a producer that a message answers takes its value. -/
def State.answer (s : State) (r : Option (Nat × Nat)) (bytes : List Byte) : State :=
  match r with
  | some (id, ix) => s.fillPart id ix bytes
  | none => s

/-- The rejected part of lowest lane. -/
def Req.worst (q : Req) : Option Part :=
  (q.parts.filter fun p => p.reject.isSome).foldl (fun acc p => match acc with
    | none => some p
    | some b => if p.lane < b.lane then some p else some b) none

/-- The fetch of code from another package has faulted: the S word, or the lane instruction of the sub-gang that stands there. -/
def State.fetchFault (s : State) (w : Who) (va : DWord) (code : BitVec 8) : State :=
  let pc := w32 ((va.toNat - w.lrec.lbase.toNat) / 12)
  match w.g.slices.findSome? fun x => x.2.head?.bind fun r => if r.pc = pc && va ≠ w.g.spc then some r.depth else none with
  | some d =>
    let slices := w.g.gang pc d
    match s.laneTrap { who := w, pc := pc, depth := d, slices := slices, lanes := w.g.gangLanes slices, act := [] } code 0 va with
    | .next t => t
    | _ => s
  | none => s.takeCause w.gid { code := code, pc := w.g.spc, addr := va } true

/-- A load of which every part is served or rejected, and some part rejected for another cause than its generation, faults (R144,
R237): the lowest lane's cause is taken and the destination is as R144 and R237 leave it. -/
def State.verdict (s : State) (id : Nat) : State :=
  match aget s.reqs id with
  | none => s
  | some q =>
    if q.faulted || q.atomic || !q.parts.all Part.settled || q.parts.any (fun p => p.reject = some 0x07) then s
    else match q.worst with
      | none => s
      | some p =>
        let code := p.reject.getD 0
        match q.dst with
        | .record => s
        | .none =>
          (match s.who q.gid with
           | some w => { s with reqs := adel s.reqs id }.fetchFault w q.pc code
           | none => { s with reqs := adel s.reqs id })
        | _ =>
          let dm := match aget s.groups q.gid with
            | some g => g.trap.donemask
            | none => 0
          let s1 := { (s.faultDst q.gid q.dst) with reqs := aset s.reqs id { q with faulted := true } }
          s1.takeLate q.gid { code := code, lane := q.lane, late := true, pc := q.pc, lpc := q.lpc, addr := p.ea, donemask := dm }

/-- A part of a load was rejected by cause `code`. -/
def State.refusePart (s : State) (id ix : Nat) (code : BitVec 8) : State :=
  (s.modPart id ix fun p => { p with reject := some code, sent := none }).verdict id

/-- Reads of ECC words write corrections back (R398). -/
def State.eccTouch (s : State) (pa n : Nat) : State :=
  (List.range (n / 32 + 2)).foldl (fun st i => if 32 * (pa / 32 + i) < pa + n then st.eccServe (32 * (pa / 32 + i)) else st) s

/-- A home's read that met poison writes an uncorrectable word back poisoned (R398). -/
def State.touchFor (s : State) (place : Place) (n : Nat) (code : BitVec 8) : State :=
  match place with
  | .home pa => if code = 0x09 then s.eccTouch pa n else s
  | _ => s

/-- A home of this package rejects a part of a load by cause `code`; a world fault is counted here (R50). -/
def State.rejectPart (s : State) (id ix : Nat) (code : BitVec 8) : State :=
  let s1 := match (aget s.reqs id).bind fun q => q.parts[ix]? with
    | some p => s.touchFor p.place p.n code
    | none => s
  (s1.noteWorld code).refusePart id ix code

/-- A part is rejected for its generation (R375): the core stops both streams of the group. -/
def State.stalePart (s : State) (id ix : Nat) (gid : Nat) : State :=
  (s.modPart id ix fun p => { p with reject := some 0x07, sent := none }).modGroup gid fun g => { g with staleWait := true }

/-- A message is rejected for its generation (R375). -/
def State.staleMsg (s : State) (id : Nat) : State :=
  match aget s.net id with
  | none => s
  | some m =>
    { s with net := aset s.net id { m with rejected := some 0x07, sentOut := false } }.modGroup m.gid fun g =>
      { g with staleWait := true, rejected := g.rejected ++ [id] }

/-- The message was an update of a barrier object (R290, R291). -/
def MsgKind.isBarrier : MsgKind → Bool
  | .barInit _ | .barArm _ | .barLanes _ | .barGroup _ _ | .barCredit _ _ => true
  | _ => false

/-- The message is an engine's credit or arrival (R257, R276, R334), or a lane transfer's credit (R248). -/
def MsgKind.isCredit : MsgKind → Bool
  | .barCredit _ _ | .barGroup _ (some _) => true
  | _ => false

/-- The command that an engine's credit or arrival belongs to: a copy, a batch or a collective command. -/
def MsgKind.engine : MsgKind → Option Nat
  | .barCredit _ i | .barGroup _ i => i
  | _ => none

/-- The copy with a fault recorded (R256): `key` is its place in the order of the elements. -/
def Copy.fault (c : Copy) (key cause : Nat) (addr : DWord) : Copy :=
  { c with faults := { key := key, cause := cause, pc := c.pc, addr := addr } :: c.faults }

/-- The collective command with a fault recorded after those it has (R334). -/
def Coll.fault (c : Coll) (key cause : Nat) (addr : DWord) : Coll :=
  { c with faults := c.faults ++ [{ key := key, cause := cause, pc := c.pc, addr := addr }] }

/-- A message was rejected by cause `code` (R144, R237, R290): a barrier update is dropped, a copy's credit is dropped and noted
in its copy or taken as a late fault of the lane (R257), a round instruction traps precisely, any other access stands rejected until it is repeated or given up. A write-back is dropped. -/
def State.refuseMsg (s : State) (id : Nat) (code : BitVec 8) : State :=
  match aget s.net id with
  | none => s
  | some m =>
    if m.gid = 0 then { s with net := adel s.net id }
    else match m.kind with
      | .roundReg _ _ _ _ | .roundArrive _ _ =>
        ({ s with net := adel s.net id }.modGroup m.gid Group.undoWord).takeCause m.gid
          { code := code, pc := m.pc, addr := m.ea } true
      | k =>
        if k.isCredit && k.engine.isNone then
          { s with net := adel s.net id }.takeLate m.gid (m.cause code m.gang)
        else if k.isCredit then
          { s with
            net := adel s.net id
            copies := amod s.copies (k.engine.getD 0) fun x => x.fault (2 ^ 64) 1 m.ea
            colls := amod s.colls (k.engine.getD 0) fun x => x.fault (2 ^ 64) 1 m.ea
            batches := amod s.batches (k.engine.getD 0) fun x => { x with
              faults := { key := id * 2 ^ 64, cause := 1, pc := x.pc, addr := m.ea } :: x.faults } }
        else if k.isBarrier then
          let dm := match aget s.groups m.gid with
            | some g => g.trap.donemask
            | none => 0
          let c := m.cause code dm
          ({ s with net := adel s.net id }.faultReq m).takeLate m.gid (if code = 0x01 then { c with addr := 0 } else c)
        else
          ({ s with net := aset s.net id { m with rejected := some code, sentOut := false } }.modGroup m.gid fun g =>
            { g with rejected := g.rejected ++ [id] }).msgVerdict m

/-- A home of this package rejects a message by cause `code`; a world fault is counted here (R50). -/
def State.rejectMsg (s : State) (id : Nat) (code : BitVec 8) : State :=
  match aget s.net id with
  | some m => ((s.touchFor m.place m.kind.len code).noteWorld code).refuseMsg id code
  | none => s

/-- DONEMASK clears when the last lane of the instruction that it names is done (R237). -/
def State.closeIssue (s : State) (gid issue : Nat) : State :=
  if !(aget s.groups gid).any (fun g => g.dmIssue = some issue) || (s.net.any fun x => x.2.gid = gid && x.2.issue = issue) || (s.rels.any fun r => r.2.after.any fun x => x.gid = gid && x.issue = issue) ||
    s.copies.any fun x => x.2.perLane && x.2.gid = gid && x.2.issue = issue
  then s
  else s.modGroup gid fun g => { g with dmIssue := none, trap := { g.trap with donemask := 0 } }

/-- A message has been performed: it is gone, and its instruction's fault is taken when it was the last on its way. -/
def State.arrived (s : State) (id : Nat) (m : Msg) : State :=
  let s1 := { s with net := adel s.net id }
  if m.gid = 0 then s1 else (s1.msgVerdict m).closeIssue m.gid m.issue

/-! ## Round counters at homes (R312, R319) -/

/-- The key of a line home's copy of a region's counter. -/
def rclKey (c i die slice : Nat) : Nat := ((c * 4096 + i) * 16 + die) * 512 + slice

/-- The counter of a region is asked of its home on another package, once (R312, R326). -/
def State.askCounter (s : State) (c i : Nat) : State :=
  match s.walk c (regionVa i) with
  | .leaf l =>
    if l.pkg = s.self || s.devAsks.any fun d => d.2 == .counter c i then s
    else (s.askDevice c l.pkg (l.pa + 24) (.load 4 none) (.counter c i)).2
  | .bad _ => s

/-- The line home's copy of the counter, obtained from the region home before the first request is served (R312). -/
def State.rclAt (s : State) (c i pa : Nat) : Option Word × State :=
  if s.regionPkg c i ≠ s.self then
    (match s.regionValue c i with
     | some v => (some v, s)
     | none => (none, s.askCounter c i))
  else
    let key := rclKey c i (s.homeDie pa) (s.homeSlice pa)
    match aget s.rcls key with
    | some v => (some v, s)
    | none =>
      match s.regionValue c i with
      | some v => (some v, { s with rcls := aset s.rcls key v })
      | none => (none, s)

/-- A load held for its round would be served now (R319): its home checks its generation only then. -/
def State.roundMet (s : State) (q : Req) (p : Part) : Bool :=
  match p.region, p.place with
  | some (i, need), .home pa =>
    (q.now && !p.asLd) || (match (s.rclAt q.ctx i pa).1 with
      | some v => decide (need.toNat ≤ v.toNat)
      | none => false)
  | _, _ => true

/-! ## Serving loads -/

/-- Bytes at the home as a reader of the package sees them: an accumulator element inside its command's window is undefined (R280), but for
the streams that `out` names. -/
def State.readHome (s : State) (pa n : Nat) (out : Nat → Stream → Bool := fun _ _ => false) : List Byte × State :=
  let s1 := s.eccTouch pa n
  if s1.readsWindow pa n out then s1.drawBytes n else (cellsRead s1.mem pa n, s1)

/-- The core's own dirty words of the line, which an engine's read takes before its home's bytes (R221). -/
def State.ownDirty (s : State) (k : CoreKey) (c pa n : Nat) : List (Option Byte) :=
  match (s.core k).l1Find c (pa / 128 * 128) with
  | some x => (x.dirtyBytes.drop (pa % 128)).take n
  | none => []

/-- The core's dirty words in [pa, pa + n) take their place at their home, before an accumulation there: they are earlier writes of the core (R221,
R228), and their stores have noted the windows that were open. -/
def State.settleOwn (s : State) (k : CoreKey) (c pa n : Nat) : State :=
  let own := s.ownDirty k c pa n
  if own.all Option.isNone then s
  else (s.accWrite pa own s.stepTag false).2.modCore k fun core =>
    { core with l1 := core.l1.map fun x => if x.ctx = c && x.pa = pa / 128 * 128 then x.cleanIn pa n else x }

/-- The core's valid words of the line, which a load takes before its home's bytes (R221): clean ones only from a copy that serves its need. -/
def State.ownValid (s : State) (k : CoreKey) (c pa n : Nat) (need : Option (Nat × Word)) : List (Option Byte) :=
  match (s.core k).l1Find c (pa / 128 * 128) with
  | some x => if x.serves (s.core k) c need then ((x.validBytes.drop (pa % 128)).take n) else s.ownDirty k c pa n
  | none => []

/-- Some write of the core to the line is on its way. -/
def State.lineInFlight (s : State) (k : CoreKey) (ln : Nat) : Bool :=
  s.net.any fun x => x.2.core = k && x.2.place.meets x.2.kind.len (.home ln) 128

/-- The line filled from its home (R221, R316), where the page may be held in L1. -/
def State.fillL1 (s : State) (k : CoreKey) (c pa : Nat) (a : PageAttr) (region : Option (Nat × Word)) : State :=
  let ln := pa / 128 * 128
  let s1 := s.l1Claim k c ln
  if (s1.core k).hasL1 && s1.cacheable pa a && !s1.poisonIn ln 128 && !s1.readsWindow ln 128 && !s1.lineInFlight k ln then
    ((s1.eccTouch ln 128).l1Room k c ln).modCore k fun x => x.l1Put ((((x.l1Find c ln).getD { pa := ln, ctx := c }).fill (cellsRead s1.mem ln 128) region))
  else s1

/-- A part of a load served at its home (R221, R319): bytes, the own core's valid words, the party's own quarantined bytes. -/
def State.serveBytes (s : State) (id ix : Nat) (q : Req) (p : Part) (pa : Nat) (tag : Option (Nat × Word)) (stale : Bool) : State :=
  let before := fun (i : Nat) (x : Stream) => x.follows i q.gid id
  let r := s.readHome pa p.n before
  let s1 := r.2.fillL1 q.core q.ctx pa p.attr tag
  let own := if s1.cacheable pa p.attr && !s.readsWindow pa p.n before then s.ownValid q.core q.ctx pa p.n p.region else []
  (s1.modPart id ix fun x => { x with value := some (overlay p.fwd (overlay own r.1)), stale := stale }).verdict id

/-- A part of a load at its home: served, or held until the line home's counter meets its need (R319, R323). -/
def State.serveHome (s : State) (id ix : Nat) (q : Req) (p : Part) (pa : Nat) : State :=
  match p.region with
  | none => s.serveBytes id ix q p pa none false
  | some (i, need) =>
    let r := s.rclAt q.ctx i pa
    match r.1 with
    | none => r.2
    | some rcl =>
      if need.toNat ≤ rcl.toNat || (q.now && !p.asLd) then r.2.serveBytes id ix q p pa (some (i, rcl)) (decide (rcl.toNat < need.toNat))
      else (if p.sent.isNone then r.2.tellDemand q.ctx i need else r.2).modPart id ix fun x => { x with sent := some (x.sent.getD s.cycle) }

/-- A part of a load reaches its home (R228): served when nothing stands before it and its fate is to be served. A read of a refreshing
weight-store bank waits (R226). -/
def State.servePart (s : State) (id ix : Nat) : State :=
  match aget s.reqs id with
  | none => s
  | some q =>
    match q.parts[ix]? with
    | none => s
    | some p =>
      match p.place with
      | .home pa =>
        if p.settled || q.atomic || q.faulted || s.homeBusy pa || s.partBlocked id q p || s.partFate q p ≠ .serve then s
        else match q.dst with
          | .roundGet _ _ _ => s.serveBytes id ix q { p with region := none, attr := { nc := true } } pa none false
          | _ => s.serveHome id ix q p pa
      | _ => s

end Sys2Proof.Machine
end

