-- ==== Sys2Proof/Machine/Copies.lean ====
section
/-!
DEFINITION. Accesses of engines (R256, R269, R303, R323) and the copies of the copy engines and of `cpl` (R247 to R259, R351).
-/
namespace Sys2Proof.Machine

/-! ## Engine accesses -/

/-- Whose accesses an engine makes: the group, its core, context and team, SCRATCH, the generation that its requests carry, and the
number of the command, which places it among the group's accesses. -/
structure Eng where
  gid : Nat
  core : CoreKey
  ctx : Nat
  team : Nat
  size : Nat
  gen : BitVec 12
  issue : Nat
deriving DecidableEq, Repr

/-- What an engine read answers. -/
inductive EngRead
  | wait (s : State)
  | bad (code : BitVec 8)
  | poison (s : State)
  | ok (bytes : List Byte) (s : State)
  | remote (pkg pa : Nat) (need : Option (Nat × Word))
deriving DecidableEq, Repr

/-- SCRATCH of a team. -/
def State.scratchOf (s : State) (t : Nat) : Nat :=
  match aget s.teams t with
  | some x => (match aget s.launches x.launch with
    | some l => l.lrec.scratch
    | none => 0)
  | none => 0

/-- A read at its home (R252, R269): fate, floor (R323), poison, the own core's dirty words. -/
def State.engHome (s : State) (e : Eng) (ea : DWord) (pa n : Nat) (a : PageAttr) : EngRead :=
  match s.fate e.ctx e.gen pa n false with
  | .stale => .bad 0x07
  | .bad code => .bad code
  | .serve =>
    let nd := s.loadNeed e.core e.ctx ea
    let held : Option State := match nd.1 with
      | none => none
      | some (i, need) =>
        let r := nd.2.rclAt e.ctx i pa
        match r.1 with
        | some v => if need.toNat ≤ v.toNat then none else some { r.2 with demand := ((e.ctx, i, need) :: r.2.demand).eraseDups }
        | none => some r.2
    match held with
    | some s1 => .wait s1
    | none =>
      if nd.2.poisonIn pa n then .poison (nd.2.eccTouch pa n)
      else
        let own := if nd.2.cacheable pa a then nd.2.ownDirty e.core e.ctx pa n else []
        let r := nd.2.readHome pa n
        .ok (overlay own r.1) r.2

/-- A read of `n` bytes at `ea` by an engine, after the group's earlier accesses to them (R258). -/
def State.engRead (s : State) (e : Eng) (kind : AccKind) (ea : DWord) (n : Nat) : EngRead :=
  match s.resolveAs e.gen e.core e.ctx e.team e.size kind ea n with
  | .bad code => .bad code
  | .ok p a =>
    if s.behind e.gid e.core e.gen e.issue s.nextId p n || (ea.toNat < spWindow && s.unreadTable e.core e.ctx ea) then .wait s
    else match p with
      | .scratch t o =>
        (match aget s.teams t with
         | none => .bad 0x06
         | some x => if x.lost then .bad 0x06 else if x.spPoisoned o n then .poison s else .ok (x.spRead o n) s)
      | .remote pkg pa => .remote pkg pa (s.loadNeed e.core e.ctx ea).1
      | .home pa => if s.homeBusy pa then .wait s else s.engHome e ea pa n a

/-- What an engine write answers; `ok` names the images that a durable write has sent. -/
inductive EngWrite
  | wait
  | bad (code : BitVec 8)
  | poisonedScratch
  | ok (images : List Nat) (s : State)
  | remote (pkg pa : Nat)
deriving DecidableEq, Repr

/-- Poison written over [pa, pa + n) (R256): every ECC word that receives a byte is poisoned. -/
def State.homePoison (s : State) (pa n : Nat) (tag : BitVec 16) (durable : Bool) : List Nat × State :=
  (s.touchStreams pa n).putWrite pa (List.replicate n (some 0)) (touchedBlocks 32 pa (List.replicate n (some 0))) tag durable

/-- The issuing core's L1 copy of bytes written by an engine (R303): updated, or dropped in a round region. -/
def State.l1After (s : State) (k : CoreKey) (c pa : Nat) (bytes : List (Option Byte)) : State :=
  let ln := pa / 128 * 128
  match (s.core k).l1Find c ln with
  | none => s
  | some x =>
    s.modCore k fun core => if x.region.isSome then core.l1Drop c ln else core.l1Put (x.update pa bytes)

/-- Element bytes applied at their home; `none` is poison. -/
def State.engStore (s : State) (e : Eng) (pa n : Nat) (bytes : Option (List Byte)) (tag : BitVec 16) (durable : Bool) : List Nat × State :=
  match bytes with
  | some bs =>
    let r := s.homeWrite pa (bs.map some) tag durable
    (r.1, r.2.l1After e.core e.ctx pa (bs.map some))
  | none =>
    let r := s.homePoison pa n tag durable
    (r.1, r.2.modCore e.core fun core => { core with l1 := core.l1.map fun x => if x.ctx = e.ctx && x.pa = pa / 128 * 128 then x.without pa n else x })

/-- The team's core is retired (R405). -/
def State.teamLost (s : State) (t : Nat) : Bool := (aget s.teams t).any (·.lost)

/-- A write of an engine to `ea` (R252, R254, R256, R351), after the group's earlier accesses to these bytes (R258). -/
def State.engWrite (s : State) (e : Eng) (kind : AccKind) (ea : DWord) (n : Nat) (bytes : Option (List Byte)) (tag : BitVec 16)
    (tierOnly durable : Bool) (wsDie : Option Nat) : EngWrite :=
  match s.resolveAs e.gen e.core e.ctx e.team e.size kind ea n with
  | .bad code => .bad code
  | .ok p _ =>
    if s.behind e.gid e.core e.gen e.issue s.nextId p n || s.olderPart e.gid e.issue p n then .wait
    else match p with
      | .scratch t o =>
        if tierOnly || s.teamLost t then .bad 0x06
        else (match bytes with
          | none => .poisonedScratch
          | some bs => .ok [] (s.spWrite t o bs))
      | .remote pkg pa => if tierOnly && p.persist = 0 then .bad 0x06 else .remote pkg pa
      | .home pa =>
        if tierOnly && p.persist = 0 then .bad 0x06
        else if kind == .weightWrite && wsDie ≠ some ((pa - wsBase) / 2 ^ 29) then .bad 0x06
        else if s.homeBusy pa then .wait
        else match s.fate e.ctx e.gen pa n false with
          | .stale => .bad 0x07
          | .bad code => .bad code
          | .serve =>
            let r := s.engStore e pa n bytes tag durable
            .ok r.1 r.2

/-- The CAUSE of a status word (R365). -/
def engCause (code : BitVec 8) : Nat := if code = 0x07 then 2 else if code = 0x08 then 3 else if code = 0x09 then 4 else 1

/-- The cause that a group takes for an engine's fault (R365). `sub2` is the meaning of CAUSE 5 for a batch. -/
def engFaultCause (f : EngFault) (batch : Bool) : Cause :=
  let code : BitVec 8 := if f.cause = 1 then 0x06 else if f.cause = 2 then 0x07 else if f.cause = 3 then 0x08 else if f.cause = 4 then 0x09
    else if f.cause = 5 then (if batch then 0x01 else 0x06) else 0x01
  let sub : BitVec 8 := if f.cause = 5 then (if batch then 2 else 1) else if f.cause = 6 then 3 else 0
  { code := code, sub := sub, late := true, pc := f.pc, addr := f.addr }

/-- The first fault of a command: the lowest key (R256, R276). -/
def firstFault (fs : List EngFault) : Option EngFault :=
  fs.foldl (fun acc f => match acc with
    | none => some f
    | some b => if f.key < b.key then some f else some b) none

/-! ## Reading a tile (R265) -/

/-- The engine's identity of the latch whose reads are request `rid`. -/
def State.latchEng (s : State) (rid : Nat) (q : Req) : Eng :=
  let w := s.who q.gid
  { gid := q.gid, core := q.core, ctx := q.ctx, team := (w.map (·.g.team)).getD 0, size := (w.map (·.lrec.scratch)).getD 0
    gen := s.genStamp q.core q.ctx, issue := ((s.cmds.find? fun c => c.2.req = some rid).map (·.1)).getD rid }

/-- One read of a tile, made now: served, faulted, to be asked of another package, or waiting. -/
def State.readElem (s : State) (e : Eng) (p : Part) : State × Part :=
  if p.settled || p.sent.isSome then (s, p)
  else match s.engRead e (if spWindow ≤ p.ea.toNat then .read else .weights) p.ea p.n with
    | .wait s1 => (s1, p)
    | .bad code => (s.noteWorld code, { p with reject := some code })
    | .poison s1 => (s1, { p with reject := some 0x09 })
    | .ok bs s1 => (s1, { p with value := some bs })
    | .remote pkg pa need => (s, { p with place := .remote pkg pa, region := need, gen := e.gen })

/-- Reads of a tile in their order. -/
def State.readTile (s : State) (e : Eng) : List Part → State × List Part
  | [] => (s, [])
  | p :: rest =>
    let r := s.readElem e p
    let t := r.1.readTile e rest
    (t.1, r.2 :: t.2)

/-- Element `ix` of a latch under way is read, at a time of its own (R265). -/
def State.latchPart (s : State) (rid ix : Nat) : State :=
  match aget s.reqs rid with
  | none => s
  | some q =>
    match q.parts[ix]? with
    | none => s
    | some p =>
      if q.atomic && q.dst == .record then
        let r := s.readElem (s.latchEng rid q) p
        (r.1.modPart rid ix fun _ => r.2).launchParts rid
      else s

/-! ## Barrier words -/

/-- BOFF, BMEM and NOBAR of a barrier word (R251, R276, R334). -/
def barOff (x : DWord) : Nat := dbits x 18 0
def barMem (x : DWord) : Nat := dbits x 22 19
def noBar (x : DWord) : Bool := x.getLsbD 23

/-- The barrier's cluster address. -/
def barAddr (x : DWord) : DWord := dw (barOff x + barMem x * 2 ^ 20)

/-- The scope of a barrier word. -/
def barWordScope (x : DWord) : Scope :=
  match dbits x 26 24 with
  | 0 => .grp | 1 => .team | 2 => .clu | 3 => .die | 4 => .pkg | 5 => .dom | _ => .sys

/-- Member `m` of the cluster of team `t`. -/
def State.memberOf (s : State) (t m : Nat) : Nat :=
  match aget s.teams t with
  | some x => (match aget s.clusters x.cluster with
    | some c => c.teams.getD m t
    | none => t)
  | none => t

/-- A credit or arrival at the barrier of a word, sent by an engine of the group (R257, R276). -/
def State.engMsg (s : State) (e : Eng) (k : MsgKind) (x : DWord) (pc : DWord) : Nat × State :=
  s.send {
    kind := k, gid := e.gid, core := e.core, ctx := e.ctx, gen := e.gen, ea := barAddr x
    place := .scratch (s.memberOf e.team (barMem x)) (barOff x), pc := pc, issue := e.issue }

/-- A credit of `n` bytes for copy `id` (R257). -/
def State.credit (s : State) (e : Eng) (id n : Nat) (x pc : DWord) : State :=
  if noBar x || n = 0 then s else (s.engMsg e (.barCredit n (some id)) x pc).2

/-! ## The record of a copy (R250) -/

def Copy.n0 (c : Copy) : Nat := dbits (c.args.getD 2 0) 23 0
def Copy.n1 (c : Copy) : Nat := dbits (c.args.getD 2 0) 39 24
def Copy.n2 (c : Copy) : Nat := dbits (c.args.getD 2 0) 55 40
def Copy.esz (c : Copy) : Nat := 2 ^ dbits (c.args.getD 2 0) 58 56
def Copy.barw (c : Copy) : DWord := c.args.getD 5 0
def Copy.pscope (c : Copy) : Nat := dbits c.barw 28 27
/-- The declared byte count. -/
def copyBytes (a : List DWord) : Nat :=
  dbits (a.getD 2 0) 23 0 * dbits (a.getD 2 0) 39 24 * dbits (a.getD 2 0) 55 40 * 2 ^ dbits (a.getD 2 0) 58 56

/-- The number of an element. -/
def Copy.key (c : Copy) (j i e : Nat) : Nat := (j * c.n1 + i) * c.n0 + e

/-- A base with strides: base + e·size + i·row + j·plane, mod 2^64 (R252). -/
def strided (base : DWord) (size e i j : Nat) (strides : DWord) : DWord :=
  dwI (base.toNat + e * size + (i : Int) * sextI (dbits strides 31 0) 32 + (j : Int) * sextI (dbits strides 63 32) 32)

/-- Source and destination address of an element; `i` is the index of the source row. -/
def Copy.srcAddr (c : Copy) (j i e : Nat) : DWord := strided (c.args.getD 0 0) c.esz e i j (c.args.getD 3 0)
def Copy.dstAddr (c : Copy) (j i e : Nat) : DWord := strided (c.args.getD 1 0) c.esz e i j (c.args.getD 4 0)

/-- The engine's identity of a copy under number `id`. -/
def State.copyEng (s : State) (id : Nat) (c : Copy) : Eng :=
  { gid := c.gid, core := c.core, ctx := c.ctx, team := c.team, size := s.scratchOf c.team, gen := c.gen, issue := id }

/-- FILL, repeated or cut to the element (R253). -/
def Copy.fill (c : Copy) : List Byte :=
  let f := leBytes 4 (dbits (c.args.getD 7 0) 63 32)
  (f ++ f ++ f ++ f).take c.esz

/-- An element has faulted (R256). -/
def Copy.faultElem (c : Copy) (key row cause : Nat) (addr : DWord) : Copy :=
  { c.fault key cause addr with
    elems := aset c.elems key .faulted
    frows := if c.frows.contains row then c.frows else row :: c.frows }

/-- Row `i` has an index that leaves it unchanged. -/
def Copy.rowInvalid (c : Copy) (i : Nat) : Bool := aget c.rows i = some (some 0xFFFFFFFF)

/-- Element (j, i, e) of the copy is finished. -/
def Copy.elemDone (c : Copy) (j i e : Nat) : Bool :=
  (c.kind == .cptIdx && (c.rowInvalid i || aget c.rows i = some none)) ||
  match aget c.elems (c.key j i e) with
  | some .landed | some .faulted => true
  | _ => false

/-- Every element is finished and every credit has been applied or dropped. -/
def State.copyDone (s : State) (id : Nat) (c : Copy) : Bool :=
  (c.busy || (List.range c.n2).all fun j => (List.range c.n1).all fun i => (List.range c.n0).all fun e => c.elemDone j i e) &&
  !s.net.any fun x => match x.2.kind with
    | .barCredit _ (some k) => k = id
    | _ => false

/-! ## Steps of an element -/

/-- The copy under `id` replaced. -/
def State.setCopy (s : State) (id : Nat) (c : Copy) : State := { s with copies := aset s.copies id c }

/-- A read asked of another package (R326): its number. -/
def State.askPkg (s : State) (e : Eng) (pkg pa n : Nat) (need : Option (Nat × Word)) : Nat × State :=
  let s := match need with
    | some (i, v) => (s.tellRound e.ctx pkg need).tellDemand e.ctx i v
    | none => s
  (s.nextId, { s with
    demand := match need with
      | some (i, v) => ((e.ctx, i, v) :: s.demand).eraseDups
      | none => s.demand
    fabricOut := s.fabricOut ++ [(pkg, .access s.self s.nextId (BitVec.ofNat 6 e.ctx) e.gen pa
      (.load n (need.map (s.remoteNeedOf e.ctx false))))]
    nextId := s.nextId + 1 })

/-- A write sent to another package (R326): its number; `none` bytes are poison, which travels as bytes with none enabled. -/
def State.storePkg (s : State) (e : Eng) (pkg pa n : Nat) (bytes : Option (List Byte)) (durable : Bool) (tag : BitVec 16) :
    Nat × State :=
  let bs : List (Option Byte) := match bytes with
    | some b => b.map some
    | none => List.replicate n none
  (s.nextId, { s with
    fabricOut := s.fabricOut ++ [(pkg, .access s.self s.nextId (BitVec.ofNat 6 e.ctx) e.gen pa (.store bs durable tag))]
    nextId := s.nextId + 1 })

/-! ## Overlap (R252) -/

/-- The places of [a, a + n), page by page; what does not resolve is no place. -/
def State.placesOf (s : State) (e : Eng) (kind : AccKind) (a : DWord) (n : Nat) : List (Place × Nat) :=
  (List.range (n / 65536 + 2)).filterMap fun i =>
    let lo := if i = 0 then 0 else 65536 * i - a.toNat % 65536
    let hi := min n (65536 * (i + 1) - a.toNat % 65536)
    if hi ≤ lo then none
    else match s.resolveAs e.gen e.core e.ctx e.team e.size kind (a + dw lo) (hi - lo) with
      | .ok p _ => some (p, hi - lo)
      | .bad _ => none

/-- Row `i` of `cpt.idx` copies a table row: its number. Invalid and out-of-range rows have no source (R253). -/
def Copy.tableRow (c : Copy) (i : Nat) : Option Nat :=
  match aget c.rows i with
  | some (some k) => if k = 0xFFFFFFFF || dbits (c.args.getD 7 0) 31 0 ≤ k.toNat then none else some k.toNat
  | _ => none

/-- The places of the source of row `i` of `cpt.idx`. -/
def State.rowPlaces (s : State) (e : Eng) (c : Copy) (i : Nat) : List (Place × Nat) :=
  match c.tableRow i with
  | some k => s.placesOf e .read (c.srcAddr 0 k 0) (c.n0 * c.esz)
  | none => []

/-- The places that the copy reads its elements from. -/
def State.srcPlaces (s : State) (e : Eng) (c : Copy) : List (Place × Nat) :=
  (List.range c.n2).flatMap fun j => (List.range c.n1).flatMap fun i =>
    if c.kind == .cptIdx then s.rowPlaces e c i else s.placesOf e .read (c.srcAddr j i 0) (c.n0 * c.esz)

/-- Which bytes of [ea, ea + n) of the destination lie in one of the places. -/
def State.hits (s : State) (e : Eng) (c : Copy) (ea : DWord) (n : Nat) (src : List (Place × Nat)) : List Bool :=
  match s.resolveAs e.gen e.core e.ctx e.team e.size (if c.kind == .cptWs then .weightWrite else .write) ea n with
  | .bad _ => List.replicate n false
  | .ok p _ => (List.range n).map fun i => src.any fun x => match x.1.index p i with
    | some j => j < x.2
    | none => false

/-- Bytes of the destination become undefined. -/
def State.scrambleAt (s : State) (e : Eng) (ea : DWord) (hit : List Bool) (tag : BitVec 16) : State :=
  if !hit.any id then s
  else
    let r := s.drawBytes hit.length
    match r.2.resolveAs e.gen e.core e.ctx e.team e.size .write ea hit.length with
    | .ok (.home pa) _ =>
      let bs := (List.range hit.length).map fun i => if hit.getD i false then r.1[i]? else none
      (r.2.homeWrite pa bs tag false).2.l1After e.core e.ctx pa bs
    | .ok (.scratch t o) _ =>
      (List.range hit.length).foldl (fun st i => if hit.getD i false then st.spWrite t (o + i) [r.1.getD i 0] else st) r.2
    | _ => s

/-- Elements that have landed on what row `i` turns out to read: their bytes are undefined (R252). -/
def State.unsettle (s : State) (e : Eng) (c : Copy) (i : Nat) : State :=
  let src := s.rowPlaces e c i
  c.elems.foldl (fun st x => match x.2 with
    | .landed | .halfWritten _ _ _ =>
      let ea := c.dstAddr 0 (x.1 / c.n0) (x.1 % c.n0)
      st.scrambleAt e ea (st.hits e c ea c.esz src) c.tag
    | _ => st) s

/-! ## Rows and elements -/

/-- What has come of the read of the index of row `i` (R253): none of it, an index, or a fault; an invalid row is credited whole. -/
def State.rowRead (s : State) (id : Nat) (c : Copy) (e : Eng) (i : Nat) (r : Except (BitVec 8) Word) (addr : DWord) : State :=
  match r with
  | .error code =>
    s.setCopy id { c.fault (c.key 0 i 0) (engCause code) addr with
      rows := aset c.rows i none, frows := if c.frows.contains i then c.frows else i :: c.frows }
  | .ok k =>
    let c1 := { c with rows := aset c.rows i (some k) }
    if k = 0xFFFFFFFF then (s.setCopy id { c1 with inv := true }).credit e id (c.n0 * c.esz) c.barw c.pc
    else (s.unsettle e c1 i).setCopy id { c1 with oor := c1.oor || decide (dbits (c.args.getD 7 0) 31 0 ≤ k.toNat) }

/-- The index of row `i` is read. -/
def State.fetchRow (s : State) (id : Nat) (c : Copy) (i : Nat) : State :=
  let e := s.copyEng id c
  let addr := c.args.getD 6 0 + dw (4 * i)
  if (aget c.rowAsk i).isSome then s
  else match s.engRead e .read addr 4 with
    | .wait s1 => s1
    | .bad code => (s.noteWorld code).rowRead id c e i (.error code) addr
    | .poison s1 => s1.rowRead id c e i (.error 0x09) addr
    | .ok bs s1 => s1.rowRead id c e i (.ok (w32 (leNat bs))) addr
    | .remote pkg pa need =>
      let r := s.askPkg e pkg pa 4 need
      r.2.setCopy id { c with rowAsk := aset c.rowAsk i r.1 }

/-- The first half that is taken of an element of 16 bytes, which is two halves in either order (R252). -/
def State.upperFirst (s : State) (c : Copy) : Bool := c.esz = 16 && (Config.freeWord s.fresh).getLsbD 0

/-- Two halves of an element, `upper` the one that came first. -/
def joinHalves (upper : Bool) (first second : Option (List Byte)) : Option (List Byte) :=
  match first, second with
  | some x, some y => some (if upper then y ++ x else x ++ y)
  | _, _ => none

/-- The source of an element is read (R252), in halves when it has 16 bytes: row `src` of the table or the source. -/
def State.fetchElem (s : State) (id : Nat) (c : Copy) (j i e src : Nat) : State :=
  let key := c.key j i e
  let row := j * c.n1 + i
  let ea := c.srcAddr j src e
  let had : Option (Bool × Option (List Byte)) := match aget c.elems key with
    | some (.half u b) => some (u, b)
    | _ => none
  let upper := match had with
    | some x => !x.1
    | none => s.upperFirst c
  let off := if upper then 8 else 0
  let got := fun (st : State) (bs : Option (List Byte)) =>
    let el : ElemState := match had with
      | some x => .fetched (joinHalves x.1 x.2 bs)
      | none => if c.esz = 16 then .half upper bs else .fetched bs
    { st with fresh := st.fresh + if c.esz = 16 then 1 else 0 }.setCopy id { c with elems := aset c.elems key el }
  if ea.toNat % c.esz ≠ 0 then s.setCopy id (c.faultElem key row 1 ea)
  else match s.engRead (s.copyEng id c) .read (ea + dw off) (min c.esz 8) with
    | .wait s1 => s1
    | .bad code => (s.noteWorld code).setCopy id (c.faultElem key row (engCause code) ea)
    | .poison s1 => got s1 none
    | .ok bs s1 => got s1 (some bs)
    | .remote pkg pa need =>
      let r := s.askPkg (s.copyEng id c) pkg (pa - off) c.esz need
      r.2.setCopy id { c with elems := aset c.elems key (.asked r.1) }

/-- The read of element `key` is over or asked. -/
def Copy.read (c : Copy) (key : Nat) : Bool := match aget c.elems key with
  | some (.half _ _) | none => false
  | some _ => true

/-- The first step of an element: for `cpt.idx` the row's index, then the element's source or FILL. -/
def State.copyFetch (s : State) (id : Nat) (c : Copy) (j i e : Nat) : State :=
  if c.read (c.key j i e) then s
  else if c.kind == .cptIdx then
    match aget c.rows i with
    | none => s.fetchRow id c i
    | some none => s
    | some (some k) =>
      if k = 0xFFFFFFFF then s
      else if dbits (c.args.getD 7 0) 31 0 ≤ k.toNat then
        s.setCopy id { c with elems := aset c.elems (c.key j i e) (.fetched (some c.fill)) }
      else s.fetchElem id c j i e k.toNat
  else s.fetchElem id c j i e i

/-- An element has landed: its bytes are credited (R257). -/
def State.landed (s : State) (id : Nat) (c : Copy) (key : Nat) (poisoned : Bool) : State :=
  (s.setCopy id { c with elems := aset c.elems key .landed, psn := c.psn || poisoned }).credit (s.copyEng id c) id c.esz c.barw c.pc

/-- The bytes that are written at `ea`: those read, undefined where the destination is also source (R252). -/
def State.elemBytes (s : State) (e : Eng) (c : Copy) (ea : DWord) (bytes : Option (List Byte)) : Option (List Byte) × State :=
  match bytes with
  | none => (none, s)
  | some bs =>
    let hit := s.hits e c ea bs.length (s.srcPlaces e c)
    if hit.any id then
      let r := s.drawBytes bs.length
      (some ((List.range bs.length).map fun i => if hit.getD i false then r.1.getD i 0 else bs.getD i 0), r.2)
    else (some bs, s)

/-- An element is written (R252, R254, R256, R351): whole, or the half at `off` of its 16 bytes; `fin` takes the images sent. -/
def State.writePart (s : State) (id : Nat) (c : Copy) (j i e off : Nat) (whole part : Option (List Byte)) (fin : State → List Nat → State) :
    State :=
  let key := c.key j i e
  let row := j * c.n1 + i
  let ea := c.dstAddr j i e
  let eng := s.copyEng id c
  let n := match part with
    | some bs => bs.length
    | none => c.esz
  if ea.toNat % c.esz ≠ 0 then s.setCopy id (c.faultElem key row 1 ea)
  else
    let x := s.elemBytes eng c (ea + dw off) part
    let durable := c.kind == .cptP && c.pscope ≠ 0
    match x.2.engWrite eng (if c.kind == .cptWs then .weightWrite else .write) (ea + dw off) n x.1 c.tag (c.kind == .cptP) durable c.wsDie with
    | .wait => s
    | .bad code => (s.noteWorld code).setCopy id (c.faultElem key row (engCause code) ea)
    | .poisonedScratch => s.setCopy id (c.faultElem key row 4 ea)
    | .ok ids s1 => fin s1 ids
    | .remote pkg pa =>
      let y := s.elemBytes eng c ea whole
      let r := y.2.storePkg eng pkg (pa - off) c.esz y.1 durable c.tag
      r.2.setCopy id { c with elems := aset c.elems key (.sent r.1 y.1) }

/-- An element whose write is over lands, now or when its images have been accepted. -/
def State.written (s : State) (id : Nat) (c : Copy) (key : Nat) (poisoned : Bool) (images : List Nat) : State :=
  if images.isEmpty then s.landed id c key poisoned
  else s.setCopy id { c with elems := aset c.elems key (.awaiting images poisoned) }

/-- The half of an element of 16 bytes. -/
def halfOf (upper : Bool) (bs : List Byte) : List Byte := if upper then bs.drop 8 else bs.take 8

/-- An element that has been read is written: at once, or its first half. -/
def State.writeElem (s : State) (id : Nat) (c : Copy) (j i e : Nat) (bytes : Option (List Byte)) : State :=
  let key := c.key j i e
  match bytes with
  | some bs =>
    if c.esz = 16 then
      let upper := s.upperFirst c
      s.writePart id c j i e (if upper then 8 else 0) bytes (some (halfOf upper bs)) fun st ids =>
        { st with fresh := st.fresh + 1 }.setCopy id { c with elems := aset c.elems key (.halfWritten upper bs ids) }
    else s.writePart id c j i e 0 bytes bytes fun st ids => st.written id c key false ids
  | none => s.writePart id c j i e 0 none none fun st ids => st.written id c key true ids

/-- The second step of an element: its write, or the landing of a durable one whose images have been accepted. -/
def State.copyWrite (s : State) (id : Nat) (c : Copy) (j i e : Nat) : State :=
  match aget c.elems (c.key j i e) with
  | some (.fetched bytes) => s.writeElem id c j i e bytes
  | some (.halfWritten upper bs ids) =>
    s.writePart id c j i e (if upper then 0 else 8) (some bs) (some (halfOf (!upper) bs)) fun st more => st.written id c (c.key j i e) false (ids ++ more)
  | some (.awaiting [] p) => s.landed id c (c.key j i e) p
  | _ => s

/-! ## cpl (R248) -/

/-- The transfers of one `cpl` issue. -/
def State.lanesOf (s : State) (c : Copy) : List (Nat × Copy) :=
  s.copies.filter fun x => x.2.perLane && x.2.gid = c.gid && x.2.issue = c.issue

/-- When every transfer of a `cpl` issue is over or rejected and some are rejected, the lane fault is taken (R237), unless the instruction stands at a
fault of its own, which takes the rejections in. -/
def State.laneVerdict (s : State) (c : Copy) : State :=
  let sib := s.lanesOf c
  if s.pendedAt c.gid c.issue || sib.any fun x => x.2.reject.isNone then s
  else match sib.foldl (fun (acc : Option Copy) x => match acc with
      | none => some x.2
      | some y => if x.2.lane < y.lane then some x.2 else some y) none with
    | none => s
    | some x =>
      s.takeLate c.gid {
        code := x.reject.getD 0, lane := true, late := true, pc := x.pc, lpc := x.lpc, addr := x.args.getD 0 0, issue := some x.issue
        donemask := x.gang &&& ~~~(laneMask (sib.map fun y => y.2.lane)) }

/-- A transfer of a lane is rejected (R237). -/
def State.rejectLane (s : State) (id : Nat) (c : Copy) (code : BitVec 8) : State :=
  ((s.noteWorld code).setCopy id { c with reject := some code, elems := [] }).laneVerdict c

/-- The credit of a lane's N bytes (R248). -/
def State.laneCredit (s : State) (e : Eng) (c : Copy) : State :=
  let bar := (c.args.getD 3 0).toNat
  if bar = 0 then s
  else (s.send {
    kind := .barCredit (c.args.getD 2 0).toNat none, gid := e.gid, core := e.core, ctx := e.ctx, gen := e.gen
    ea := dw (bar - 1 + ((aget s.teams e.team).map (·.member)).getD 0 * 2 ^ 20), gang := c.gang, covers := [c.lane]
    place := .scratch e.team (bar - 1), lane := c.lane, isLane := true, pc := c.pc, lpc := c.lpc, issue := e.issue }).2

/-- A lane's bytes have landed: they are credited and the transfer is over. -/
def State.laneLanded (s : State) (id : Nat) (c : Copy) (e : Eng) : State :=
  let s1 := s.laneCredit e c
  ({ s1 with copies := adel s1.copies id }.laneVerdict c).closeIssue c.gid c.issue

/-- A step of a lane's transfer (R248): its bytes read, then written. A stale generation is resolved by the core: the transfer waits until
the homes have adopted the core's value (R375). -/
def State.laneCopyStep (s : State) (id : Nat) (c : Copy) (fetch : Bool) : State :=
  let n := (c.args.getD 2 0).toNat
  let ea := c.args.getD 0 0
  let e := { s.copyEng id c with gen := s.genStamp c.core c.ctx, issue := c.issue }
  let o := (c.args.getD 1 0).toNat
  if c.reject.isSome || e.gen ≠ (s.ctx c.ctx).gen then s
  else match aget c.elems 0, fetch with
    | none, true =>
      if c.toScratch then
        match s.engRead e .read ea n with
        | .wait s1 => s1
        | .bad code => s.rejectLane id c code
        | .poison s1 => s1.rejectLane id c 0x09
        | .ok bs s1 => s1.setCopy id { c with elems := aset c.elems 0 (.fetched (some bs)) }
        | .remote pkg pa need =>
          let r := s.askPkg e pkg pa n need
          r.2.setCopy id { c with elems := aset c.elems 0 (.asked r.1) }
      else
        match s.engRead e .read (dw (spWindow + o)) n with
        | .wait s1 => s1
        | .bad code => s.rejectLane id c code
        | .poison s1 => s1.setCopy id { c with elems := aset c.elems 0 (.fetched none) }
        | .ok bs s1 => s1.setCopy id { c with elems := aset c.elems 0 (.fetched (some bs)) }
        | .remote _ _ _ => s
    | some (.fetched bytes), false =>
      let dst := if c.toScratch then dw (spWindow + o) else ea
      (match s.engWrite e .write dst n bytes c.tag false false none with
       | .wait => s
       | .bad code => s.rejectLane id c code
       | .poisonedScratch => s.rejectLane id c 0x09
       | .ok _ s1 => s1.laneLanded id c e
       | .remote pkg pa =>
         let r := s.storePkg e pkg pa n bytes false c.tag
         r.2.setCopy id { c with elems := aset c.elems 0 (.sent r.1 bytes) })
    | _, _ => s

/-- The transfer of a lane begins as it leaves the quarantine (R247, R378). -/
def State.startLane (s : State) (toScratch : Bool) (m : Msg) (team spOff n : Nat) (bar : Option Nat) : State :=
  { s with
    copies := aset s.copies s.nextId {
      gid := m.gid, kind := .cpt, pc := m.pc, dst := 0, core := m.core, ctx := m.ctx, team := team, gen := m.gen, tag := m.tag
      args := [m.ea, dw spOff, dw n, dw (match bar with
        | some b => b + 1
        | none => 0)]
      perLane := true, toScratch := toScratch, lane := m.lane, lpc := m.lpc, issue := m.issue, gang := m.gang, ords := m.ords }
    nextId := s.nextId + 1 }

end Sys2Proof.Machine
end

