-- ==== Sys2Proof/Machine/CollRead.lean ====
section
/-!
DEFINITION. The inputs of collective commands, each read at a time of its own (R335, R339, R340, R343): the source of `xmar`, the vector of `xred`, the
header list of `xnorm`.
-/
namespace Sys2Proof.Machine

/-- The engine's identity of a collective command. -/
def State.collEng (s : State) (id : Nat) (c : Coll) : Eng :=
  { gid := c.gid, core := c.core, ctx := c.ctx, team := c.team, size := s.scratchOf c.team, gen := c.gen, issue := id }

/-- The command under `id` replaced. -/
def State.setColl (s : State) (id : Nat) (c : Coll) : State := { s with colls := aset s.colls id c }

/-! ## xmar (R337, R339) -/

/-- An element of `xmar` lies in the package's own memory or in the scratchpad window (R337), or does not translate. -/
def State.ownPlace (s : State) (e : Eng) (kind : AccKind) (ea : DWord) (n : Nat) : Bool :=
  match s.resolveAs e.gen e.core e.ctx e.team e.size kind ea n with
  | .ok (.home pa) _ => s.aperture pa != .host
  | .ok (.remote _ _) _ => false
  | .ok (.scratch _ _) _ | .bad _ => true

/-- Parts in which an element is read (R252): the two halves of one of 16 bytes. -/
def xmarHalves (a : List DWord) : Nat := if xmarEsz a = 16 then 2 else 1

/-- Elements of the source block. -/
def srcCount (a : List DWord) : Nat := xmarSB a 0 * xmarSB a 1 * xmarSB a 2 * xmarSB a 3

/-- The address of source element `l` (R338). -/
def xmarSrc (a : List DWord) (l : Nat) : DWord := dw ((a.getD 0 0).toNat + xmarEsz a * l)

/-- Element `l` is sent poisoned: every part of it counts as read. -/
def Coll.noElem (c : Coll) (l : Nat) : Coll :=
  { c with srcs := (List.range (xmarHalves c.args)).foldl (fun t h => aset t (xmarHalves c.args * l + h) none) c.srcs }

/-- A fault of source element `l`, or its poison (R339). -/
def Coll.srcFault (c : Coll) (l cause : Nat) : Coll := { (c.noElem l).fault l cause (xmarSrc c.args l) with psn := c.psn || cause = 4 }

/-- Part `p` of the source is read (R335, R337, R339): a fault or poison makes a poisoned element. -/
def State.readSrc (s : State) (id p : Nat) : State :=
  match aget s.colls id with
  | none => s
  | some c =>
    let l := p / xmarHalves c.args
    let ea := xmarSrc c.args l
    let e := s.collEng id c
    if (aget c.srcs p).isSome || srcCount c.args ≤ l then s
    else if !s.ownPlace e .read ea (xmarEsz c.args) then s.setColl id (c.srcFault l 1)
    else match s.engRead e .read (ea + dw (8 * (p % xmarHalves c.args))) (min (xmarEsz c.args) 8) with
    | .wait s1 => s1
    | .bad code => (s.noteWorld code).setColl id (c.srcFault l (engCause code))
    | .poison s1 => s1.setColl id (c.srcFault l 4)
    | .ok bs s1 => s1.setColl id { c with srcs := aset c.srcs p (some bs) }
    | .remote _ _ _ => s.setColl id (c.srcFault l 1)

/-- The bytes of source element `l` as they were read; none when it is sent poisoned. -/
def Coll.srcElem (c : Coll) (l : Nat) : Option (List Byte) :=
  ((List.range (xmarHalves c.args)).mapM fun h => (aget c.srcs (xmarHalves c.args * l + h)).getD none).map List.flatten

/-- Every part of the source has been read. -/
def Coll.srcRead (c : Coll) : Bool := (List.range (xmarHalves c.args * srcCount c.args)).all fun p => (aget c.srcs p).isSome

/-! ## xred (R340) -/

/-- The address of element `e` from a base. -/
def Coll.elemAddr (c : Coll) (i e : Nat) : DWord := dw ((c.args.getD i 0).toNat + xredSize c.args * e)

/-- An input element is read (R340): a fault is recorded, poison sets PSN, and either is sent as a poisoned element. -/
def State.readInput (s : State) (id e : Nat) : State :=
  match aget s.colls id with
  | none => s
  | some c =>
    if (aget c.inputs e).isSome || (aget c.asked e).isSome then s
    else
      let ea := c.elemAddr 0 e
      match s.engRead (s.collEng id c) .read ea (xredSize c.args) with
      | .wait s1 => s1
      | .bad code => (s.noteWorld code).setColl id { c.fault e (engCause code) ea with inputs := aset c.inputs e none }
      | .poison s1 => s1.setColl id { c with inputs := aset c.inputs e none, psn := true }
      | .ok bs s1 => s1.setColl id { c with inputs := aset c.inputs e (some (leDWord bs)) }
      | .remote pkg pa need =>
        let r := s.askPkg (s.collEng id c) pkg pa (xredSize c.args) need
        r.2.setColl id { c with asked := aset c.asked e r.1 }

/-! ## xnorm (R342, R343) -/

def Coll.nh (c : Coll) : Nat := dbits (c.args.getD 3 0) 12 0
def Coll.clr (c : Coll) : Bool := (c.args.getD 3 0).getLsbD 16

/-- A header or list entry that cannot be read counts as OVF = 1 and is the command's fault (R343). -/
def State.normFault (s : State) (id : Nat) (c : Coll) (i : Nat) (code : BitVec 8) (addr : DWord) : State :=
  s.setColl id { c.fault i (engCause code) addr with flag := true, landed := i :: c.landed }

/-- List entry `i` is read. -/
def State.readEntry (s : State) (id : Nat) (c : Coll) (i : Nat) : State :=
  let ea := c.args.getD 2 0 + dw (8 * i)
  match s.engRead (s.collEng id c) .read ea 8 with
  | .wait s1 => s1
  | .bad code => (s.noteWorld code).normFault id c i code ea
  | .poison s1 => s1.normFault id c i 0x09 ea
  | .ok bs s1 => s1.setColl id { c with inputs := aset c.inputs i (some (leDWord bs)) }
  | .remote pkg pa need =>
    let r := s.askPkg (s.collEng id c) pkg pa 8 need
    r.2.setColl id { c with asked := aset c.asked (2 * i) r.1 }

/-- A header whose OVF bit was read as `v`. -/
def Coll.tookHeader (c : Coll) (i : Nat) (v : Word) : Coll := { c with flag := c.flag || v.getLsbD 0, landed := i :: c.landed }

/-- The header at `ea` may be cleared (R343): none, or the cause of the fault. -/
def State.clearFault (s : State) (id : Nat) (c : Coll) (ea : DWord) : Option (BitVec 8) :=
  let e := s.collEng id c
  match s.resolveAs e.gen e.core e.ctx e.team e.size .write ea 4 with
  | .ok _ _ => none
  | .bad code => some code

/-- The header at `ea` is asked of another package; with CLR = 1 its bit is cleared as it is read, where it may be written. -/
def State.askHeader (s : State) (id : Nat) (c : Coll) (i pkg pa : Nat) (ea : DWord) : State :=
  let op : RemoteOp := if c.clr && (s.clearFault id c ea).isNone then .atomic 3 .b32 0xFFFFFFFE 0 c.tag else .load 4 none
  { s with
    colls := aset s.colls id { c with asked := aset c.asked (2 * i + 1) s.nextId }
    fabricOut := s.fabricOut ++ [(pkg, .access s.self s.nextId (BitVec.ofNat 6 c.ctx) c.gen pa op)]
    nextId := s.nextId + 1 }

/-- The header of entry `i`, at `ea`, is read, and cleared when CLR = 1 and its OVF is set. -/
def State.readHeader (s : State) (id : Nat) (c : Coll) (i : Nat) (ea : DWord) : State :=
  let e := s.collEng id c
  if ea.toNat % 4 ≠ 0 then s.normFault id c i 0x06 ea
  else match s.engRead e .read ea 4 with
    | .wait s1 => s1
    | .bad code => (s.noteWorld code).normFault id c i code ea
    | .poison s1 => s1.normFault id c i 0x09 ea
    | .remote pkg pa _ => s.askHeader id c i pkg pa ea
    | .ok bs s1 =>
      let v := w32 (leNat bs)
      if !c.clr || !v.getLsbD 0 then s1.setColl id (c.tookHeader i v)
      else match s1.engWrite e .write ea 1 (some [(v &&& ~~~1).setWidth 8]) c.tag false false none with
        | .ok _ s2 => s2.setColl id (c.tookHeader i v)
        | .bad code => (s1.noteWorld code).normFault id (c.tookHeader i v) i code ea
        | _ => s1

/-- A step of reading entry `i`: the entry, or its header. -/
def State.readNorm (s : State) (id i : Nat) : State :=
  match aget s.colls id with
  | none => s
  | some c =>
    if c.landed.contains i || (aget c.asked (2 * i)).isSome || (aget c.asked (2 * i + 1)).isSome then s
    else match aget c.inputs i with
      | some (some ea) => s.readHeader id c i ea
      | _ => s.readEntry id c i

/-- The inputs of an `xnorm` may be read: with CLR = 1, which writes to the headers, once the commands of the instance have been compared (R333). -/
def State.mayReadNorm (s : State) (c : Coll) : Bool := !c.clr || (s.heardAll c && !s.collMismatch c)

/-! ## One input -/

/-- Input `ix` of a collective command whose inputs are being read (R335): a part of the source of `xmar`, an element of `xred`, an entry of `xnorm` or
its header. -/
def State.collPart (s : State) (id ix : Nat) : State :=
  match aget s.colls id with
  | none => s
  | some c =>
    if c.stage ≠ 0 || c.disc || c.cause ≠ 0 then s
    else match c.kind with
    | .xmar => s.readSrc id ix
    | .xred => if ix < xredCount c.args then s.readInput id ix else s
    | .xnorm => if ix < c.nh && s.mayReadNorm c then s.readNorm id ix else s
    | .xbar => s

end Sys2Proof.Machine
end

