-- ==== Sys2Proof/Machine/SRound.lean ====
section
/-!
DEFINITION. The round instructions of the S-stream (R313 to R315, R321, R322).
-/
namespace Sys2Proof.Machine

/-- Stages of a group in a round instruction: `rnd.reg` waiting for its answer; `rnd.adv` waiting for its blocks, for its quarantine, for its
release, for the arrival to be recorded, for the round. -/
def regStage : Nat := 40
def advStage : Nat := 50

/-- The region that s[a] names (R313): a nonzero s[a][63:12] is illegal; `body` gets its number. -/
def sRegion (s : State) (need : List SReg) (a : SReg) (body : Who → Nat → Out) : Out :=
  sIssueWho s need fun w =>
    let v := w.g.sget a
    if dbits v 63 12 ≠ 0 then sTrap s w.gid w.g 0x01 0 v else body w v.toNat

/-- A message to the home of region record `i`. -/
def State.roundMsg (s : State) (w : Who) (k : MsgKind) (i pa : Nat) : Msg :=
  { kind := k, gid := w.gid, core := w.core, ctx := w.ctx, gen := s.genStamp w.core w.ctx, ea := regionVa i, place := .home pa
    pc := w.g.spc, tag := s.stepTag, issue := s.nextId }

/-- A message to the home of a region record, on this package or another (R310, R326). -/
def State.roundTo (s : State) (w : Who) (k : MsgKind) (i : Nat) (l : Leaf) : Msg :=
  if l.pkg = s.self then s.roundMsg w k i l.pa else { s.roundMsg w k i l.pa with place := .remote l.pkg l.pa }

/-- The record that a round instruction of the group reads: on another package once its answer has come. -/
def State.seenRecord (s : State) (w : Who) (i : Nat) : Option RegionRead :=
  match s.regionPa w.core w.ctx i with
  | .leaf l => if l.pkg = s.self then some (s.regionRead w.core w.ctx i) else aget s.recReads w.gid
  | .bad _ => some (s.regionRead w.core w.ctx i)

/-- A record on another package is asked for, and what was read of it before is used up. -/
def State.askRecord (s : State) (w : Who) (i : Nat) : State :=
  match s.regionPa w.core w.ctx i with
  | .leaf l =>
    if l.pkg = s.self then s
    else
      let s1 := { s with recReads := adel s.recReads w.gid }
      if s1.devAsks.any fun d => d.2 == .reread w.gid w.ctx i then s1
      else (s1.askDevice w.ctx l.pkg l.pa (.load 64 none) (.reread w.gid w.ctx i)).2
  | .bad _ => s

/-- `rnd.reg` (R314): through the quarantine to the region home; its answer ends the hold. A returning instruction (R384). -/
def execRndReg (d a b : SReg) (s : State) : Out :=
  sRegion s [a, b, d] a fun w i =>
    let g := w.g
    if g.hold.isSome then s.sStall w.gid g .none 0
    else match s.regionPa w.core w.ctx i with
      | .bad code => sTrap (s.noteWorld code) w.gid g code 0 (regionVa i)
      | .leaf l =>
        if g.logFull then sTrap s w.gid g 0x01 5 0
        else
          let log := if g.nextOrdinal = 0 then none else some g.nextOrdinal
          let e := g.addReturning.enterS s.cycle [.msg (s.roundTo w (.roundReg i (g.sget b) d log) i l)]
          if e.2 then s.sStall w.gid { e.1 with hold := some { pc := g.spc, stage := regStage, since := s.cycle } } .none 0
          else .next (s.setGroup w.gid (e.1.sput d ((g.logged g.nextOrdinal).getD 0)).next)

/-- The checks of `rnd.adv` before its first step (R311, R315): none when they pass, else cause, subcode and address. -/
def advFault (r : RegionRead) (i : Nat) (slot : DWord) : Option (BitVec 8 × DWord) :=
  match r with
  | .bad code => some (code, regionVa i)
  | .invalid => some (0x06, regionVa i)
  | .valid x =>
    let k := slot.toNat - 1
    if slot = 0 || x.p ≤ k || !x.reg.getLsbD k || x.arr.getLsbD k then some (0x01, 0)
    else if x.rc = 0xFFFFFFFF then some (0x0B, regionVa i)
    else none

/-- The next side-effecting word of the S-stream was released before a strike (R386). -/
def Group.replays (g : Group) : Bool :=
  match g.region with
  | some r => r.sOrd + 1 ≤ r.rs
  | none => false

/-- The arrival of slot `slot` stands recorded in region `i`: the RC of its round. -/
def State.arrivalOf (s : State) (w : Who) (i : Nat) (slot : DWord) : Option Word :=
  match s.seenRecord w i with
  | some (.valid x) => if slot ≠ 0 && x.arr.getLsbD (slot.toNat - 1) then some x.rc else none
  | _ => none

/-- `rnd.adv` (R315, R320): the checks, the group's earlier blocks, the release at `.dom`, the arrival, the round. A replay sends no second
arrival, and waits while the first one stands. -/
def execRndAdv (a b : SReg) (s : State) : Out :=
  sRegion s [a, b] a fun w i =>
    let g := w.g
    match g.hold with
    | none =>
      (match if g.replays then some none else (s.seenRecord w i).map fun r => advFault r i (g.sget b) with
       | none => (s.askRecord w i).sStall w.gid g .none 0
       | some (some (code, addr)) => sTrap (s.noteWorld code) w.gid g code 0 addr
       | some none => s.sStall w.gid { g with hold := some { pc := g.spc, stage := advStage, since := s.cycle } } .none 0)
    | some h =>
      if h.stage = advStage then
        (if !g.lq.isEmpty then s.sStall w.gid g .none 0
         else
           let e := g.enterS s.cycle [.hold]
           if e.2 then s.sStall w.gid { e.1 with hold := some { h with stage := advStage + 1, since := s.cycle } } .none 0
           else if (s.seenRecord w i).isNone then (s.askRecord w i).sStall w.gid g .none 0
           else match s.arrivalOf w i (g.sget b) with
             | some rc => s.sStall w.gid { e.1 with hold := some { h with stage := advStage + 4, val := dw (rc.toNat + 1), since := s.cycle } } .none 0
             | none => .next (s.setGroup w.gid e.1.next))
      else if h.stage = advStage + 1 then
        (if !g.quar.isEmpty then s.sStall w.gid g .none 0
         else
           let ids := (s.reqs.filter fun p => p.2.gid = w.gid).map (·.1)
           let r := s.beginRelease w.gid w.core w.ctx .dom ids []
           r.2.sStall w.gid { g with hold := some { h with stage := advStage + 2, ids := [r.1] } } .none 0)
      else if h.stage = advStage + 2 then
        (if h.ids.any fun x => (aget s.rels x).isSome then s.sStall w.gid g .none 0
         else match s.regionPa w.core w.ctx i with
           | .bad code =>
             if code = 0x07 then s.sStall w.gid g .none 0
             else sTrap ((s.noteWorld code).setGroup w.gid g.undoWord) w.gid g.undoWord code 0 (regionVa i)
           | .leaf l =>
             let m := s.roundTo w (.roundArrive i ((g.sget b).toNat - 1)) i l
             let r := s.send { m with ords := if g.region.isSome then [(0, g.nextOrdinal - 1)] else [] }
             r.2.sStall w.gid { g with hold := some { h with stage := advStage + 3, ids := [r.1] } } .none 0)
      else if h.stage = advStage + 3 then s.sStall w.gid g .none 0
      else match s.seenRecord w i with
        | some (.valid x) =>
          if h.val.toNat ≤ x.rc.toNat then .next (s.setGroup w.gid g.next) else (s.askRecord w i).sStall w.gid g .round (regionVa i)
        | _ => (s.askRecord w i).sStall w.gid g .round (regionVa i)

/-- `rnd.get` (R321): a producer that reads RC at the region home; an acquire at `.dom` as it lands. -/
def execRndGet (d a : SReg) (s : State) : Out :=
  sRegion s [a, d] a fun w i =>
    match s.regionPa w.core w.ctx i with
    | .bad code => sTrap (s.noteWorld code) w.gid w.g code 0 (regionVa i)
    | .leaf l =>
      let q : Req := {
        gid := w.gid, lane := false, pc := w.g.spc, lpc := 0xFFFFFFFF, dst := .roundGet d w.ctx i, core := w.core, ctx := w.ctx
        acquire := some .dom, since := s.cycle
        parts := [{ lane := 0, n := 64, ea := regionVa i, place := if l.pkg = s.self then .home l.pa else .remote l.pkg l.pa, attr := l.attr
                    gen := s.genStamp w.core w.ctx }] }
      let s1 := { (s.setGroup w.gid (w.g.sempty d).next) with reqs := aset s.reqs s.nextId q, nextId := s.nextId + 1 }
      .next (if l.pkg = s.self then s1 else s1.launchParts s.nextId)

/-- The key of a `rnd.flr` in the release log: it is no side-effecting instruction, so it is counted by itself (log 12). -/
def flrKey (n : Nat) : Nat := 2 ^ 32 + n

/-- The group with one `rnd.flr` more in its region. -/
def Group.countFlr (g : Group) : Group := { g with region := g.region.map fun r => { r with flr := r.flr + 1 } }

/-- `rnd.flr` (R322): the floor as it stood, then raised. A returning instruction, logged at its completion (R384). -/
def execRndFlr (d a b : SReg) (s : State) : Out :=
  sRegion s [a, b, d] a fun w i =>
    let g := w.g
    if g.logFull then sTrap s w.gid g 0x01 5 0
    else
      let key := match g.region with
        | some r => flrKey (r.flr + 1)
        | none => 0
      let g1 := g.addReturning.countFlr
      match (if key = 0 then none else g.logged key) with
      | some v => .next (s.setGroup w.gid (g1.sput d v).next)
      | none =>
        let old := ((s.core w.core).floor w.ctx i).setWidth 64
        .next ((s.modCore w.core fun k => k.raiseFloor w.ctx i ((g.sget b).setWidth 32)).setGroup w.gid
          ((g1.sput d old).logS key old).next)

end Sys2Proof.Machine
end

