-- ==== Sys2Proof/Machine/SCtl.lean ====
section
/-!
DEFINITION. Scalar branches, jumps, calls and dispatch (R145 to R147).
-/
namespace Sys2Proof.Machine

/-- The condition of a branch (R145). -/
def brHolds (c : BrCond) (x y : DWord) : Bool :=
  match c with
  | .eq => x = y
  | .ne => x ≠ y
  | .ltI => x.toInt < y.toInt
  | .geI => y.toInt ≤ x.toInt
  | .ltN => x.toNat < y.toNat
  | .geN => y.toNat ≤ x.toNat

/-- A target `off` words from the branching word (R96). -/
def relTarget (pc : DWord) {n : Nat} (off : BitVec n) : DWord := pc + (off.signExtend 64 <<< 2)

/-- A target register with bits [1:0] taken as 0 (R146). -/
def wordTarget (x : DWord) : DWord := x &&& ~~~3

def execBr (cond : BrCond) (a b : SReg) (off : BitVec 11) (s : State) : Out :=
  sIssue s [a, b] fun gid g =>
    .next (s.setGroup gid (if brHolds cond (g.sget a) (g.sget b) then g.goto (relTarget g.spc off) else g.next))

def execJmp (off : BitVec 26) (s : State) : Out :=
  sIssue s [] fun gid g => .next (s.setGroup gid (g.goto (relTarget g.spc off)))

/-- `call`: s63 is written with the return address, so it waits while s63 is empty. -/
def execCall (off : BitVec 26) (s : State) : Out :=
  sIssue s [63] fun gid g => .next (s.setGroup gid ((g.sput 63 (g.spc + 4)).goto (relTarget g.spc off)))

def execJr (a : SReg) (s : State) : Out :=
  sIssue s [a] fun gid g => .next (s.setGroup gid (g.goto (wordTarget (g.sget a))))

def execRet (s : State) : Out :=
  sIssue s [63] fun gid g => .next (s.setGroup gid (g.goto (wordTarget (g.sget 63))))

/-- Dispatch through the S table (R21, R146): the index check, the fetch of the entry, then `go` with the target. -/
def sDispatch (s : State) (need : List SReg) (a : SReg) (go : Group → DWord → Group) : Out :=
  sIssueWho s need fun w =>
    let ix := dbits (w.g.sget a) 31 0
    if w.lrec.sdlen ≤ ix then sTrap s w.gid w.g 0x03 0 (dw ix)
    else
      let va := dw (w.lrec.sdtab.toNat + 4 * ix)
      match s.fetchWord w.core w.ctx s.keeping va with
      | .wait => (s.askRemote w.gid w.core w.ctx va).sStall w.gid w.g .none 0
      | .bad code addr => sTrap (s.noteWorld code) w.gid w.g code 0 addr
      | .word e => .next ((s.keepIf s.keeping w.core w.ctx va e).setGroup w.gid (go w.g (dw (w.lrec.sbase.toNat + 4 * e.toNat))))

def execDcall (a : SReg) (s : State) : Out := sDispatch s [a, 63] a fun g t => (g.sput 63 (g.spc + 4)).goto t
def execDjmp (a : SReg) (s : State) : Out := sDispatch s [a] a fun g t => g.goto t

end Sys2Proof.Machine
end

