-- ==== Sys2Proof/Machine/SSys.lean ====
section
/-!
DEFINITION. System instructions of the S-stream (R152 to R160), the trap of an illegal S word (R98), and `rgn` (R158, R380).
-/
namespace Sys2Proof.Machine

/-- The trap of an illegal word (R98). -/
def execIllegalInstruction (_word : Word) (s : State) : Out := sIssue s [] fun gid g => sTrap s gid g 0x01 0 0

/-- `trap` (R153). -/
def execTrap (a : SReg) (s : State) : Out := sIssue s [a] fun gid g => sTrap s gid g 0x0C 0 (g.sget a)

/-- The delivery of the first held cause follows an `eret` before the next S word (R367): `tryS` does it. Rejected accesses are
reissued (R368). -/
def execEret (s : State) : Out :=
  sIssue s [] fun gid g =>
    if g.inHandler then .next ((s.setGroup gid g.eretRp).reissueAll gid fun _ => true) else sTrap s gid g 0x01 0 0

/-- `eret sA` (R154, R368): the stopped block is abandoned and its queue entry goes; nothing rejected is repeated. -/
def execEretTo (a : SReg) (s : State) : Out :=
  sIssue s [a] fun gid g =>
    if g.inHandler then
      let s1 := s.setGroup gid (g.eretAt (g.sget a))
      .next ({ s1 with cmds := (match g.block with
        | some b => adel s1.cmds b.cmd
        | none => s1.cmds) }.dropAll gid)
    else sTrap s gid g 0x01 0 0

/-- `yield` (R155). -/
def execYield (s : State) : Out :=
  sIssue s [] fun gid g => .next (s.setGroup gid { g with yieldFrom := some s.cycle }.next)

/-- `nop` (R159). -/
def execNop (s : State) : Out := sIssue s [] fun gid g => .next (s.setGroup gid g.next)

/-- The guard slots with every unresolved one taken as false (R156). -/
def guardsAtExit (t : Tbl Bool) : Tbl Bool :=
  (List.range 16).foldl (fun acc i => if (aget acc i).isSome then acc else aset acc i false) t

/-- `exit` (R156). -/
def execExit (s : State) : Out :=
  sIssue s [] fun gid g => .next (s.setGroup gid { g with sExited := true, guards := guardsAtExit g.guards }.next)

/-! ## evset (R160) -/

/-- Window `n` of EVVAL with the bits of `v` set. -/
def evOr (ev : BitVec 256) (n : Nat) (v : DWord) : BitVec 256 := ev ||| (v.setWidth 256 <<< (64 * n))

/-- `evset`: quarantine, release at package scope, then one indivisible update of the window. -/
def execEvset (n : BitVec 2) (a : SReg) (s : State) : Out :=
  sIssueWho s [a] fun w =>
    s.sQuarRelease w .pkg (fun g => .next (s.setGroup w.gid g.next))
      (fun st g => .next ((st.modCtx w.ctx fun c => { c with ev := evOr c.ev n.toNat (g.sget a) }).setGroup w.gid g.next))

/-! ## klaunch (R157, R59) -/

/-- The pieces of `n` bytes from `ea` that lie in one 128-byte line each: offset and length. -/
def linePieces (ea : DWord) : Nat → Nat → Nat → List (Nat × Nat)
  | 0, _, _ => []
  | f + 1, off, n =>
    if n = 0 then []
    else
      let k := min n (128 - (ea.toNat + off) % 128)
      (off, k) :: linePieces ea f (off + k) (n - k)

/-- The parts that read the launch record; a piece that does not resolve is rejected at once. -/
def State.recordParts (s : State) (w : Who) (ea : DWord) : List (Nat × Nat) → List Part
  | [] => []
  | (o, n) :: rest =>
    let base : Part := { lane := 0, byteOff := o, n := n, ea := ea, place := .home 0, gen := s.genStamp w.core w.ctx }
    (match s.resolve w.core w.ctx w.g.team w.lrec.scratch .read (ea + dw o) n with
     | .bad code => { base with reject := some code }
     | .ok p a => { base with
        place := p, attr := a
        value := match p with
          | .scratch t off => (aget s.teams t).map fun team => team.spRead off n
          | _ => none }) :: s.recordParts w ea rest

/-- A launch record of its 128 bytes. -/
def recordOf (bs : List Byte) : LaunchRec :=
  { w := (List.range 16).map fun i => (i, leDWord ((bs.drop (8 * i)).take 8)) }

/-- The completion record of a launch that never ran (R61). -/
def launchRecord (q : Nat) (slot : Word) (status : BitVec 8) (ctag : DWord) (now kills : Nat) : CompRec :=
  { typ := 1, status := status, queue := BitVec.ofNat 4 q, slot := slot, ctag := ctag, time := dw now, info := dw kills }

/-- The value of a returning S word: written, and logged in the region (R383). -/
def Group.sReturn (g : Group) (o : Nat) (d : SReg) (v : DWord) : Group := (g.sput d v).logS o v

/-- The ordinal of the side-effecting S word that has begun (R383). -/
def Group.lastOrdinal (g : Group) : Nat :=
  match g.region with
  | some r => r.sOrd
  | none => 0

/-- `klaunch` after its release: the test of the kernel queue, the read of the record, the answer (R157). A queue that other `klaunch`es have filled
while the record was read is full (R59, log 88). -/
def klaunchGo (d a : SReg) (w : Who) (s : State) (g : Group) : Out :=
  let depth := (s.ctx w.ctx).kq.length
  match g.hold with
  | some h =>
    if h.stage = 3 then
      match h.ids.findSome? fun i => aget s.reqs i with
      | none => s.sStall w.gid g .none 0
      | some q =>
        if !q.parts.all Part.settled then s.sStall w.gid g .none 0
        else
          let s1 := { s with reqs := h.ids.foldl adel s.reqs }
          let s2 := s1.setGroup w.gid (g.sReturn g.lastOrdinal d 0).next
          if 64 ≤ depth then .next (s1.setGroup w.gid (g.sReturn g.lastOrdinal d 1).next)
          else if q.parts.any fun p => p.reject.isSome then .next (s2.postRecord w.ctx (launchRecord 8 h.val.toNat 0x12 0 s.cycle 0))
          else
            .next (s2.modCtx w.ctx fun c =>
              { c with kq := c.kq ++ [{ lrec := recordOf (partsBytes q.parts 128), slot := BitVec.ofNat 32 h.val.toNat }] })
    else if 64 ≤ depth then .next (s.setGroup w.gid (g.sReturn g.lastOrdinal d 1).next)
    else
      let ea := g.sget a
      let q : Req := {
        gid := w.gid, lane := false, pc := g.spc, lpc := 0xFFFFFFFF, dst := .record
        parts := s.recordParts w ea (linePieces ea 3 0 128), core := w.core, ctx := w.ctx, since := s.cycle }
      let s1 := if q.parts.any fun p => p.reject = some 0x08 then s.countWorldFault else s
      if q.parts.any fun p => p.reject = some 0x07 then s.sStall w.gid g .none 0
      else ({ s1 with reqs := aset s1.reqs s1.nextId q, nextId := s1.nextId + 1 }.launchParts s1.nextId).sStall w.gid
        { g with hold := some { h with stage := 3, ids := [s.nextId], val := dw depth } } .none 0
  | none => s.sStall w.gid g .none 0

/-- `klaunch` (R157): a returning instruction (R384); on a replay it writes its logged value (R386). -/
def execKlaunch (d a : SReg) (s : State) : Out :=
  sIssueWho s [a, d] fun w =>
    if w.g.hold.isNone && w.g.logFull then sTrap s w.gid w.g 0x01 5 0
    else
      let w1 := if w.g.hold.isNone then { w with g := w.g.addReturning } else w
      s.sQuarRelease w1 .pkg
        (fun g => .next (s.setGroup w.gid (g.sput d ((g.logged g.lastOrdinal).getD 0)).next))
        (fun st g => klaunchGo d a w1 st g)

/-! ## rgn (R158, R380) -/

/-- Stages of a group that opens a region: waiting for its producers, then counting strike-free cycles. -/
def rgnStage : Nat := 10

/-- `rgn`: both streams are held; `rgnCheckpoint` opens the region. -/
def execRgn (s : State) : Out :=
  sIssueWho s [] fun w =>
    let g := w.g
    if !w.lrec.rgn then sTrap s w.gid g 0x01 0 0
    else match g.hold with
      | none => s.sStall w.gid { g with hold := some { pc := g.spc, stage := rgnStage, since := s.cycle } } .none 0
      | some h =>
        if h.stage = rgnStage && s.producersLanded w.gid g then
          s.sStall w.gid { g with hold := some { h with stage := rgnStage + 1, since := s.cycle } } .none 0
        else s.sStall w.gid g .none 0

end Sys2Proof.Machine
end

