-- ==== Sys2Proof/Machine/ENcu.lean ====
section
/-!
DEFINITION. Steps at the home slices and scratchpads: NCU operations (R228), active messages (R229), cluster scratchpad arrivals
(R224), late faults (R144, R237), stale generations (R375), the weight store's rotation (R226), and the walker (R217, R218).
-/
namespace Sys2Proof.Machine

/-! ## Messages at home -/

/-- An atomic applied at its home (R228, R242): the old value goes to the producer. -/
def State.homeAtomic (s : State) (m : Msg) (pa : Nat) (op : BitVec 4) (ty : LTy) (c d : DWord) (cas : Bool)
    (req : Option (Nat × Nat)) : State :=
  let n := if ty = .b64 then 8 else 4
  let r := s.readHome pa n m.outOf
  let new := atomNew op ty cas (leDWord r.1) c d
  ((r.2.homeWriteBut m.outOf pa ((leBytes n new.toNat).map some) m.tag false).2).answer req r.1

/-- A store applied at its home (R229); the images of a persist-scope write are those of its group (R352). -/
def State.homeStore (s : State) (m : Msg) (pa : Nat) (bytes : List (Option Byte)) (persist : Nat) : State :=
  let r := s.homeWriteBut m.outOf pa bytes m.tag (persist ≠ 0)
  { r.2 with images := r.2.images.map fun x => if r.1.contains x.id then { x with gid := m.gid } else x }

/-- A region record's counters written by its home (R310). -/
def State.putRecord (s : State) (pa : Nat) (reg arr ret : DWord) : State :=
  (s.homeWrite (pa + 32) ((leBytes 8 reg.toNat ++ leBytes 8 arr.toNat ++ leBytes 8 ret.toNat).map some) s.stepTag false).2

/-- The lowest slot below P that is empty or left (R312). -/
def RegionRec.freeSlot (r : RegionRec) : Option Nat := (List.range r.p).find? fun k => !r.reg.getLsbD k

/-- A slot's bit. -/
def slotBit (k : Nat) : DWord := dw (2 ^ k)

/-- `rnd.reg` at the region home (R314): the answer and the record's REG, ARR and RET. -/
def regAnswer (r : RegionRec) (slot : DWord) : DWord × DWord × DWord × DWord :=
  if slot = 0 then
    match r.freeSlot with
    | none => (0x8000000000000000, r.reg, r.arr, r.ret)
    | some k =>
      (dw (k * 2 ^ 32) ||| r.rc.setWidth 64, r.reg ||| slotBit k, r.arr &&& ~~~(slotBit k), r.ret &&& ~~~(slotBit k))
  else
    let k := slot.toNat - 1
    if r.p ≤ k || !r.reg.getLsbD k then (0x4000000000000000, r.reg, r.arr, r.ret)
    else (r.rc.setWidth 64, r.reg &&& ~~~(slotBit k), r.arr &&& ~~~(slotBit k), r.ret ||| slotBit k)

/-- The answer of `rnd.reg` comes back (R313, R383): the held word completes, and its value is logged. -/
def Group.regDone (g : Group) (d : SReg) (log : Option Nat) (v : DWord) : Group :=
  match g.hold with
  | some h => if h.stage = regStage then (g.sReturn (log.getD 0) d v).next else g.logS (log.getD 0) v
  | none => g.logS (log.getD 0) v

/-- `rnd.reg` at the home of the record at `pa` (R314): its answer. -/
def State.regAt (s : State) (pa : Nat) (slot : DWord) : DWord × State :=
  match s.regionAt pa with
  | .valid r =>
    let x := regAnswer r slot
    (x.1, s.putRecord pa x.2.1 x.2.2.1 x.2.2.2)
  | _ => (0xC000000000000000, s)

/-- `rnd.reg` performed at the home of its record. -/
def State.homeReg (s : State) (m : Msg) (pa : Nat) (slot : DWord) (d : SReg) (log : Option Nat) : State :=
  let r := s.regAt pa slot
  r.2.modGroup m.gid fun g => g.regDone d log r.1

/-- An arrival recorded at the home of the record at `pa` (R315 step 3): the counter as it stands. -/
def State.arriveAt (s : State) (c pa region slot : Nat) : Option Word × State :=
  match s.regionAt pa with
  | .valid r =>
    let s1 := s.putRecord pa r.reg (r.arr ||| slotBit slot) r.ret
    (some r.rc, { s1 with arrivedSince := (c, region) :: s1.arrivedSince.filter (· ≠ (c, region)) })
  | _ => (none, s)

/-- The group whose arrival has been recorded waits for round RC + 1 (R315 step 4). -/
def Group.awaitRound (g : Group) (rc : Word) (now : Nat) : Group :=
  match g.hold with
  | some h => if h.stage = advStage + 3 then { g with hold := some { h with stage := advStage + 4, val := dw (rc.toNat + 1), since := now } } else g
  | none => g

/-- The arrival of `rnd.adv` recorded at the home of its record (R315 step 3): the group waits for round RC + 1. -/
def State.homeArrive (s : State) (m : Msg) (pa region slot : Nat) : State :=
  let r := s.arriveAt m.ctx pa region slot
  match r.1 with
  | some rc => r.2.modGroup m.gid fun g => g.awaitRound rc s.cycle
  | none => s

/-- A message of an NCU operation performed at its home (R228): an atomic, a write-back, a round instruction. -/
def State.performNcu (s : State) (m : Msg) (pa : Nat) : State :=
  match m.kind with
  | .atomic op ty c d cas req => s.homeAtomic m pa op ty c d cas req
  | .store bytes p true => s.homeStore m pa bytes p
  | .roundReg _ slot d log => s.homeReg m pa slot d log
  | .roundArrive i slot => s.homeArrive m pa i slot
  | _ => s

/-- The message is one that `ncuOperation` performs. -/
def MsgKind.isNcu : MsgKind → Bool
  | .atomic _ _ _ _ _ _ | .store _ _ true | .roundReg _ _ _ _ | .roundArrive _ _ => true
  | _ => false

/-- A message reaches its home (R228, R229): performed when nothing stands before it and the home accepts it. -/
def State.atHome (s : State) (id : Nat) (want : MsgKind → Bool) (perform : State → Msg → Nat → State) : State :=
  match aget s.net id with
  | none => s
  | some m =>
    match m.place with
    | .home pa =>
      if m.rejected.isSome || !want m.kind || s.homeBusy pa || s.msgBlocked id m || s.msgFate m ≠ .serve then s
      else (perform s m pa).arrived id m
    | _ => s

/-- A dirty line of L2 is evicted; dirty granules of the persistence tier leave as images (R230, R348). -/
def State.l2Evict (s : State) (line : Nat) : State :=
  if s.l2dirty.contains line then
    let gs := s.l2tierDirty.filter fun g => g / 2 = line
    ({ s with l2dirty := s.l2dirty.filter (· ≠ line), l2tierDirty := s.l2tierDirty.filter fun g => g / 2 ≠ line }.sendImages gs).2
  else s

/-- NCU_OPERATION (R228): a read of the matrix engine is one of them (R265), and a read of the collective engine (R335). -/
def execNcuOperation (op : NcuOp) (s : State) : Out :=
  match op with
  | .loadPart r ix => .next (if (aget s.reqs r).isSome then (s.servePart r ix).latchPart r ix else s.collPart r ix)
  | .message id => .next (s.atHome id MsgKind.isNcu State.performNcu)
  | .evict line => .next (s.l2Evict line)

/-- A store of an active message. -/
def MsgKind.isActive : MsgKind → Bool
  | .store _ _ false => true
  | _ => false

/-- ACTIVE_MESSAGE (R229). -/
def execActiveMessage (id : Nat) (s : State) : Out :=
  .next (s.atHome id MsgKind.isActive fun st m pa =>
    match m.kind with
    | .store bytes p _ => st.homeStore m pa bytes p
    | _ => st)

/-! ## Scratchpad -/

/-- A scratchpad message performed at the owning core (R224, R246). -/
def State.performScratch (s : State) (m : Msg) (t o : Nat) : State :=
  match m.kind with
  | .scratchStore bytes => s.spWrite t o bytes
  | .scratchAtomic op ty c d req =>
    let n := if ty = .b64 then 8 else 4
    (match aget s.teams t with
     | none => s
     | some x =>
       let old := x.spRead o n
       (s.spWrite t o (leBytes n (atomNew op ty (op = 8) (leDWord old) c d).toNat)).answer req old)
  | _ => s

/-- A message reaches the core that owns its scratchpad (R224, R285). -/
def State.atScratch (s : State) (id : Nat) (want : MsgKind → Bool) (perform : State → Msg → Nat → Nat → State) : State :=
  match aget s.net id with
  | none => s
  | some m =>
    match m.place with
    | .scratch t o =>
      if m.rejected.isSome || !want m.kind || s.msgBlocked id m || s.msgFate m ≠ .serve then s
      else (perform s m t o).arrived id m
    | _ => s

/-- A part of a cluster load reaches the owning core (R224). -/
def State.scratchPart (s : State) (id ix : Nat) : State :=
  match aget s.reqs id with
  | none => s
  | some q =>
    match q.parts[ix]? with
    | none => s
    | some p =>
      match p.place with
      | .scratch t o =>
        if p.settled || q.atomic || q.faulted || s.partBlocked id q p || s.partFate q p ≠ .serve then s
        else match aget s.teams t with
          | some x => (s.fillPart id ix (x.spRead o p.n)).verdict id
          | none => s
      | _ => s

/-- The message is an ordinary scratchpad access. -/
def MsgKind.isScratch : MsgKind → Bool
  | .scratchStore _ | .scratchAtomic _ _ _ _ _ => true
  | _ => false

/-- CLUSTER_SCRATCHPAD_ARRIVAL (R224): a message, or a part of a load. -/
def execClusterScratchpadArrival (id lane : Nat) (s : State) : Out :=
  if (aget s.net id).isSome then .next (s.atScratch id MsgKind.isScratch State.performScratch)
  else .next (s.scratchPart id lane)

/-! ## Rejections -/

/-- LATE_FAULT (R144, R237): the home rejects an access, or a load's data is poison. -/
def execLateFault (id lane : Nat) (s : State) : Out :=
  match aget s.net id with
  | some m =>
    if m.rejected.isSome || s.msgBlocked id m then .next s
    else match s.msgFate m with
      | .bad code => .next (s.rejectMsg id code)
      | _ => .next s
  | none =>
    match aget s.reqs id with
    | none => .next s
    | some q =>
      match q.parts[lane]? with
      | none => .next s
      | some p =>
        if q.atomic || q.faulted || p.value.isSome then .next s
        else if p.reject.isSome then .next (s.verdict id)
        else if s.partBlocked id q p then .next s
        else match s.partFate q p with
          | .bad code => .next (s.rejectPart id lane code)
          | _ => .next s

/-- A message has not left its core: a persist barrier or an access that stands before it holds it (R143, R353, R376). -/
def State.unsent (s : State) (id : Nat) (m : Msg) : Bool := s.msgBlocked id m && !m.sentOut

/-- A part has not left its core, or its line home has accepted it and holds it for its round (R319). -/
def State.unsentPart (s : State) (id : Nat) (q : Req) (p : Part) : Bool :=
  (p.sent.isNone && s.partBlocked id q p) || (p.region.isSome && !s.roundMet q p)

/-- Every outstanding access of the group has been accepted or rejected (R375 step 2). -/
def State.staleSettled (s : State) (gid : Nat) : Bool :=
  (s.net.all fun x => x.2.gid ≠ gid || x.2.rejected.isSome || s.unsent x.1 x.2) &&
  (s.reqs.all fun x => x.2.gid ≠ gid || x.2.atomic || x.2.parts.all fun p => p.settled || s.unsentPart x.1 x.2 p)

/-- STALE_GENERATION_REISSUE (R375 steps 3 and 4): the fresh translation walks under the core's GENSTAMP, which the homes must have adopted (R219). -/
def execStaleGenerationReissue (gid : Nat) (s : State) : Out :=
  match s.who gid with
  | none => .next s
  | some w =>
    if w.g.staleWait && s.staleSettled gid && s.genStamp w.core w.ctx = (s.ctx w.ctx).gen then
      .next ((s.modGroup gid fun g => { g with staleWait := false }).reissueAll gid fun c => c = 0x07)
    else .next s

/-! ## The weight store's rotation (R226) -/

/-- WEIGHT_STORE_REFRESH: the next bank's slot begins 13,600 cycles after the last one's; after bank 7 a new period begins. -/
def execWeightStoreRefresh (die : Nat) (s : State) : Out :=
  let d := s.die die
  if !d.wsBusy && d.wsOrigin + 13600 ≤ s.cycle then
    .next (s.modDie die fun x => { x with
      wsOrigin := x.wsOrigin + 13600, wsBusy := true, wsBank := (x.wsBank + 1) % 8
      wsEpoch := if x.wsBank = 7 then (x.wsEpoch + 1) % 2 ^ 32 else x.wsEpoch })
  else .next s

/-- The parts of loads that stand at a place, in the order of their requests. -/
def State.waitingParts (s : State) (f : Nat → Bool) : List (Nat × Nat) :=
  s.reqs.flatMap fun x => (List.range x.2.parts.length).filterMap fun i =>
    match x.2.parts[i]? with
    | some p => (match p.place with
      | .home pa => if !p.settled && f pa then some (x.1, i) else none
      | _ => none)
    | none => none

/-- WEIGHT_STORE_BANK_RETURN: 3,400 cycles after its slot began the bank is back, and the waiting reads are served in their order. -/
def execWeightStoreBankReturn (die : Nat) (s : State) : Out :=
  let d := s.die die
  if d.wsBusy && d.wsOrigin + 3400 ≤ s.cycle then
    let s1 := s.modDie die fun x => { x with wsBusy := false }
    let waiting := s.waitingParts fun pa =>
      wsBase ≤ pa && pa < wsEnd && (pa - wsBase) / 2 ^ 29 = die && (pa - wsBase) % 2 ^ 29 / 2 ^ 26 = d.wsBank
    .next (waiting.foldl (fun st x => st.servePart x.1 x.2) s1)
  else .next s

/-! ## The walker (R217, R218) -/

/-- A core reads region record `i` on another package (R310, R326): the first that its accesses miss. -/
def State.readTable (s : State) (c : Nat) (ea : DWord) (l : Leaf) : State :=
  let i := (ea.toNat - (regionVa 0).toNat) / 64
  if ea.toNat < (regionVa 0).toNat || l.pkg = s.self || !s.tablePage l || s.devAsks.any fun d => d.2 == .table c i then s
  else (s.askDevice c l.pkg (l.pa / 64 * 64) (.load 64 none) (.table c i)).2

/-- PAGE_WALK: a walk that ends in a leaf fills the core's TLB and its die's; a failed walk leaves no record, nor does one that the homes
reject for its generation (R219). The reads of the entries write corrections back (R398).
A walk to a region record on another package goes on to read it (R310). -/
def execPageWalk (core : CoreKey) (c : BitVec 6) (ea : DWord) (s : State) : Out :=
  if 2 ^ 57 ≤ ea.toNat || spWindow ≤ ea.toNat || s.genStamp core c.toNat ≠ (s.ctx c.toNat).gen then .next s
  else
    let root := (s.ctx c.toNat).ptroot
    let s1 := (s.walkReads (s.ctx c.toNat).secure ea 4 (dbits root 51 12 * 4096)).foldl (fun st pa => st.eccTouch pa 8) s
    match s.walk c.toNat ea with
    | .bad _ => .next s1
    | .leaf l =>
      let e : TlbEntry := {
        ctx := c.toNat, gen := s.genStamp core c.toNat, base := ea.toNat / l.size * l.size, size := l.size, leaf := l.raw }
      .next (((s1.readTable c.toNat ea l).modCore core fun k => { k with tlb := (e :: k.tlb.filter (· ≠ e)).take 64 }).modDie core.die fun d =>
        { d with tlb := (e :: d.tlb.filter (· ≠ e)).take 16384 })

end Sys2Proof.Machine
end

