-- ==== Sys2Proof/Machine/SCsr.lean ====
section
/-!
DEFINITION. CSR access (R83, R84, R88, R120, R123, R150, R151).
-/
namespace Sys2Proof.Machine

/-- What a `csrr` of a number finds (R83): a value, a slow CSR, or no readable CSR. -/
inductive CsrRead | value (v : DWord) | slow | absent
deriving DecidableEq, Repr

/-- The CSRs that a group reads (R83). -/
def State.csr (s : State) (w : Who) (num : Nat) : CsrRead :=
  let g := w.g
  if num = 0x001 then .value g.trap.cause
  else if num = 0x002 then .value g.trap.pc
  else if num = 0x003 then .value g.trap.lpc
  else if num = 0x004 then .value g.trap.addr
  else if num = 0x005 then .value g.trap.donemask
  else if num = 0x006 then .value g.trap.rp
  else if num = 0x008 then .value (dw (g.ovfl.read s.cycle).toNat)
  else if num = 0x009 then .value (dw (g.nval.read s.cycle).toNat)
  else if 0x010 ≤ num && num ≤ 0x017 then .value (g.modReg (num - 0x010))
  else if num = 0x020 then .value ((s.core w.core).cgRead s.cycle)
  else if num = 0x021 then .value (s.ctx w.ctx).hanglim
  else if num = 0x022 then .value (dw s.cycle)
  else if num = 0x023 then .value ((s.genStamp w.core w.ctx).setWidth 64)
  else if num = 0x030 || (0x040 ≤ num && num ≤ 0x044) then .slow
  else if 0x1000 ≤ num && num ≤ 0x1FFF then .value (((s.core w.core).floor w.ctx (num - 0x1000)).setWidth 64)
  else .absent

/-- `csrr`: a fast CSR at issue, a slow one as a producer (R86), an absent or write-only one a trap (R84). -/
def execCsrr (d : SReg) (num : BitVec 14) (s : State) : Out :=
  sIssueWho s [d] fun w =>
    match s.csr w num.toNat with
    | .absent => sTrap s w.gid w.g 0x01 0 0
    | .value v => sWrite s w.gid w.g d v
    | .slow =>
      let q : Req := {
        gid := w.gid, lane := false, pc := w.g.spc, lpc := 0xFFFFFFFF, dst := .slowCsr d num.toNat, parts := []
        core := w.core, ctx := w.ctx, since := s.cycle }
      .next { (s.setGroup w.gid (w.g.sempty d).next) with reqs := aset s.reqs s.nextId q, nextId := s.nextId + 1 }

/-- `csrw SEMPTY` (R88): bit 0 is ignored. -/
def execCsrwSempty (a : SReg) (s : State) : Out :=
  sIssue s [a] fun gid g => .next (s.setGroup gid { g with sfe := g.sfe &&& (~~~(g.sget a) ||| 1) }.next)

/-- `csrw CGSEED` (R84, R123). -/
def execCsrwCgseed (a : SReg) (s : State) : Out :=
  sIssueWho s [a] fun w =>
    .next ((s.modCore w.core fun k => k.cgSeed s.cycle (w.g.sget a)).setGroup w.gid w.g.next)

/-- `csrw OVFL` (R120): bit 0 clears. -/
def execCsrwOvfl (a : SReg) (s : State) : Out :=
  sIssue s [a] fun gid g =>
    .next (s.setGroup gid (if (g.sget a).getLsbD 0 then { g with ovfl := g.ovfl.clear s.cycle } else g).next)

/-- `csrw NVAL` (R120). -/
def execCsrwNval (a : SReg) (s : State) : Out :=
  sIssue s [a] fun gid g =>
    .next (s.setGroup gid (if (g.sget a).getLsbD 0 then { g with nval := g.nval.clear s.cycle } else g).next)

/-- `csrw MOD` (R84, R151): a zero length traps and leaves the register unchanged. -/
def execCsrwMod (m : BitVec 3) (a : SReg) (s : State) : Out :=
  sIssue s [a] fun gid g =>
    if dbits (g.sget a) 63 32 = 0 then sTrap s gid g 0x01 0 0
    else .next (s.setGroup gid { g with mods := aset g.mods m.toNat (g.sget a) }.next)

end Sys2Proof.Machine
end

