-- ==== Sys2Proof/Machine/SGuard.lean ====
section
/-!
DEFINITION. Guards and lane blocks (R92, R94, R148, R149).
-/
namespace Sys2Proof.Machine

/-- `lrun` (R148): the block enters the L-queue; it is not quarantined (R378). -/
def execLrun (g : GuardSel) (off : BitVec 21) (s : State) : Out :=
  sAccess s [] fun w =>
    s.enqueueGate w .lrun fun _ =>
      .next (s.enqueue w.gid w.g.next
        { kind := .lrun, guard := slotOf g, pc := w.g.spc, args := [off.setWidth 64], released := true })

/-- A guard slot resolved by `gset` or `gnot` (R92). -/
def sResolve (s : State) (slot : BitVec 4) (a : SReg) (f : DWord → Bool) : Out :=
  sIssue s [a] fun gid g =>
    if (aget g.guards slot.toNat).isSome then sTrap s gid g 0x01 0 0
    else .next (s.setGroup gid { g with guards := aset g.guards slot.toNat (f (g.sget a)) }.next)

def execGset (slot : BitVec 4) (a : SReg) (s : State) : Out := sResolve s slot a fun x => x ≠ 0
def execGnot (slot : BitVec 4) (a : SReg) (s : State) : Out := sResolve s slot a fun x => x = 0

/-- Stage of a group whose `gfree` waits. -/
def gfreeStage : Nat := 30

/-- `gfree` (R92, R149): an unresolved slot completes at once; a resolved one waits for its queued commands, or traps where that wait
could not end. `gfreeRelease` ends the wait. -/
def execGfree (slot : BitVec 4) (s : State) : Out :=
  sIssueWho s [] fun w =>
    let g := w.g
    if (aget g.guards slot.toNat).isNone then .next (s.setGroup w.gid g.next)
    else if s.slotDeadlocked g slot.toNat then sTrap s w.gid { g with hold := none } 0x01 1 0
    else if s.slotNamed g slot.toNat then
      s.sStall w.gid { g with hold := some { pc := g.spc, stage := gfreeStage, since := s.cycle, val := dw slot.toNat } } .none 0
    else .next (s.setGroup w.gid { g with guards := adel g.guards slot.toNat }.next)

end Sys2Proof.Machine
end

