-- ==== Sys2Proof/Machine/ECore.lean ====
section
/-!
DEFINITION. Steps of a core: the quarantine (R378), landing producers (R86), releases (R304), write-backs (R222), lane blocks (R170),
waits and watchdogs (R89, R155, R186, R320, R451), regions (R380), strikes and their replay (R386, R388), errors of registers and of the
core store (R401), and the generation bump on a core (R219).
-/
namespace Sys2Proof.Machine

/-! ## Leaving the quarantine (R378) -/

/-- The issuing core's L1 at the send of a message (R221): an atomic writes the line back and drops it; a store updates a valid copy, or
drops a line of a round region (R316). A copy that a later message has written already is left. -/
def State.l1AtSend (s : State) (m : Msg) : State :=
  match m.place with
  | .home pa =>
    let ln := pa / 128 * 128
    (match (s.core m.core).l1Find m.ctx ln with
     | none => s
     | some x =>
       match m.kind with
       | .atomic _ _ _ _ _ _ => (s.writeBackLine m.core x m.gen).modCore m.core fun k => k.l1Drop m.ctx ln
       | .store bytes _ _ =>
         if x.region.isSome then s.modCore m.core fun k => k.l1Drop m.ctx ln
         else if s.net.any fun y => y.2.gid = m.gid && m.precedes y.2.issue y.2.lane && y.2.place.meets y.2.kind.len m.place m.kind.len then s
         else s.modCore m.core fun k => k.l1Put (x.update pa bytes)
       | _ => s)
  | _ => s

/-- A message leaves its core. -/
def State.sendNow (s : State) (m : Msg) : State := ((s.l1AtSend m).send m).2.flushRemote

/-- A message that a release has held back leaves its core, in the round that its release gave it (R304). -/
def State.sendAfter (s : State) (m : Msg) : State := ((s.l1AtSend m).post m).2.flushRemote

/-- Whole words of bytes. -/
def wordsOf : Nat → List (Option Byte) → List Word
  | 0, _ => []
  | n + 1, bs => w32 (leNat ((bs.take 4).map fun b => b.getD 0)) :: wordsOf n (bs.drop 4)

/-- The group's team has retired (R373, R395). -/
def State.groupGone (s : State) (gid : Nat) : Bool :=
  match aget s.groups gid with
  | some g => s.teamGone g.team
  | none => true

/-- A store of whole words is written into L1 (R221), unless an earlier access of the group to these bytes is still on its way, the line
is one of a round region, the core has no L1 or the team is gone, or the store carries an older generation: then it travels as a message. -/
def State.storeL1 (s : State) (m : Msg) : State :=
  match m.place, m.kind with
  | .home pa, .store bytes _ _ =>
    let ln := pa / 128 * 128
    let s1 := s.l1Claim m.core m.ctx ln
    let x := ((s1.core m.core).l1Find m.ctx ln).getD { pa := ln, ctx := m.ctx }
    if m.gen ≠ s1.genStamp m.core m.ctx || !(s1.core m.core).hasL1 || x.region.isSome ||
        s1.groupGone m.gid || s1.olderMsg m.gid m.issue m.lane m.place bytes.length || s1.olderPart m.gid m.issue m.place bytes.length then s1.sendNow m
    else ((s1.touchStreams pa bytes.length m.outOf).l1Room m.core m.ctx ln).modCore m.core fun k => k.l1Put (x.store pa (wordsOf (bytes.length / 4) bytes))
  | _, _ => s.sendNow m

/-- The producers of a message's party that were issued before it (R298). -/
def State.partyReqs (s : State) (m : Msg) : List Nat :=
  (if m.isLane then s.laneReqs m.gid m.covers else s.sReqs m.gid).filter fun i => i < m.issue

/-- An effect leaves the quarantine and is performed or sent (R378). -/
def State.leave (s : State) (e : Effect) : State :=
  match e with
  | .msg m => s.sendNow m
  | .l1Store m => s.storeL1 m
  | .releaseThen scope m team off =>
    let sc := match scope with
      | some x => x
      | none => (match aget s.teams team with
        | some t => t.barScope off
        | none => .grp)
    (s.beginRelease m.gid m.core m.ctx sc (s.partyReqs m) [m]).2
  | .cmd _ id => { s with cmds := amod s.cmds id fun c => { c with released := true } }
  | .hold => s
  | .perLaneCopy toScratch m team o n bar _ => s.startLane toScratch m team o n bar

/-- The release counts after an entry has left (R383): RS, and RL of its lanes; entries of an earlier region do not count. -/
def Group.countLeft (g : Group) (q : Quar) : Group :=
  if !q.sinceOpen then g
  else { g with region := g.region.map fun r => { r with
      rs := if q.lanes.isEmpty then max r.rs q.sOrdinal else r.rs
      rl := q.lOrdinals.foldl (fun t x => aset t x.1 (max ((aget t x.1).getD 0) x.2)) r.rl
      again := r.again.filter fun x => !(if q.lanes.isEmpty then x = (0, q.sOrdinal) else q.lOrdinals.contains (x.1 - 1, x.2) && x.1 ≠ 0) } }

/-- The effect is an arrival whose release takes its scope from the object, and an earlier update of the object by the group is still on its
way (R289): the scope is not known yet. -/
def State.scopeOpen (s : State) (e : Effect) : Bool :=
  match e with
  | .releaseThen none m team off => s.olderMsg m.gid m.issue m.lane (.scratch team off) 32
  | _ => false

/-- QUARANTINE_LEAVE (R378): the oldest entry of a group leaves 512 cycles after its issue, and not before the scopes of its arrivals stand. -/
def execQuarantineLeave (gid : Nat) (s : State) : Out :=
  match aget s.groups gid with
  | none => .next s
  | some g =>
    match g.quar with
    | [] => .next s
    | q :: rest =>
      if s.cycle < q.at_ + Config.quarantine || q.effects.any s.scopeOpen then .next s
      else .next (q.effects.foldl State.leave (s.setGroup gid ({ g with quar := rest }.countLeft q)))

/-! ## Releases (R304) -/

/-- RELEASE_COMPLETE: the counts match; what the release holds back is sent. -/
def execReleaseComplete (id : Nat) (s : State) : Out :=
  match aget s.rels id with
  | none => .next s
  | some r =>
    if s.releaseReady r then .next (r.after.foldl State.sendAfter { s with rels := adel s.rels id }) else .next s

/-! ## Producers (R86) -/

/-- The value of a slow CSR as its read lands (R83, R151, R227, R345). -/
def State.slowCsr (s : State) (die num : Nat) : DWord :=
  if num = 0x030 then
    let d := s.die die
    let t := d.wsTime s.cycle
    dw (t % 108800 + d.slotBank s.cycle * 2 ^ 17 + (d.refreshing s.cycle).toNat * 2 ^ 20 + (d.wsEpoch + t / 108800) % 2 ^ 32 * 2 ^ 32)
  else if num = 0x040 then s.normbox.sq.setWidth 64
  else if num = 0x041 then s.normbox.mult.setWidth 64
  else if num = 0x042 then dw s.normbox.skip.toNat
  else if num = 0x043 then s.normbox.optstep
  else s.normbox.step

/-- An S value written by its producer and logged where it returns (R383). -/
def Group.landS (g : Group) (d : SReg) (log : Option Nat) (v : DWord) : Group := (g.sput d v).logS (log.getD 0) v

/-- A lane producer lands in every lane that it writes: served elements, zero for demoted lanes, now-mode predicates (R86, R165, R319). -/
def Group.landReq (g : Group) (q : Req) (d : VReg) (size : Nat) (sext : Bool) (psel : Option (BitVec 5)) : Group :=
  let g1 := (g.landLanes q d size sext).mapLanes q.zeros fun _ x => x.land d size 0
  let g2 := match psel with
    | none => g1
    | some p => (g1.mapLanes q.served fun l x =>
        x.pput p.toNat (q.parts.any fun y => y.lane = l && y.stale)).mapLanes q.zeros fun _ x => x.pput p.toNat false
  (if size = 8 then (g2.vmarkFull d.toNat).vmarkFull (d.toNat + 1) else g2.vmarkFull d.toNat).logLanes q size

/-- The effect of a landed request on its group (R86, R143, R321). -/
def State.land (s : State) (q : Req) : State :=
  let s1 := match q.dst with
    | .scalar d sext size => s.modGroup q.gid fun g => g.landS d q.log (q.elem 0 size sext)
    | .slowCsr d num => s.modGroup q.gid fun g => g.sput d (s.slowCsr q.core.die num)
    | .value d v => s.modGroup q.gid fun g => (g.landS d q.log v).raiseOvfl s.cycle q.ovfl
    | .roundGet d c i =>
      let rc := w32 (leNat ((partsBytes q.parts 64).drop 24 |>.take 4))
      (s.modGroup q.gid fun g => g.sput d (rc.setWidth 64)).modCore q.core fun k => k.raiseFloor c i rc
    | .lanes d size sext psel => s.modGroup q.gid fun g => g.landReq q d size sext psel
    | .none => s.keepWord q.core q.ctx q.pc (w32 (leNat (partsBytes q.parts 4)))
    | .record | .silent => s
  match q.acquire with
  | some sc => s1.acquire q.core q.ctx sc
  | none => s1

/-- PRODUCER_LAND (R86): every part has come. The record read of `klaunch` is taken up by its own word. -/
def execProducerLand (id : Nat) (s : State) : Out :=
  match aget s.reqs id with
  | none => .next s
  | some q =>
    if q.dst == .record || q.faulted || !q.parts.all (fun p => p.value.isSome) then .next s
    else .next ({ s with reqs := adel s.reqs id }.land q)

/-! ## L1 (R222) -/

/-- L1_WRITE_BACK (R222): a line's dirty words leave for their home; an eviction drops the line as well. -/
def execL1WriteBack (core : CoreKey) (line : Nat) (evict : Bool) (s : State) : Out :=
  .next (((s.core core).l1.filter fun x => x.pa = line).foldl (fun st x =>
    let s1 := st.writeBackLine core x (st.genStamp core x.ctx)
    if evict then s1.modCore core fun k => k.l1Drop x.ctx line else s1) s)

/-- GENBUMP_CORE_ADOPT (R219 phase 1): the core adopts the new value, writes back the context's dirty words tagged with the old one, and
drops the context's lines. -/
def execGenbumpCoreAdopt (c : BitVec 6) (core : CoreKey) (s : State) : Out :=
  let x := s.ctx c.toNat
  match x.bump with
  | none => .next s
  | some b =>
    if b.adopted.contains (coreIx core) then .next s
    else
      let s1 := ((s.core core).l1.filter fun l => l.ctx == c.toNat).foldl (fun st l => st.writeBackLine core l x.gen) s
      let s2 := s1.modCore core fun k => { k with l1 := k.l1.filter fun l => l.ctx != c.toNat }
      .next (s2.modCtx c.toNat fun y => { y with bump := some { b with adopted := coreIx core :: b.adopted } })

/-- GENBUMP_CORE_REPORT (R219 phase 1): the core's write-backs under the old value have been acknowledged. -/
def execGenbumpCoreReport (c : BitVec 6) (core : CoreKey) (s : State) : Out :=
  let x := s.ctx c.toNat
  match x.bump with
  | none => .next s
  | some b =>
    if b.adopted.contains (coreIx core) && !b.reported.contains (coreIx core) &&
        !s.net.any fun y => y.2.isWriteBack && y.2.core = core && y.2.ctx = c.toNat && y.2.gen ≠ b.new then
      .next (s.modCtx c.toNat fun y => { y with bump := some { b with reported := coreIx core :: b.reported } })
    else .next s

/-! ## Lane blocks (R148, R170) -/

/-- The slices of a block that starts at offset `off` (R170): the lanes that have not exited. -/
def Group.startSlices (g : Group) (off : Word) : Tbl (List SliceState) :=
  (List.range (g.width / 4)).map fun i =>
    let m : BitVec 4 := BitVec.ofNat 4 (maskOf 4 fun j => (g.lane (4 * i + j)).life ≠ .exited)
    (i, if m = 0 then [] else [{ pc := off, depth := 0, mask := m }])

/-- A running `ofence` that was enqueued before command `id` holds it back (R278). -/
def State.fenceBefore (s : State) (g : Group) (id : Nat) : Bool :=
  (g.mq ++ g.cq).any fun i => i < id && (match aget s.cmds i with
    | some c => c.kind == .ofence && c.started
    | none => false)

/-- The fences enqueued before block `id` note that a later block starts: they do not wait for its writes (R278). -/
def State.markFences (s : State) (g : Group) (id : Nat) : State :=
  { s with cmds := ((g.mq ++ g.cq).filter (· < id)).foldl (fun t i => amod t i fun c =>
      if c.kind == .ofence && c.later.isNone then { c with later := some s.nextId } else c) s.cmds }

/-- LANE_BLOCK_START (R170): the head of the L-queue starts, or is discarded by its guard (R93). No block starts while a `rnd.get` issued
before it is outstanding (R321). -/
def execLaneBlockStart (gid : Nat) (s : State) : Out :=
  match aget s.groups gid with
  | none => .next s
  | some g =>
    if g.block.isSome || !s.mayIssue g then .next s
    else match s.startable g 0 .lrun with
      | some (id, c) =>
        if s.reqs.any fun x => x.2.gid = gid && !x.2.faulted && x.1 < id && (match x.2.dst with
            | .roundGet _ _ _ => true
            | _ => false) then .next s
        else
          let off := (c.args.getD 0 0).setWidth 32
          let g1 := { g with
            block := some { cmd := id, start := off }, slices := g.startSlices off, gangs := []
            lanes := g.lanes.map fun p => (p.1, { p.2 with atEnd := false }) }
          .next (((s.startCmd id).markFences g id).endBlock gid g1)
      | none =>
        match s.discardable g 0 .lrun with
        | some (id, _) => .next (s.dropCmd gid id)
        | none => .next s

/-! ## Waits (R89, R155, R186, R202, R287, R320, R451) -/

/-- A wait of the group of this kind that still stands in this cycle and has lasted more than HANGLIM cycles. -/
def State.hung (s : State) (w : Who) (kind : HangKind) : Option Wait :=
  (w.g.waits.find? fun x =>
    x.2.kind = kind && x.2.seen = s.cycle && x.2.since + (s.ctx w.ctx).hanglim.toNat < s.cycle).map (·.2)

/-- BARRIER_HANG: the group is parked; TRAPPC and TRAPLPC name the waiting instruction, or the command that waits for another rank, whose
count starts again (R335). -/
def execBarrierHang (gid : Nat) (s : State) : Out :=
  match s.who gid with
  | none => .next s
  | some w =>
    match s.hungColl gid (s.ctx w.ctx).hanglim.toNat with
    | some (id, c) =>
      .next ({ s with colls := aset s.colls id { c with since := s.cycle } }.takeLate gid { code := 0x0A, late := true, pc := c.pc })
    | none =>
      if w.g.park.isSome then .next s
      else match s.hung w .barrier with
        | some x =>
          .next ((s.setGroup gid { w.g with waits := [] }).takeCause gid
            { code := 0x0A, lane := x.lpc ≠ 0xFFFFFFFF, pc := x.pc, lpc := x.lpc, addr := x.addr, donemask := w.g.trap.donemask }
            (x.lpc = 0xFFFFFFFF && x.pc = w.g.spc))
        | none => .next s

/-- A load of the group that a home has held for its round longer than HANGLIM (R320); one that has gone to another package counts from its
issue (log 100). -/
def State.heldLoad (s : State) (w : Who) : Option (Nat × Req) :=
  s.reqs.find? fun x => x.2.gid = w.gid && !x.2.faulted && x.2.parts.any fun p =>
    !p.settled && p.region.isSome && (match p.place, p.sent with
      | .home _, some c => decide (c + (s.ctx w.ctx).hanglim.toNat < s.cycle)
      | .remote _ _, some _ => decide (x.2.since + (s.ctx w.ctx).hanglim.toNat < s.cycle)
      | _, _ => false)

/-- The lowest lane's held part. -/
def Req.lowestHeld (q : Req) : DWord :=
  match (q.parts.filter fun p => !p.settled && p.sent.isSome).foldl (fun (acc : Option Part) p => match acc with
      | none => some p
      | some b => if p.lane < b.lane then some p else some b) none with
  | some p => p.ea
  | none => 0

/-- ROUND_HANG (R320): a held load is abandoned with its destination as a fault leaves it, or the wait of `rnd.adv` parks. -/
def execRoundHang (gid : Nat) (s : State) : Out :=
  match s.who gid with
  | none => .next s
  | some w =>
    match s.heldLoad w with
    | some (id, q) =>
      let parts := q.parts.map fun p => if p.settled then p else { p with reject := some 0x0B, sent := none }
      let s1 := { (s.faultDst gid q.dst) with reqs := aset s.reqs id { q with parts := parts, faulted := true } }
      .next (s1.takeLate gid {
        code := 0x0B, lane := q.lane, late := true, pc := q.pc, lpc := q.lpc, addr := q.lowestHeld, donemask := w.g.trap.donemask })
    | none =>
      if w.g.park.isSome then .next s
      else match s.hung w .round with
        | some x =>
          .next ((s.setGroup gid { w.g with waits := [] }).takeCause gid { code := 0x0B, pc := x.pc, addr := x.addr } true)
        | none => .next s

/-- YIELD_EXPIRY (R155): 64 cycles after a `yield` the group's next word is ready again. -/
def execYieldExpiry (gid : Nat) (s : State) : Out :=
  match aget s.groups gid with
  | none => .next s
  | some g =>
    match g.yieldFrom with
    | some c => if c + 64 ≤ s.cycle then .next (s.setGroup gid { g with yieldFrom := none }) else .next s
    | none => .next s

/-- The sub-gang at (pc, depth) of a group. -/
def Who.gangAt (w : Who) (pc : Word) (depth : Nat) : LaneCtx :=
  let slices := w.g.gang pc depth
  let lanes := w.g.gangLanes slices
  { who := w, pc := pc, depth := depth, slices := slices, lanes := lanes, act := lanes }

/-- REGANG_TIMEOUT (R186): n cycles after it reached its `regang`, the sub-gang issues it as `nop`, where it may join the set of this cycle; else
the lane issue of its core takes it up, in the order of R108 and R109. -/
def execRegangTimeout (gid : Nat) (pc : Word) (depth : Nat) (s : State) : Out :=
  match s.who gid with
  | none => .next s
  | some w =>
    let c := w.gangAt pc depth
    match (w.g.gangRec pc depth).regang with
    | some t =>
      if t ≤ s.cycle && !c.slices.isEmpty && s.mayIssue w.g && !(w.g.block.any fun b => b.stopped) && !w.g.inRgn false && s.mayJoin w pc depth then
        (s.joinSet w.core gid (w.g.gangMask c.slices)).laneNext c w.g
      else .next s
    | none => .next s

/-- GFREE_RELEASE (R92): no queued command names the slot any more. -/
def execGfreeRelease (gid : Nat) (s : State) : Out :=
  match aget s.groups gid with
  | none => .next s
  | some g =>
    match g.hold with
    | some h =>
      if h.stage = gfreeStage && !s.slotNamed g h.val.toNat && s.mayIssue g then
        .next (s.setGroup gid { g with guards := adel g.guards h.val.toNat }.next)
      else .next s
    | none => .next s

/-! ## Regions (R380, R381) -/

/-- The group with a region opened at its present state, the S-stream resuming at `pc`; `opened` is the first issue number in it. -/
def Group.openRegion (g : Group) (pc : DWord) (cmds : Tbl Cmd) (opened : Nat) : Group :=
  { g with
    region := some { ck := g.checkpoint pc cmds, opened := opened }
    quar := g.quar.map fun q => { q with sinceOpen := false } }

/-- RGN_CHECKPOINT (R380): after 384 cycles without a strike the region opens at the following instruction. -/
def execRgnCheckpoint (gid : Nat) (s : State) : Out :=
  match s.who gid with
  | none => .next s
  | some w =>
    match w.g.lrgn, w.g.hold with
    | some h, _ =>
      if h.stage = 1 && h.since + Config.regionWait ≤ s.cycle && s.mayIssue w.g then
        let c := w.gangAt (h.val.setWidth 32) (h.ids.getD 0 0)
        let g1 := { w.g with lrgn := none }.moveGang c fun _ => some (c.pc + 1, c.depth)
        .next (s.setGroup gid (g1.openRegion g1.spc s.cmds s.nextId))
      else .next s
    | none, some h =>
      if h.stage = rgnStage + 1 && h.since + Config.regionWait ≤ s.cycle && s.mayIssue w.g then
        let g1 := w.g.next
        .next (s.setGroup gid (g1.openRegion g1.spc s.cmds s.nextId))
      else .next s
    | none, none => .next s

/-! ## Strikes (R377, R386, R388) -/

/-- The zone of a strike on a core (R377): the groups resident there and the owner of its array. -/
def State.zone (s : State) (k : CoreKey) : List Nat :=
  ((s.groups.filter fun p => !p.2.done && ((match aget s.teams p.2.team with
      | some t => t.core = k
      | none => false) || (match (s.core k).array with
      | some a => a.owner = p.1
      | none => false)))).map (·.1)

/-- The producers that a discarded effect was to answer, and the commands that it was to start. -/
def Quar.answers (q : Quar) : List Nat := q.effects.flatMap fun e => e.msgs.filterMap fun m => m.kind.reqOf.map (·.1)
def Quar.commands (q : Quar) : List Nat := q.effects.filterMap fun e => match e with
  | .cmd _ id => some id
  | _ => none

/-- A discarded command is undone: it leaves its queues, its batch and its stream; a batch that it closed is open again (R386). -/
def State.undoCmd (s : State) (gid id : Nat) : State :=
  match aget s.cmds id with
  | none => s
  | some c =>
    { (s.dropCmd gid id) with
      streams := adel s.streams id
      batches := amod s.batches c.batch fun b => { b with
        pending := b.pending.filter (· ≠ id), closed := b.closed && c.kind != .mfence, dst := if c.kind == .mfence then 0 else b.dst } }

/-- The open batch of a group after its later ones are undone: its oldest unclosed batch; the others go. -/
def State.reopenBatch (s : State) (gid : Nat) : State :=
  match (s.batches.filter fun b => b.2.gid = gid && !b.2.closed).map (·.1) with
  | [] => s.modGroup gid fun g => { g with openBatch := 0 }
  | b :: rest => { s with batches := rest.foldl adel s.batches }.modGroup gid fun g => { g with openBatch := b }

/-- Quarantined effects that satisfy `f` are discarded, with what waits for them. -/
def State.discard (s : State) (gid : Nat) (f : Quar → Bool) : State :=
  match aget s.groups gid with
  | none => s
  | some g =>
    let out := g.quar.filter f
    let s1 := s.setGroup gid { g with quar := g.quar.filter fun q => !f q }
    let s2 := { s1 with reqs := (out.flatMap Quar.answers).foldl adel s1.reqs }
    ((out.flatMap Quar.commands).foldl (fun st i => st.undoCmd gid i) s2).reopenBatch gid

/-- The S-stream stands at a word that has been released and not performed yet (R386 step 3): it has left the quarantine, and `rnd.adv` has
still to send its arrival or to have it recorded. -/
def Group.ending (g : Group) : Bool :=
  match g.hold, g.region with
  | some h, some r =>
    (h.stage = 2 || h.stage = 3 || h.stage = 4 || h.stage = regStage || (advStage < h.stage && h.stage < advStage + 4)) &&
      g.quar.all fun q => q.sOrdinal ≠ r.sOrd || !q.lanes.isEmpty
  | _, _ => false

/-- What a strike leaves of the causes that a group holds: late faults and engine reports, but for those of accesses that the replay repeats
(R396). -/
def Group.keptCauses (g : Group) (r : Region) : List Cause := g.late.filter fun c => c.late && !c.issue.any (r.opened ≤ ·)

/-- The rejected loads of a group are dropped: the replay repeats them (R396). -/
def State.dropRejectedLoads (s : State) (gid : Nat) : State :=
  { s with reqs := s.reqs.filter fun x =>
      !(x.2.gid = gid && !x.2.atomic && x.2.dst != .record && x.2.parts.any fun p => p.reject.isSome) }

/-- The released accesses of a group's region that stand rejected are dropped, and the replay performs them (R387, R396): messages with the
producers that they answer, and transfers of lanes. -/
def State.dropForReplay (s : State) (gid : Nat) : State :=
  match (aget s.groups gid).bind (·.region) with
  | none => s
  | some r =>
    let out := s.net.filter fun x => x.2.gid = gid && x.2.rejected.isSome && !x.2.ords.isEmpty && r.opened ≤ x.2.issue
    let cps : Tbl Copy := s.copies.filter fun x => x.2.gid = gid && x.2.perLane && x.2.reject.isSome && !x.2.ords.isEmpty && r.opened ≤ x.2.issue
    let ids := out.map (·.1)
    let cids := cps.map (·.1)
    let s1 := out.foldl (fun st x => st.faultReq x.2) s
    let reqs := out.filterMap fun x => x.2.kind.reqOf.map (·.1)
    let s2 := { s1 with
      net := ids.foldl adel s1.net, copies := cids.foldl adel s1.copies, reqs := reqs.foldl adel s1.reqs }
    (s2.modGroup gid fun g =>
      { g with
        rejected := g.rejected.filter fun i => !ids.contains i
        staleWait := false
        region := g.region.map fun (y : Region) => { y with
          again := y.again ++ out.flatMap (fun x => x.2.ords) ++ cps.flatMap (fun x => x.2.ords) } }).markStale gid

/-- A group with a region is struck (R386 steps 1 and 2). A word that has been released goes on until it is performed. -/
def State.strikeRegion (s : State) (gid : Nat) : State :=
  (((s.modGroup gid fun g =>
    { g with
      hold := if g.ending then g.hold else none, late := (g.region.map g.keptCauses).getD g.late
      lrgn := none, waits := [], inHandler := false, park := none, striking := true, yieldFrom := none }).discard gid
    fun q => q.sinceOpen).dropRejectedLoads gid).dropForReplay gid

/-- STRIKE (R386, R388): groups with regions are rolled back; a group without one loses its quarantined effects and parks. -/
def execStrike (core : CoreKey) (s : State) : Out :=
  .next ((s.zone core).foldl (fun st gid =>
    match aget st.groups gid with
    | none => st
    | some g =>
      if g.region.isSome then st.strikeRegion gid
      else (st.discard gid fun _ => true).takeCause gid { code := 0x0D, pc := g.spc } false) s)

/-- Nothing of the group is on its way (R386 step 3). -/
def State.settled (s : State) (gid : Nat) : Bool :=
  (s.net.all fun x => x.2.gid ≠ gid || (x.2.rejected.isSome && x.2.rejected ≠ some 0x07)) &&
  (s.rels.all fun x => x.2.gid ≠ gid) &&
  (s.copies.all fun x => x.2.gid ≠ gid || !x.2.perLane || x.2.reject.isSome)

/-- How many lanes the restored life states return from exited. -/
def Group.revived (g : Group) (lives : List (Life × Bool)) : Nat :=
  ((List.range g.width).filter fun l =>
    (g.lane l).life = .exited && (match lives[l]? with
      | some (x, _) => x ≠ .exited
      | none => false)).length

/-- The lanes with the life states and the fences' releases of the checkpoint. -/
def Group.restoreLives (g : Group) (lives : List (Life × Bool)) (rel : List (Option Scope)) : Group :=
  { g with lanes := g.lanes.map fun p => match lives[p.1]? with
      | some (x, e) => (p.1, { p.2 with life := x, atEnd := e, relPend := (rel[p.1]?).getD none })
      | none => p }

/-- Registers written since the region opened hold free values, the others what they held (R382): a replay that reads one of them computes from an
undefined value. `n` numbers the free values. -/
def freeChanged (old now : Tbl DWord) (n : Nat) : Tbl DWord :=
  now.map fun x => if aget old x.1 = some x.2 then x else (x.1, Config.freeDWord (n + x.1))

/-- The lane registers and predicates likewise. -/
def Lane.freeChanged (x old : Lane) (n : Nat) : Lane :=
  let ch := x.preds ^^^ old.preds
  { x with
    regs := x.regs.map fun r => if aget old.regs r.1 = some r.2 then r else (r.1, Config.freeWord (n + r.1))
    preds := (x.preds &&& ~~~ch) ||| ((Config.freeWord (n + 256)).setWidth 24 &&& ch) }

/-- The group with every register that its region has written free (R382, log 90). -/
def Group.freeWritten (g : Group) (old : Snapshot) (n : Nat) : Group :=
  { g with
    sregs := freeChanged old.sregs g.sregs n
    mods := freeChanged old.mods g.mods (n + 128)
    lanes := g.lanes.map fun p => (p.1, p.2.freeChanged ((aget old.lanes p.1).getD p.2) (n + 512 * (p.1 + 1))) }

/-- How many free values a group's registers may take. -/
def freeSpan : Nat := 512 * 65

/-- The checkpoint restored (R386 step 4): counters of the region start again, its released counts and its log stay. -/
def Group.restore (g : Group) (r : Region) : Group :=
  let c := r.ck
  { g.restoreLives c.lives c.laneRel with
    spc := c.spc, sExited := c.sExited, slices := c.slices, block := c.block, lq := c.lq.map (·.1), guards := c.guards
    sfe := c.sfe, vfe := c.vfe, batchCtr := c.batchCtr, trap := { g.trap with donemask := c.donemask }
    gangs := [], hold := none, lrgn := none, waits := [], striking := false, kept := none, relPend := c.relPend, dmIssue := none
    region := some { r with sOrd := 0, lOrd := [], returning := 0, flr := 0 } }

/-- STRIKE_REPLAY (R386 steps 3 to 5): once the released effects have been performed and what was rejected meanwhile is left to the replay, or
reissued if it is older than the region. -/
def execStrikeReplay (gid : Nat) (s0 : State) : Out :=
  let s := s0.dropForReplay gid
  match aget s.groups gid with
  | none => .next s0
  | some g =>
    match g.striking, g.region with
    | true, some r =>
      if !g.quar.isEmpty || g.ending || g.staleWait || !s.settled gid || !s.producersLanded gid g then .next s0
      else
        let s1 := s.dropReqs gid
        let s2 := { s1 with cmds := r.ck.lq.foldl (fun (t : Tbl Cmd) (x : Nat × Cmd) => aset t x.1 x.2) (g.lq.foldl adel s1.cmds), fresh := s1.fresh + freeSpan }
        let s3 := { s2 with teams := amod s2.teams g.team fun t => { t with live := t.live + g.revived r.ck.lives } }
        .next ((s3.modGroup gid fun y => (y.freeWritten r.ck.regs s1.fresh).restore r).reissueAll gid fun _ => true)
    | _, _ => .next s0

/-! ## Errors of registers and the core store (R401) -/

/-- An error of an ECC word's bits (R398): one bit, of a clean word or of a poisoned one, or more. -/
def eccError (e : Option Ecc) (bit : Option Nat) : Ecc :=
  match e, bit with
  | none, some b => .bit b
  | some .poisoned, some b => .poisonedBit b
  | _, _ => .broken

/-- REGISTER_ECC_ERROR (R401): a double-bit error of a register parks the group; a scratchpad word is poisoned; a clean L1 word is dropped
to be fetched again, a dirty one is written back poisoned. An error of a memory word stays until a read of it (R398). -/
def execRegisterEccError (target : EccTarget) (s : State) : Out :=
  match target with
  | .register gid =>
    match aget s.groups gid with
    | none => .next s
    | some g => if g.done then .next s else .next (s.takeCause gid { code := 0x09, sub := 6, pc := g.spc } false)
  | .scratch team word =>
    .next (s.modTeam team fun t => if t.poisoned.contains word then t else { t with poisoned := word :: t.poisoned })
  | .memory word bit =>
    let pa := 32 * word
    if pa < s.hbmSize || (tierBase ≤ pa && pa < tierEnd) then .next { s with ecc := aset s.ecc word (eccError (aget s.ecc word) bit) } else .next s
  | .l1 core line word =>
    let xs := (s.core core).l1.filter fun x => x.pa = line && (aget x.words word).isSome
    .next (xs.foldl (fun st x =>
      let dirty := match aget x.words word with
        | some w => w.dirty
        | none => false
      let s1 := st.modCore core fun k => k.l1Put { x with words := adel x.words word }
      if dirty then
        let s2 := (s1.homeWrite (line + 4 * word) (List.replicate 4 (some 0)) st.stepTag false).2
        s2.poisonWord (line + 4 * word)
      else s1) s)

end Sys2Proof.Machine
end

