-- ==== Sys2Proof/Machine/EMatrix.lean ====
section
/-!
DEFINITION. The matrix engine: arrays and their owners (R260 to R262), latching (R264 to R266), partials (R268 to R271),
accumulations (R273, R274, R280), batches (R275, R276), `mrel` (R277) and `ofence` (R278).
-/
namespace Sys2Proof.Machine

/-! ## Arrays (R260, R261) -/

/-- Wait slot of the head of the M-queue in a group's waits. -/
def mWaitKey : Nat := 2 ^ 80

/-- The core of the follower of a pair (R261): the next column of the cluster's row, whether or not its team is still there. -/
def State.followerCore (s : State) (w : Who) : Option CoreKey :=
  if w.lrec.cluw ≤ w.team.member % w.lrec.cluw + 1 then none
  else some (s.physCore w.core.die (w.team.col + 1) w.team.row)

/-- The array of a core is free or owned by the group. -/
def State.claimable (s : State) (gid : Nat) (k : CoreKey) : Bool :=
  match (s.core k).array with
  | none => true
  | some a => a.owner = gid

/-- Every array that the group owns becomes free (R260, R277). -/
def State.freeArrays (s : State) (gid : Nat) : State :=
  { s with cores := s.cores.map fun p => (p.1, { p.2 with
      array := if p.2.array.any fun a => a.owner = gid then none else p.2.array }) }

/-- The group owns its core's array as leader, and the follower's for a pair (R266 step 1), with the given tile. -/
def State.claim (s : State) (w : Who) (pair : Bool) (tile : Option Tile) : State :=
  let s1 := (s.freeArrays w.gid).modCore w.core fun k => { k with array := some { owner := w.gid, follower := false, tile := tile } }
  match pair, s.followerCore w with
  | true, some k => s1.modCore k fun x => { x with array := some { owner := w.gid, follower := true } }
  | _, _ => s1

/-- The tile latched for the group (R260). -/
def State.tileOf (s : State) (w : Who) : Option Tile :=
  match (s.core w.core).array with
  | some a => if a.owner = w.gid && !a.follower then a.tile else none
  | none => none

/-! ## Commands of a batch -/

/-- A matrix command has completed or is discarded: it leaves its queue and its batch's list (R275). -/
def State.matrixDone (s : State) (gid id : Nat) (c : Cmd) : State :=
  let s1 := (s.dropCmd gid id).modGroup gid fun g => { g with waits := adel g.waits mWaitKey }
  { s1 with batches := amod s1.batches c.batch fun b => { b with pending := b.pending.filter (· ≠ id) } }

/-- A fault recorded in a batch (R269): `ix` orders the faults of one command. -/
def State.batchFault (s : State) (batch id ix cause : Nat) (pc addr : DWord) : State :=
  { s with batches := amod s.batches batch fun b => { b with
      faults := { key := id * 2 ^ 64 + ix, cause := cause, pc := pc, addr := addr } :: b.faults } }

/-- The engine's identity of a matrix command. -/
def State.matrixEng (s : State) (w : Who) (id : Nat) : Eng :=
  { gid := w.gid, core := w.core, ctx := w.ctx, team := w.g.team, size := w.lrec.scratch, gen := s.genStamp w.core w.ctx, issue := id }

/-! ## Reading a tile (R265) -/

/-- The addresses and sizes of the reads of a tile of `cols` columns, column by column; for NQ4 codes, block scales, super-scales. -/
def tileReads (a : List DWord) (cols : Nat) : List (DWord × Nat) :=
  let fmt := dbits (a.getD 1 0) 34 32
  let src := a.getD 0 0
  if fmt = 3 then
    ((List.range (128 * cols)).map fun i => (src + dw i, 1)) ++
    ((List.range (4 * cols)).map fun i => (a.getD 2 0 + dw i, 1)) ++
    (List.range (cols / 64)).map fun i => (a.getD 3 0 + dw (4 * i), 4)
  else
    let n := if fmt = 0 then 2 else 1
    (List.range (256 * cols)).map fun i =>
      (dwI (src.toNat + (i % 256 : Nat) * sextI (dbits (a.getD 1 0) 31 0) 32 + (n * (i / 256) : Nat)), n)

/-- A list cut into `m` pieces of `n`. -/
def pieces {α : Type} (n : Nat) : Nat → List α → List (List α)
  | 0, _ => []
  | m + 1, l => l.take n :: pieces n m (l.drop n)

/-- The tile made of its reads' values (R126, R265). -/
def tileOfReads (fmt cols : Nat) (vs : List (List Byte)) : Tile :=
  let ns := vs.map leNat
  if fmt = 3 then
    let codes := (ns.take (128 * cols)).flatMap fun b => [b % 16, b / 16]
    { fmt := fmt, codes := pieces 256 cols codes, bsc := (ns.drop (128 * cols)).take (4 * cols)
      ssc := (ns.drop (132 * cols)).map w32 }
  else { fmt := fmt, codes := pieces 256 cols ns }

/-- A latch ends (R266, R269): every element read, or the first faulted one recorded and the arrays unlatched. -/
def State.latch (s : State) (w : Who) (id : Nat) (c : Cmd) (pair : Bool) (ps : List Part) : State :=
  let s1 := s.matrixDone w.gid id c
  if w.g.done then s1
  else match ps.find? fun p => p.reject.isSome with
  | some p => (s1.claim w pair none).batchFault c.batch id p.lane (engCause (p.reject.getD 0)) c.pc p.ea
  | none =>
    s1.claim w pair (some (tileOfReads (dbits (c.args.getD 1 0) 34 32) (if pair then 256 else 128) (ps.map fun p => p.value.getD [])))

/-- The latch that the group's M-queue has under way. -/
def State.latching (s : State) (g : Group) (kind : CmdKind) : Option (Nat × Cmd) :=
  (g.mq.filterMap fun i => (aget s.cmds i).map fun c => (i, c)).find? fun x => x.2.kind = kind && x.2.req.isSome

/-- A latch under way goes on (R265): what has not been read yet is read now, as far as it can be, or asked of another package; when every element
has come it ends. -/
def State.goOnLatch (s : State) (w : Who) (id : Nat) (c : Cmd) (pair : Bool) : State :=
  let rid := c.req.getD 0
  match aget s.reqs rid with
  | none => s
  | some q =>
    let r := s.readTile (s.latchEng rid q) q.parts
    if r.2.all Part.settled then { r.1 with reqs := adel r.1.reqs rid }.latch w id c pair r.2
    else { r.1 with reqs := aset r.1.reqs rid { q with parts := r.2 } }.launchParts rid

/-- The reads of a tile, none of them made yet. -/
def tileParts (gen : BitVec 12) (rs : List (DWord × Nat)) : List Part :=
  (List.range rs.length).zipWith (fun i (r : DWord × Nat) => { lane := i, n := r.2, ea := r.1, place := .home 0, gen := gen }) rs

/-- A latch begins: it waits for its arrays (R262) and claims them; its elements are read from then on, each at its own time (R265), by
`NCU_OPERATION` singly or together by the command's next step. -/
def State.beginLatch (s : State) (w : Who) (id : Nat) (c : Cmd) (pair : Bool) : State :=
  let cores := match pair, s.followerCore w with
    | true, some k => [w.core, k]
    | _, _ => [w.core]
  if !cores.all fun k => s.claimable w.gid k then
    s.modGroup w.gid fun g => g.noteWait mWaitKey s.cycle .barrier c.pc 0xFFFFFFFF 0
  else
    let s1 := s.claim w pair none
    let q : Req := {
      gid := w.gid, lane := false, pc := c.pc, lpc := 0xFFFFFFFF, dst := .record, core := w.core, ctx := w.ctx, since := s.cycle, atomic := true
      parts := tileParts (s.genStamp w.core w.ctx) (tileReads c.args (if pair then 256 else 128)) }
    { s1 with
      reqs := aset s1.reqs s1.nextId q, nextId := s1.nextId + 1
      cmds := amod s1.cmds id fun x => { x with started := true, req := some s1.nextId } }.modGroup w.gid fun g =>
        { g with waits := adel g.waits mWaitKey }

/-- A step of `mld` or `mld.pair`: one under way goes on, else the head of the M-queue starts or is discarded. -/
def State.latchStep (s : State) (gid : Nat) (kind : CmdKind) : State :=
  match s.who gid with
  | none => s
  | some w =>
    match s.latching w.g kind with
    | some (id, c) => s.goOnLatch w id c (kind = .mldPair)
    | none =>
      match s.nextCmd w.g 1 kind with
      | some (id, c, false) => s.beginLatch w id c (kind = .mldPair)
      | some (id, c, true) => s.matrixDone gid id c
      | none => s

/-- MLD_START (R266). -/
def execMldStart (gid : Nat) (s : State) : Out := .next (s.latchStep gid .mld)

/-- MLD_PAIR_START (R261, R266). -/
def execMldPairStart (gid : Nat) (s : State) : Out := .next (s.latchStep gid .mldPair)

/-! ## Partials (R270, R271) -/

/-- The activation format of AFMT (R267). -/
def actFmt (a : Nat) : Fmt := if a = 0 then fmtBf16 else if a = 1 then fmtF8e4 else fmtF8e5

/-- The larger of the leading exponents of the nonzero products. -/
def topOf : List Fp → Option Int
  | [] => none
  | .fin _ m e :: t =>
    if m = 0 then topOf t
    else match topOf t with
      | some x => some (max x (topExp m e))
      | none => some (topExp m e)
  | _ :: t => topOf t

/-- A product truncated toward zero to a multiple of 2^u, in units of 2^u (R270). -/
def truncAt (u : Int) (p : Fp) : Int :=
  match p with
  | .fin n m e => if n then -((splitAt m (e - u)).1 : Int) else ((splitAt m (e - u)).1 : Int)
  | _ => 0

/-- The sum of a group's products before rounding (R270, R271). -/
def groupSum (ps : List Fp) : Fp :=
  if ps.any Fp.isNan || (ps.contains (.inf true) && ps.contains (.inf false)) then .nan
  else if ps.contains (.inf true) then .inf true
  else if ps.contains (.inf false) then .inf false
  else match topOf ps with
    | none => .fin (ps.all Fp.isNeg) 0 0
    | some top =>
      let u := top - 40
      let v := (ps.map (truncAt u)).foldl (· + ·) 0
      .fin (v < 0) v.natAbs u

/-- The weight of element (k, n) in a product (R270). `transposed` folds the block scale in. -/
def Tile.weight (t : Tile) (transposed : Bool) (k n code : Nat) : Fp :=
  if t.fmt = 3 then
    let b := t.bsc.getD (4 * n + k / 64) 0
    if b = 0 then .fin false 0 0
    else if transposed then .fin (code / 8 % 2 = 1) (nqK (code % 8) * b) (-17)
    else .fin (code / 8 % 2 = 1) (nqK (code % 8)) (-9)
  else (if t.fmt = 0 then fmtBf16 else if t.fmt = 1 then fmtF8e4 else fmtF8e5).decode code

/-- The weights that output `o` meets along the row. -/
def Tile.weights (t : Tile) (transposed : Bool) (o : Nat) : List Fp :=
  if transposed then (List.range t.codes.length).map fun n => t.weight true o n ((t.codes.getD n []).getD o 0)
  else
    let col := t.codes.getD o []
    (List.range 256).map fun k => t.weight false k o (col.getD k 0)

/-- The rounded sum of group `g` for output `o` (R270). -/
def Tile.groupPart (t : Tile) (transposed : Bool) (o g : Nat) (ps : List Fp) : Word :=
  let s := groupSum ps
  let b := t.bsc.getD (4 * o + g) 0
  if t.fmt ≠ 3 then round32 .rne s
  else if transposed then round32 .rne (Fp.mul (f32 (round32 .rne s)) (f32 (t.ssc.getD (g / 2) 0)))
  else round32 .rne (if b = 0 then s else Fp.mul s (.fin false b (-8)))

/-- The sum of the groups in ascending order (R270). -/
def sumGroups : List Word → Word
  | [] => 0
  | g :: gs => gs.foldl (fun acc x => round32 .rne (Fp.add false (f32 acc) (f32 x))) g

/-- A finite value. -/
def Fp.isFinite : Fp → Bool
  | .fin _ _ _ => true
  | _ => false

/-- The partial of output `o` for a row of activations (R270), and whether it has overflowed (R271). -/
def Tile.partial_ (t : Tile) (transposed : Bool) (xs : List Fp) (o : Nat) : Word × Bool :=
  let ws := t.weights transposed o
  let n := if t.fmt = 3 && !transposed then 64 else 32
  let ps := List.zipWith Fp.mul xs ws
  let gs := pieces n (ps.length / n) ps
  let acc := sumGroups ((List.range gs.length).map fun g => t.groupPart transposed o g (gs.getD g []))
  let scaled := t.fmt = 3 && !transposed
  let v := if scaled then round32 .rne (Fp.mul (f32 acc) (f32 (t.ssc.getD (o / 64) 0))) else acc
  let scales := if t.fmt ≠ 3 then true
    else if transposed then t.ssc.all fun x => (f32 x).isFinite
    else (f32 (t.ssc.getD (o / 64) 0)).isFinite
  (v, !(f32 v).isFinite && xs.all Fp.isFinite && ws.all Fp.isFinite && scales)

/-! ## Streaming (R268) -/

def Stream.aoff (x : Stream) : Nat := dbits (x.args.getD 0 0) 31 0
def Stream.astr (x : Stream) : Nat := dbits (x.args.getD 0 0) 63 32
def Stream.acc (x : Stream) : DWord := x.args.getD 1 0
def Stream.esz (x : Stream) : Nat := if dbits (x.args.getD 2 0) 49 48 = 0 then 2 else 1

/-- The first offset at or above SCRATCH that the rows reach (R276): rows ascending, then offsets within the row. -/
def Stream.firstBeyond (x : Stream) (len scratch : Nat) : Option Nat :=
  (List.range x.rows).findSome? fun m =>
    let lo := x.aoff + m * x.astr
    if lo + len ≤ scratch then none else some (max lo scratch)

/-- The partials of row `m`: of a row with a poisoned word they are undefined (R11, R401). -/
def State.rowPartials (s : State) (team : Team) (x : Stream) (t : Tile) (len m : Nat) : List (Word × Bool) × State :=
  let outs := if x.transposed then 256 else t.codes.length
  let lo := x.aoff + m * x.astr
  if team.spPoisoned lo len then
    ((List.range outs).map fun o => (Config.freeWord (s.fresh + o), false), { s with fresh := s.fresh + outs })
  else
    let xs := (pieces x.esz (len / x.esz) (team.spRead lo len)).map fun b =>
      (actFmt (dbits (x.args.getD 2 0) 49 48)).decode (leNat b)
    ((List.range outs).map (t.partial_ x.transposed xs), s)

/-- The partials of rows `m` to M - 1. -/
def State.allPartials (s : State) (team : Team) (x : Stream) (t : Tile) (len : Nat) : Nat → Nat → List (Word × Bool) × State
  | 0, _ => ([], s)
  | n + 1, m =>
    let r := s.rowPartials team x t len m
    let rest := r.2.allPartials team x t len n (m + 1)
    (r.1 ++ rest.1, rest.2)

/-- A stream starts (R268): its checks, then every row is read and its partials stand ready to accumulate. -/
def State.beginStream (s : State) (w : Who) (id : Nat) (c : Cmd) (x : Stream) : State :=
  let fail := fun (cause : Nat) (addr : DWord) =>
    let s1 := (s.matrixDone w.gid id c).batchFault c.batch id 0 cause c.pc addr
    { s1 with streams := adel s1.streams id }
  match s.tileOf w with
  | none => fail 5 0
  | some t =>
    let len := (if x.transposed then t.codes.length else 256) * x.esz
    match x.firstBeyond len w.lrec.scratch with
    | some o => fail 1 (dw (spWindow + o))
    | none =>
      let e := s.matrixEng w id
      if (List.range x.rows).any fun m =>
          s.behind e.gid e.core e.gen id s.nextId (.scratch w.g.team (x.aoff + m * x.astr)) len then s
      else
        let r := s.allPartials w.team x t len x.rows 0
        let excess := r.1.any (·.2)
        let s1 := (r.2.matrixDone w.gid id c).modGroup w.gid fun g => g.raiseOvfl s.cycle excess
        { s1 with
          batches := amod s1.batches c.batch fun b => { b with ovf := b.ovf || excess }
          streams := aset s1.streams id { x with
            started := true, core := w.core, gen := e.gen, tag := s.stepTag, len := len, partials := r.1.map (·.1)
            outs := if x.transposed then 256 else t.codes.length } }

/-- A step of `mmul` or `mmt`: the head of the M-queue starts or is discarded. -/
def State.streamStep (s : State) (gid : Nat) (kind : CmdKind) : State :=
  match s.who gid with
  | none => s
  | some w =>
    match s.nextCmd w.g 1 kind with
    | some (id, c, true) =>
      let s1 := s.matrixDone gid id c
      { s1 with streams := adel s1.streams id }
    | some (id, c, false) =>
      (match aget s.streams id with
       | some x => s.beginStream w id c x
       | none => s.matrixDone gid id c)
    | none => s

/-- MMUL_START (R268). -/
def execMmulStart (gid : Nat) (s : State) : Out := .next (s.streamStep gid .mmul)

/-- MMT_START (R268). -/
def execMmtStart (gid : Nat) (s : State) : Out := .next (s.streamStep gid .mmt)

/-! ## Accumulations (R268, R269, R274) -/

/-- The generic address of element (m, o). -/
def Stream.elemAddr (x : Stream) (m o : Nat) : DWord := dw (x.acc.toNat + 64 + m * dbits (x.args.getD 2 0) 31 0 + 4 * o)

/-- An earlier accumulation of the group to the same address has not been applied (R228, R268). -/
def State.accBefore (s : State) (id : Nat) (x : Stream) (ix : Nat) (ea : DWord) : Bool :=
  s.streams.any fun p => p.2.gid = x.gid && p.1 ≤ id && p.2.started &&
    (List.range (if p.1 = id then ix else p.2.rows * p.2.outs)).any fun i =>
      p.2.elemAddr (i / p.2.outs) (i % p.2.outs) = ea && !p.2.applied.contains i

/-- An element of a stream is finished. -/
def State.accDone (s : State) (id ix : Nat) : State :=
  { s with streams := amod s.streams id fun x => { x with applied := ix :: x.applied, asked := adel x.asked ix } }

/-- The fault of an accumulation (R269). -/
def State.accFault (s : State) (id ix : Nat) (x : Stream) (code : BitVec 8) (ea : DWord) : State :=
  { ((s.noteWorld code).batchFault x.batch id ix (engCause code) x.pc ea) with
    streams := amod s.streams id fun y => { y with faulted := ix :: y.faulted } }.accDone id ix

/-- The engine's identity of a stream. -/
def State.streamEng (s : State) (id : Nat) (x : Stream) : Eng :=
  { gid := x.gid, core := x.core, ctx := x.ctx, gen := x.gen, issue := id
    team := match aget s.groups x.gid with
      | some g => g.team
      | none => 0
    size := 0 }

/-- The header's OVF is set (R273): at its home, or by an atomic sent to another package. -/
def State.setOvf (s : State) (id ix : Nat) (x : Stream) : State :=
  match s.resolveAs x.gen x.core x.ctx 0 0 .atomic x.acc 4 with
  | .bad code => s.batchFault x.batch id ix (engCause code) x.pc x.acc
  | .ok (.scratch _ _) _ => s
  | .ok (.remote pkg pa) _ =>
    { s with
      streams := amod s.streams id fun y => { y with hdrAsked := s.nextId :: y.hdrAsked }
      fabricOut := s.fabricOut ++ [(pkg, .access s.self s.nextId (BitVec.ofNat 6 x.ctx) x.gen pa (.atomic 4 .b32 1 0 x.tag))]
      nextId := s.nextId + 1 }
  | .ok (.home pa) _ =>
    match s.fate x.ctx x.gen pa 4 true with
    | .stale => s.batchFault x.batch id ix 2 x.pc x.acc
    | .bad code => (s.noteWorld code).batchFault x.batch id ix (engCause code) x.pc x.acc
    | .serve =>
      let s1 := s.settleOwn x.core x.ctx pa 4
      let b := [some (cellRead s1.mem pa ||| 1)]
      (s1.homeWrite pa b x.tag false).2.l1After x.core x.ctx pa b

/-- The new value of an element: `acc` plus the partial, rounded once (R268). -/
def accNew (old part : Word) : Word := round32 .rne (Fp.add false (f32 old) (f32 part))

/-- An accumulation at its home (R268, R269), after the issuing core's earlier writes to the element; the issuing core's L1 copy follows, so that the group's later loads do not go behind it (R279). -/
def State.accHome (s : State) (id ix : Nat) (x : Stream) (ea : DWord) (pa : Nat) : State :=
  match s.fate x.ctx x.gen pa 4 true with
  | .stale => s.accFault id ix x 0x07 ea
  | .bad code =>
    if code = 0x09 then
      { s with batches := amod s.batches x.batch fun b => { b with psn := true } }.accDone id ix
    else s.accFault id ix x code ea
  | .serve =>
    let s0 := (s.settleOwn x.core x.ctx pa 4).eccTouch pa 4
    let new := accNew (w32 (leNat (cellsRead s0.mem pa 4))) (x.partials.getD ix 0)
    let bs := (leBytes 4 new.toNat).map some
    let s1 := (((s0.accWrite pa bs x.tag false).2).l1After x.core x.ctx pa bs).accDone id ix
    if (f32 new).isFinite then s1 else s1.setOvf id ix x

/-- An accumulation at its home, sent to another package, or faulted. -/
def State.accumulate (s : State) (id ix : Nat) (x : Stream) (ea : DWord) : State :=
  let e := s.streamEng id x
  match s.resolveAs e.gen x.core x.ctx e.team (s.scratchOf e.team) .atomic ea 4 with
  | .bad code => s.accFault id ix x code ea
  | .ok (.scratch _ _) _ => s.accFault id ix x 0x06 ea
  | .ok p _ =>
    if s.behind e.gid e.core e.gen id s.nextId p 4 || s.olderPart e.gid id p 4 then s
    else match p with
      | .remote pkg pa =>
        { s with
          streams := amod s.streams id fun y => { y with asked := aset y.asked ix s.nextId }
          fabricOut := s.fabricOut ++ [(pkg, .access s.self s.nextId (BitVec.ofNat 6 x.ctx) x.gen pa
            (.atomic 0 .f32 ((x.partials.getD ix 0).setWidth 64) 0 x.tag))]
          nextId := s.nextId + 1 }
      | .home pa => if s.homeBusy pa then s else s.accHome id ix x ea pa
      | .scratch _ _ => s

/-- MATRIX_ACCUMULATION (R274): the partial of row `m` and output `o` of a stream arrives. -/
def execMatrixAccumulation (id m o : Nat) (s : State) : Out :=
  match aget s.streams id with
  | none => .next s
  | some x =>
    let ix := m * x.outs + o
    let ea := x.elemAddr m o
    if !x.started || x.rows ≤ m || x.outs ≤ o || x.applied.contains ix || (aget x.asked ix).isSome || s.accBefore id x ix ea then .next s
    else .next (s.accumulate id ix x ea)

/-! ## Batches (R275, R276) -/

/-- Every accumulation of a stream has been applied with its OVF setting. -/
def Stream.finished (x : Stream) : Bool := x.started && x.applied.length = x.rows * x.outs && x.hdrAsked.isEmpty

/-- Every accumulation of a batch has been applied. -/
def State.batchApplied (s : State) (b : Nat) : Bool := s.streams.all fun p => p.2.batch ≠ b || p.2.finished

/-- A row of the stream was written inside its window (R280). -/
def Stream.rowTouched (x : Stream) (t : Team) (len m : Nat) : Bool :=
  (List.range len).any fun i => match aget t.sp (x.aoff + m * x.astr + i) with
    | some b => x.stamp ≤ b.stamp
    | none => false

/-- Elements of a stream whose value is undefined at the batch's completion (R280): those of touched rows, where the partial is
undefined and has been accumulated, and those that others wrote. -/
def State.undefElems (s : State) (x : Stream) : List (Nat × Bool) :=
  let rows := match (aget s.groups x.gid).bind fun g => aget s.teams g.team with
    | some t => (List.range x.rows).filter fun m => x.rowTouched t x.len m
    | none => []
  (List.range (x.rows * x.outs)).filterMap fun i =>
    if rows.contains (i / x.outs) && !x.faulted.contains i then some (i, true) else if x.touched.contains i then some (i, false) else none

/-- No L1 holds bytes of [pa, pa + n) any more. -/
def State.l1Forget (s : State) (pa n : Nat) : State :=
  let forget := fun (x : L1Line) => if x.pa ≤ pa && pa < x.pa + 128 then x.without pa n else x
  { s with cores := s.cores.map fun p => (p.1, { p.2 with l1 := p.2.l1.map forget }) }

/-- An undefined partial decides OVF as its free value does (R271, R273). -/
def State.undefPartial (s : State) (id : Nat) (x : Stream) (ix : Nat) (new : Word) : State :=
  let p := s.drawWord
  let s1 := if (f32 new).isFinite then p.2 else p.2.setOvf id ix x
  let excess := !(f32 p.1).isFinite
  { s1 with batches := amod s1.batches x.batch fun b => { b with ovf := b.ovf || excess } }.modGroup x.gid fun g => g.raiseOvfl s.cycle excess

/-- An element takes an undefined value (R11, R280), here or on another package: the partial, where it is undefined, decides OVF. -/
def State.undefElem (s : State) (id : Nat) (x : Stream) (ix : Nat) (partial_ : Bool) : State :=
  let v := s.drawWord
  let done := fun (st : State) => if partial_ then st.undefPartial id x ix v.1 else st
  match s.translate x.core x.ctx (x.elemAddr (ix / x.outs) (ix % x.outs)) with
  | .bad _ => s
  | .leaf l =>
    if l.pkg = s.self then done ((v.2.accWrite l.pa ((leBytes 4 v.1.toNat).map some) x.tag false).2.l1Forget l.pa 4)
    else
      let r := v.2.storePkg (v.2.streamEng id x) l.pkg l.pa 4 (some (leBytes 4 v.1.toNat)) false x.tag
      done { r.2 with streams := amod r.2.streams id fun y => { y with hdrAsked := r.1 :: y.hdrAsked } }

/-- The undefined elements of every stream of a batch. -/
def State.undefStreams (s : State) (b : Nat) : State :=
  (s.streams.filter fun p => p.2.batch = b).foldl (fun st p =>
    (st.undefElems p.2).foldl (fun st1 i => st1.undefElem p.1 p.2 i.1 i.2) st)
    { s with batches := amod s.batches b fun x => { x with settled := true } }

/-- BATCHSTAT (R276). -/
def Batch.status (b : Batch) : DWord :=
  let cause := match firstFault b.faults with
    | some f => f.cause
    | none => 0
  dw (b.number.toNat + b.disc.toNat * 2 ^ 32 + (!b.faults.isEmpty).toNat * 2 ^ 33 + cause * 2 ^ 34 + b.ovf.toNat * 2 ^ 38 +
    b.psn.toNat * 2 ^ 39)

/-- A batch is over: BATCHSTAT lands, the group takes the first fault, and the batch is gone with its streams. -/
def State.batchEnd (s : State) (id : Nat) (b : Batch) : State :=
  let s1 := { s with batches := adel s.batches id, streams := s.streams.filter fun p => p.2.batch ≠ id }
  let s2 := if b.dst = 0 then s1 else s1.modGroup b.gid fun g => (g.sput b.dst b.status).logS b.ordinal b.status
  match firstFault b.faults with
  | some f => s2.takeLate b.gid (engFaultCause f true)
  | none => s2

/-- A closed batch whose commands are all over: its undefined values, then its arrival (R276 step 1), or its end. Undefined values that go to
another package are waited for. -/
def State.batchArrive (s : State) (w : Who) (id : Nat) (b : Batch) : State :=
  match b.arriving with
  | some m => if (aget s.net m).isSome then s else s.batchEnd id b
  | none =>
    let s1 := if b.settled then s else s.undefStreams id
    let b1 := (aget s1.batches id).getD b
    if !s1.batchApplied id then s1
    else if noBar b.barw then s1.batchEnd id b1
    else
      let r := s1.engMsg (s1.matrixEng w s1.nextId) (.barGroup none (some id)) b.barw b.pc
      { r.2 with batches := aset r.2.batches id { b1 with arriving := some r.1 }, streams := r.2.streams.filter fun p => p.2.batch ≠ id }

/-- The batch that can go on: closed, with nothing pending and everything applied. -/
def State.readyBatch (s : State) (gid : Nat) : Option (Nat × Batch) :=
  s.batches.find? fun p => p.2.gid = gid && p.2.closed && p.2.pending.isEmpty && s.batchApplied p.1

/-- BATCH_COMPLETE (R275, R276): the `mfence` at the head of the M-queue is taken up; then, in further steps, its batch completes once
every accumulation has been applied. -/
def execBatchComplete (gid : Nat) (s : State) : Out :=
  match s.who gid with
  | none => .next s
  | some w =>
    match s.nextCmd w.g 1 .mfence with
    | some (id, c, disc) =>
      let s1 := s.matrixDone gid id c
      .next { s1 with batches := amod s1.batches c.batch fun b => { b with disc := disc } }
    | none =>
      match s.readyBatch gid with
      | some (id, b) => .next (s.batchArrive w id b)
      | none => .next s

/-! ## mrel and ofence (R277, R278) -/

/-- MREL_START (R277): it stands at the head, so every earlier matrix command has finished with the arrays. -/
def execMrelStart (gid : Nat) (s : State) : Out :=
  match aget s.groups gid with
  | none => .next s
  | some g =>
    match s.nextCmd g 1 .mrel with
    | some (id, c, disc) =>
      let s1 := s.matrixDone gid id c
      .next (if disc then s1 else s1.freeArrays gid)
    | none => .next s

/-- The entry of a discarded `ofence` in one queue goes as it reaches the head (R93); it orders nothing. -/
def State.dropEntry (s : State) (gid q id : Nat) : State :=
  let s1 := s.modGroup gid fun g => g.unqueue q id
  match aget s1.groups gid with
  | some g => if (g.mq ++ g.cq).contains id then s1 else { s1 with cmds := adel s1.cmds id }
  | none => s1

/-- OFENCE_START (R278): the fence starts at the head of both queues; a discarded one completes at once in each queue whose head it is. -/
def execOfenceStart (gid : Nat) (s : State) : Out :=
  match aget s.groups gid with
  | none => .next s
  | some g =>
    match s.nextCmd g 1 .ofence, s.nextCmd g 2 .ofence with
    | some (id, _, false), some (jd, _, _) => if id = jd then .next (s.startCmd id) else .next s
    | m, c =>
      let s1 := match m with
        | some (id, _, true) => s.dropEntry gid 1 id
        | _ => s
      .next (match c with
        | some (id, _, true) => s1.dropEntry gid 2 id
        | _ => s1)

/-- The place lies in a scratchpad. -/
def Place.inScratch : Place → Bool
  | .scratch _ _ => true
  | _ => false

/-- A lane effect on a scratchpad, or a lane's copy into one, issued before number `id`, has not been performed. -/
def State.laneScratchPending (s : State) (gid : Nat) (g : Group) (id : Nat) : Bool :=
  let mine := fun (m : Msg) => m.gid = gid && m.isLane && m.place.inScratch && m.issue < id
  (g.quar.any fun q => q.effects.any fun e => match e with
    | .perLaneCopy inward m _ _ _ _ _ => inward && m.issue < id
    | x => x.msgs.any mine) ||
  (s.net.any fun x => mine x.2 && x.2.standing) || (s.rels.any fun r => r.2.after.any mine) ||
  s.copies.any fun x => x.2.gid = gid && x.2.perLane && x.2.toScratch && x.2.issue < id && x.2.reject.isNone

/-- The streams of the group enqueued after a fence have their rows read behind it: what was written before counts as written before their
windows (R278, R280, log 92). -/
def State.openWindows (s : State) (gid id : Nat) : State :=
  { s with streams := s.streams.map fun p => if p.2.gid = gid && id < p.1 && !p.2.started then (p.1, { p.2 with stamp := s.stamp }) else p }

/-- OFENCE_COMPLETE (R278): the blocks enqueued before it have ended and their scratchpad writes are visible. -/
def execOfenceComplete (gid : Nat) (s : State) : Out :=
  match aget s.groups gid with
  | none => .next s
  | some g =>
    match g.mq.find? fun i => match aget s.cmds i with
      | some c => c.kind == .ofence && c.started
      | none => false with
    | none => .next s
    | some id =>
      let until_ := ((aget s.cmds id).bind (·.later)).getD s.nextId
      if g.lq.any (fun i => i < id) || s.laneScratchPending gid g until_ then .next s
      else .next ((s.openWindows gid id).dropCmd gid id)

end Sys2Proof.Machine
end

