-- ==== Sys2Proof/Machine/ECopy.lean ====
section
/-!
DEFINITION. The copy engine's commands (R93, R252 to R258, R351) and the persist barrier (R352, R353).
-/
namespace Sys2Proof.Machine

/-! ## Starting -/

/-- The copy of a command that starts now. -/
def State.copyOf (s : State) (w : Who) (id : Nat) (c : Cmd) : Copy :=
  { gid := w.gid, kind := c.kind, pc := c.pc, args := c.args, dst := c.dst, core := w.core, ctx := w.ctx, team := w.g.team
    gen := s.genStamp w.core w.ctx, ordinal := c.ordinal, tag := s.stepTag, issue := id }

/-- A status written where a command names one, and logged (R383, R384). -/
def State.writeStatus (s : State) (gid ordinal : Nat) (dst : SReg) (v : DWord) : State :=
  if dst = 0 then s else s.modGroup gid fun g => (g.sput dst v).logS ordinal v

/-- A copy discarded by its guard (R93, R255, R257): the declared bytes are credited, the status is DISC alone. -/
def State.discardCopy (s : State) (w : Who) (id : Nat) (c : Cmd) : State :=
  let x := s.copyOf w id c
  ((s.dropCmd w.gid id).credit (s.copyEng id x) id (copyBytes c.args) x.barw c.pc).writeStatus w.gid c.ordinal c.dst 4

/-- The die of the weight store that a destination of `cpt.ws` translates into. -/
def State.wsDieOf (s : State) (x : Copy) (j i e : Nat) : Option Nat :=
  match s.resolveAs x.gen x.core x.ctx x.team 0 .weightWrite (x.dstAddr j i e) x.esz with
  | .ok (.home pa) _ => some ((pa - wsBase) / 2 ^ 29)
  | _ => none

/-- Die D of `cpt.ws` (R254): that of the first element, in the order (j, i, e), whose destination lies in a weight store. -/
def State.firstWsDie (s : State) (x : Copy) : Option Nat :=
  (List.range x.n2).findSome? fun j => (List.range x.n1).findSome? fun i => (List.range x.n0).findSome? fun e => s.wsDieOf x j i e

/-- A team of the context is resident on the die (R254). -/
def State.ctxOnDie (s : State) (c d : Nat) : Bool :=
  s.teams.any fun p => !p.2.retired && p.2.frame.isNone && p.2.core.die = d && (match aget s.launches p.2.launch with
    | some l => l.ctx = c
    | none => false)

/-- A copy starts; `cpt.ws` finds its die and whether a team of the context stands there. -/
def State.beginCopy (s : State) (w : Who) (id : Nat) (c : Cmd) : State :=
  let x := s.copyOf w id c
  if c.kind == .cptWs then
    let d := s.firstWsDie x
    let busy := match d with
      | some k => s.ctxOnDie w.ctx k
      | none => false
    (s.startCmd id).setCopy id { x with wsDie := d, busy := busy }
  else (s.startCmd id).setCopy id x

/-- A step of a copy command at the head of the C-queue: it starts, or its guard discards it. -/
def State.copyStep (s : State) (gid : Nat) (kind : CmdKind) : State :=
  match s.who gid with
  | none => s
  | some w =>
    match s.nextCmd w.g 2 kind with
    | some (id, c, false) => s.beginCopy w id c
    | some (id, c, true) => s.discardCopy w id c
    | none => s

/-- CPT_START (R252). -/
def execCptStart (gid : Nat) (s : State) : Out := .next (s.copyStep gid .cpt)

/-- CPT_IDX_START (R253). -/
def execCptIdxStart (gid : Nat) (s : State) : Out := .next (s.copyStep gid .cptIdx)

/-- CPT_WS_START (R254). -/
def execCptWsStart (gid : Nat) (s : State) : Out := .next (s.copyStep gid .cptWs)

/-- CPT_P_START (R351). -/
def execCptPStart (gid : Nat) (s : State) : Out := .next (s.copyStep gid .cptP)

/-! ## Elements and completion -/

/-- COPY_ELEMENT_LAND (R252, R257): a step of element (j, i, e): `fetch` reads, otherwise it is written and lands. For a lane's transfer
the element is the whole of it (R248). -/
def execCopyElementLand (id j i e : Nat) (fetch : Bool) (s : State) : Out :=
  match aget s.copies id with
  | none => .next s
  | some c =>
    if c.perLane then .next (s.laneCopyStep id c fetch)
    else if c.busy || c.n2 ≤ j || c.n1 ≤ i || c.n0 ≤ e then .next s
    else if fetch then .next (s.copyFetch id c j i e)
    else .next (s.copyWrite id c j i e)

/-- COPYSTAT at completion (R255). A copy turned away by a busy weight store faults in every element (R254). -/
def Copy.status (c : Copy) : DWord :=
  let cause := if c.busy then 5 else match firstFault c.faults with
    | some f => f.cause
    | none => 0
  let rows := if c.busy then c.n1 * c.n2 else c.frows.length
  dw (c.oor.toNat + c.inv.toNat * 2 + (if cause = 0 then 0 else 8) + cause * 16 + c.psn.toNat * 256 + min rows 0xFFFFFFFF * 2 ^ 32)

/-- The fault that the group takes for a completed copy (R256, R365). -/
def Copy.report (c : Copy) : Option EngFault :=
  if c.busy then some { key := 0, cause := 5, pc := c.pc, addr := c.args.getD 1 0 } else firstFault c.faults

/-- COPY_COMPLETE (R255, R256): every element is finished and every credit applied: the status first, then the fault. -/
def execCopyComplete (id : Nat) (s : State) : Out :=
  match aget s.copies id with
  | none => .next s
  | some c =>
    if c.perLane || !s.copyDone id c then .next s
    else
      let s1 := ({ s with copies := adel s.copies id }.dropCmd c.gid id).writeStatus c.gid c.ordinal c.dst c.status
      .next (match c.report with
        | some f => s1.takeLate c.gid (engFaultCause f false)
        | none => s1)

/-! ## pbar (R352, R353) -/

/-- PBAR_START (R352): it starts at the head of the C-queue; a discarded one completes at once. -/
def execPbarStart (gid : Nat) (s : State) : Out :=
  match aget s.groups gid with
  | none => .next s
  | some g =>
    match s.nextCmd g 2 .pbar with
    | some (id, _, false) => .next (s.startCmd id)
    | some (id, c, true) => .next ((s.dropCmd gid id).writeStatus gid c.ordinal c.dst 1).flushRemote
    | none => .next s

/-- A persist-scope write of a message that no persist barrier holds and that has not been settled. -/
def State.persistPending (s : State) (m : Msg) : Bool := m.persist ≠ 0 && m.rejected.isNone && !s.msgHeld m

/-- The group's persist-scope writes before its persist barrier have been accepted or rejected (R352). -/
def State.persistSettled (s : State) (gid : Nat) (g : Group) : Bool :=
  !((s.net.any fun x => x.2.gid = gid && s.persistPending x.2) ||
    (g.quar.any fun q => q.effects.any fun e => e.msgs.any fun m => s.persistPending m) ||
    (s.rels.any fun r => r.2.after.any fun m => m.gid = gid && s.persistPending m) ||
    s.images.any fun i => i.gid = gid)

/-- PBAR_COMPLETE (R352): earlier blocks and C-queue commands are over and the group's writes are settled; the held writes go on. -/
def execPbarComplete (gid : Nat) (s : State) : Out :=
  match aget s.groups gid with
  | none => .next s
  | some g =>
    match g.cq.head? with
    | none => .next s
    | some id =>
      match aget s.cmds id with
      | none => .next s
      | some c =>
        if c.kind == .pbar && c.started && !(g.lq.any fun i => i < id) && s.persistSettled gid g then
          .next ((s.dropCmd gid id).writeStatus gid c.ordinal c.dst 0).flushRemote
        else .next s

end Sys2Proof.Machine
end

