-- ==== Sys2Proof/Machine/EBarrier.lean ====
section
/-!
DEFINITION. Updates of barrier objects as they reach the owning core (R257, R284, R285).
-/
namespace Sys2Proof.Machine

/-- `binit` is applied (R284). -/
def State.applyInit (s : State) (t o : Nat) (v : DWord) : State :=
  match aget s.teams t with
  | none => s
  | some x =>
    match x.barInit o v s.stamp with
    | some y => { s with stamp := s.stamp + 1, teams := aset s.teams t y }
    | none => s

/-- The message is of one kind of barrier update. -/
def MsgKind.isInit : MsgKind → Bool
  | .barInit _ => true
  | _ => false
def MsgKind.isArm : MsgKind → Bool
  | .barArm _ => true
  | _ => false
def MsgKind.isLanes : MsgKind → Bool
  | .barLanes _ => true
  | _ => false
def MsgKind.isGroup : MsgKind → Bool
  | .barGroup _ _ => true
  | _ => false
def MsgKind.isCopyCredit : MsgKind → Bool
  | .barCredit _ _ => true
  | _ => false

/-- BARRIER_INITIALISE (R284). -/
def execBarrierInitialise (id : Nat) (s : State) : Out :=
  .next (s.atScratch id MsgKind.isInit fun st m t o =>
    match m.kind with
    | .barInit v => st.applyInit t o v
    | _ => st)

/-- BARRIER_ARM (R285): the bytes are added to EXPBYT, then the test. -/
def execBarrierArm (id : Nat) (s : State) : Out :=
  .next (s.atScratch id MsgKind.isArm fun st m t o =>
    match m.kind with
    | .barArm n => st.barUpdate t fun x stamp => x.barArm o n stamp
    | _ => st)

/-- LANE_ARRIVAL (R285): the arriving lanes of one issue are added to ARRCNT, then the test. -/
def execLaneArrival (id : Nat) (s : State) : Out :=
  .next (s.atScratch id MsgKind.isLanes fun st m t o =>
    match m.kind with
    | .barLanes n => st.barUpdate t fun x stamp => x.arrive st.cycle o n stamp
    | _ => st)

/-- The PHASE that an arrival finds, for the `barr` that returns it (R289). -/
def State.answerPhase (s : State) (t o : Nat) (req : Option Nat) : State :=
  match aget s.teams t with
  | some x => s.answer (req.map fun i => (i, 0)) (leBytes 4 (if x.exitDone s.cycle o then x.barPhase o - 1 else x.barPhase o).toNat)
  | none => s

/-- GROUP_ARRIVAL (R285): one arrival is added, then the test; the PHASE before the test goes back. -/
def execGroupArrival (id : Nat) (s : State) : Out :=
  .next (s.atScratch id MsgKind.isGroup fun st m t o =>
    match m.kind with
    | .barGroup req _ => (st.answerPhase t o req).barUpdate t fun x stamp => x.arrive st.cycle o 1 stamp
    | _ => st)

/-- BARRIER_CREDIT (R257): the bytes are added to BYTCNT, then the test. -/
def execBarrierCredit (id : Nat) (s : State) : Out :=
  .next (s.atScratch id MsgKind.isCopyCredit fun st m t o =>
    match m.kind with
    | .barCredit n _ => st.barUpdate t fun x stamp => x.barCredit o n stamp
    | _ => st)

end Sys2Proof.Machine
end

