-- ==== Sys2Proof/Machine/ERound.lean ====
section
/-!
DEFINITION. Advancing a round region (R312) and serving held loads (R319).
-/
namespace Sys2Proof.Machine

/-- Record `i` of context `c` as its home reads it: its address and its valid content. -/
def State.regionHome (s : State) (c i : Nat) : Option RegionRec :=
  match s.walk c (regionVa i) with
  | .leaf l =>
    if l.pkg = s.self && s.aperture l.pa == .hbm then
      (match s.regionAt l.pa with
       | .valid r => some r
       | _ => none)
    else none
  | .bad _ => none

/-- Step 1 of R312: no slot below P is empty, and every registered slot has arrived. -/
def RegionRec.complete (r : RegionRec) : Bool :=
  (List.range r.p).all fun k => if r.reg.getLsbD k then r.arr.getLsbD k else r.ret.getLsbD k

/-- A held request of the region waits for a round above `t` (R312): a load at a line home, an engine's read. -/
def State.wanted (s : State) (c i : Nat) (t : Word) : Bool :=
  (s.reqs.any fun q => q.2.ctx = c && !q.2.faulted && q.2.parts.any fun p =>
    !(q.2.now && !p.asLd) && !p.settled && p.sent.isSome && (match p.region with
      | some (j, need) => j = i && t.toNat < need.toNat
      | none => false)) ||
  s.demand.any fun d => d.1 = c && d.2.1 = i && t.toNat < d.2.2.toNat

/-- The number of a line home in an advance: its place on this package, or the package that it is on. -/
def homeIx (die slice : Nat) : Nat := die * 512 + slice
def pkgIx (pkg : Nat) : Nat := 8192 + pkg

/-- The packages that hold lines of the region, page by page. -/
def State.regionPkgs (s : State) (c : Nat) (r : RegionRec) : List Nat :=
  ((List.range (r.len / 65536 + 2)).filterMap fun i =>
    let va := r.base / 65536 * 65536 + 65536 * i
    if va < r.base + r.len then (match s.walk c (dw va) with
      | .leaf l => if l.pkg = s.self then none else some l.pkg
      | .bad _ => none) else none).eraseDups

/-- The line homes of this package that hold a value for the region: the others obtain it with their first request (R312). -/
def State.lineHomes (s : State) (c i : Nat) : List Nat :=
  (s.rcls.filter fun x => x.1 / 8192 = c * 4096 + i).map fun x => x.1 % 8192

/-- ROUND_ADVANCE (R312 steps 1 and 2): "adopt t + 1" goes to the region's line homes. -/
def execRoundAdvance (c : BitVec 6) (region : BitVec 12) (s : State) : Out :=
  let i := region.toNat
  if s.advances.any fun a => a.ctx = c.toNat && a.region = i then .next s
  else match s.regionHome c.toNat i with
    | none => .next s
    | some r =>
      if !r.complete || r.rc = 0xFFFFFFFF || !(s.arrivedSince.contains (c.toNat, i) || s.wanted c.toNat i r.rc) then .next s
      else
        let pkgs := s.regionPkgs c.toNat r
        .next { s with
          advances := { ctx := c.toNat, region := i, to_ := r.rc + 1
                        homes := s.lineHomes c.toNat i ++ pkgs.map pkgIx } :: s.advances
          fabricOut := s.fabricOut ++ pkgs.map fun p => (p, .roundAdopt s.self c region (r.rc + 1)) }

/-- A line home's value raised to `v` (R312). -/
def State.raiseRcl (s : State) (key : Nat) (v : Word) : State :=
  match aget s.rcls key with
  | some old => if old.toNat < v.toNat then { s with rcls := aset s.rcls key v } else s
  | none => { s with rcls := aset s.rcls key v }

/-- The home `h` of an advance has acknowledged. -/
def State.ackAdvance (s : State) (c i h : Nat) : State :=
  { s with advances := s.advances.map fun a => if a.ctx = c && a.region = i then { a with acked := h :: a.acked } else a }

/-- ROUND_ADOPT (R312 step 2): a line home takes the new value and acknowledges. -/
def execRoundAdopt (c : BitVec 6) (region : BitVec 12) (die slice : Nat) (s : State) : Out :=
  match s.advances.find? fun a => a.ctx = c.toNat && a.region = region.toNat && a.homes.contains (homeIx die slice) with
  | some a => .next ((s.raiseRcl (rclKey a.ctx a.region die slice) a.to_).ackAdvance a.ctx a.region (homeIx die slice))
  | none => .next s

/-- Step 3 of R312: RC and ARR are written at the region home. -/
def State.commitRound (s : State) (r : RegionRec) (to_ : Word) : State :=
  let s1 := (s.homeWrite (r.pa + 24) ((leBytes 4 to_.toNat).map some) s.stepTag false).2
  (s1.homeWrite (r.pa + 40) (List.replicate 8 (some 0)) s.stepTag false).2

/-- ROUND_ADVANCE_COMMIT (R312 step 3): every line home has acknowledged; a slot that joined meanwhile blocks it until it arrives
(R325). A record that is valid no more ends the advance. -/
def execRoundAdvanceCommit (c : BitVec 6) (region : BitVec 12) (s : State) : Out :=
  match s.advances.find? fun a => a.ctx = c.toNat && a.region = region.toNat with
  | none => .next s
  | some a =>
    let ended := { s with advances := s.advances.filter fun x => !(x.ctx = a.ctx && x.region = a.region) }
    match s.regionHome a.ctx a.region with
    | none => .next ended
    | some r =>
      if !(a.homes.all a.acked.contains) || !r.complete then .next s
      else
        .next { (ended.commitRound r a.to_) with
          arrivedSince := s.arrivedSince.filter (· ≠ (a.ctx, a.region))
          demand := s.demand.filter fun d => !(d.1 = a.ctx && d.2.1 = a.region && d.2.2.toNat ≤ a.to_.toNat) }

/-- LDB_HELD_SERVE (R319): a load held at a line home is served once the home's counter meets its need. -/
def execLdbHeldServe (id lane : Nat) (s : State) : Out :=
  match aget s.reqs id with
  | none => .next s
  | some q =>
    match q.parts[lane]? with
    | none => .next s
    | some p => if p.region.isSome && p.sent.isSome then .next (s.servePart id lane) else .next s

end Sys2Proof.Machine
end

