-- ==== Sys2Proof/Machine/Placement.lean ====
section
/-!
DEFINITION. What the distributor decides with: the checks of a launch record (R26), the order of launches (R70, R71), budgets
(R67 to R69), rectangles (R72), slice homes (R74), and placing one cluster.
-/
namespace Sys2Proof.Machine

/-! ## Record checks (R26) -/

/-- A base address: aligned, bits [63:57] zero. -/
def baseOk (x : DWord) (n : Nat) : Bool := dbits x 63 57 = 0 && x.toNat % n = 0

/-- The status of the first failing check; none for an accepted record. -/
def LaunchRec.fault (r : LaunchRec) : Option (BitVec 8) :=
  if dbits (r.q 10) 7 2 ≠ 0 || dbits (r.q 10) 23 18 ≠ 0 || dbits (r.q 10) 31 30 ≠ 0 || dbits (r.q 10) 63 48 ≠ 0 ||
      dbits (r.q 11) 63 32 ≠ 0 then some 0x01
  else if r.gw = 3 then some 0x02
  else if r.teamx = 0 || r.teamy = 0 || r.teamz = 0 || 1024 < r.lanes || r.lanes % r.width ≠ 0 then some 0x03
  else if r.cluw = 0 || r.cluh = 0 || 10 < r.cluh || 12 < r.cluw * r.cluh then some 0x04
  else if r.gridx = 0 || 2 ^ 31 ≤ r.gridx || r.gridy = 0 || r.gridz = 0 || r.gridx % r.cluw ≠ 0 || r.gridy % r.cluh ≠ 0 then some 0x05
  else if r.regs = 0 || 256 < r.regs || 524288 < r.scratch then some 0x06
  else if !baseOk r.sbase 64 || !baseOk r.lbase 64 || !baseOk r.rodata 64 || (r.sdlen ≠ 0 && !baseOk r.sdtab 4) ||
      (r.ldlen ≠ 0 && !baseOk r.ldtab 4) then some 0x07
  else none

/-! ## The order of launches (R70, R71) -/

/-- Age steps of a launch: the increase of its effective priority. -/
def State.ageOf (s : State) (l : Launch) : Nat := (s.cycle - l.ageFrom) / 2 ^ 20 - 1

/-- The age steps of every launch brought up to the present cycle. -/
def State.settleAges (s : State) : State := { s with launches := s.launches.map fun p => (p.1, { p.2 with aged := s.ageOf p.2 }) }

/-- eff. -/
def Launch.eff (l : Launch) : Nat := min 255 (l.lrec.prio + l.aged)

/-- The place of a launch's queue in the round-robin order, from the pointer on. -/
def State.rrDist (s : State) (l : Launch) : Nat := (9 * l.ctx + l.queue + 576 - s.rrPos) % 576

/-- Launch `a` stands before launch `b`: higher eff, nearer to the pointer, earlier accepted. -/
def State.servesFirst (s : State) (a b : Nat × Launch) : Bool :=
  if a.2.eff ≠ b.2.eff then b.2.eff < a.2.eff
  else if s.rrDist a.2 ≠ s.rrDist b.2 then s.rrDist a.2 < s.rrDist b.2
  else a.1 < b.1

/-- The pointer after a launch's queue has been served. -/
def State.served (s : State) (l : Launch) : State := { s with rrPos := (9 * l.ctx + l.queue + 1) % 576 }

/-! ## Budgets (R67 to R69) -/

/-- The teams that hold resources of a core. -/
def State.teamsOn (s : State) (k : CoreKey) : List (Nat × Team) := s.teams.filter fun p => !p.2.retired && p.2.core = k

/-- The record of a team's launch. -/
def State.teamRec (s : State) (t : Team) : LaunchRec :=
  match aget s.launches t.launch with
  | some l => l.lrec
  | none => {}

/-- Register-lanes that a team still holds: those of its groups that have not retired (R75). -/
def State.regsHeld (s : State) (t : Team) : Nat :=
  let r := s.teamRec t
  (t.groups.filter fun g => match aget s.groups g with
    | some x => !x.done
    | none => false).length * r.width * r.regsAlloc

/-- A sum over a list. -/
def sumOf {α : Type} (f : α → Nat) (l : List α) : Nat := (l.map f).foldl (· + ·) 0

/-- SCRATCH rounded to its allocation (R67). -/
def LaunchRec.run (r : LaunchRec) : Nat := (r.scratch + 255) / 256 * 256

/-- What returned on a core in this cycle, which is not yet free (R75). -/
def State.freedOn (s : State) (k : CoreKey) : List Freed := (s.core k).freed.filter fun f => f.at_ = s.cycle

/-- Resources return on a core in this cycle (R75). -/
def State.noteFreed (s : State) (k : CoreKey) (f : Freed) : State :=
  s.modCore k fun x => { x with freed := { f with at_ := s.cycle } :: x.freed.filter fun y => y.at_ = s.cycle }

/-- The lowest free run of `n` bytes in the core store (R69), beside the runs in use. -/
def freeRun (runs : List (Nat × Nat)) (n : Nat) : Option Nat :=
  let used := (runs.map fun p => (p.1, p.1 + p.2)).filter fun u => u.1 < u.2
  let fits := fun b : Nat => decide (b + n ≤ 524288) && used.all fun u => decide (b + n ≤ u.1) || decide (u.2 ≤ b)
  ((0 :: used.map (·.2)).filter fits).foldl (fun acc b => match acc with
    | none => some b
    | some x => some (min x b)) none

/-- The run that a team of the launch gets on a core which has room for it (R67); a resource freed in this cycle does not count (R75). -/
def State.roomOn (s : State) (k : CoreKey) (r : LaunchRec) : Option Nat :=
  let ts := s.teamsOn k
  let fs := s.freedOn k
  if (s.core k).dead then none
  else if 64 < sumOf (fun p => p.2.groups.length) ts + sumOf (fun f => f.slots.length) fs + r.lanes / r.width then none
  else if 1024 < sumOf (fun p => (s.teamRec p.2).lanes) ts + sumOf Freed.lanes fs + r.lanes then none
  else if 262144 < sumOf (fun p => s.regsHeld p.2) ts + sumOf Freed.regs fs + r.lanes * r.regsAlloc then none
  else freeRun (ts.map (fun p => (p.2.base, p.2.size)) ++ fs.map fun f => (f.base, f.size)) r.run

/-! ## Rectangles (R63 to R66, R72) -/

/-- Member `i` of a cluster at origin (col, row): its logical position. -/
def memberPos (r : LaunchRec) (col row i : Nat) : Nat × Nat := (col + i % r.cluw, row + i / r.cluw)

/-- The cores of a rectangle, by member. -/
def State.rectCores (s : State) (r : LaunchRec) (die col row : Nat) : List CoreKey :=
  (List.range (r.cluw * r.cluh)).map fun i => s.physCore die (memberPos r col row i).1 (memberPos r col row i).2

/-- A running `cpt.ws` of the context keeps its teams off the die (R254). -/
def State.wsHolds (s : State) (c die : Nat) : Bool := s.copies.any fun p => p.2.wsDie = some die && p.2.ctx = c && !p.2.busy

/-- A cluster of the launch fits the rectangle. -/
def State.rectFits (s : State) (l : Launch) (die col row : Nat) : Bool :=
  let d := s.die die
  die < 16 && d.inService && !d.renumber && decide (col + l.lrec.cluw ≤ d.width) && decide (row + l.lrec.cluh ≤ 10) && !s.wsHolds l.ctx die &&
    (s.rectCores l.lrec die col row).all fun k => (s.roomOn k l.lrec).isSome

/-- The rectangles of the package in the distributor's order, dies in rotation (R72). -/
def State.rectangles (s : State) : List (Nat × Nat × Nat) :=
  (List.range 16).flatMap fun i => (List.range 10).flatMap fun row => (List.range 15).map fun col => ((s.lastDie + 1 + i) % 16, col, row)

/-! ## Saved clusters -/

/-- The arrays that a saved cluster needs on a rectangle are free (R78). -/
def State.arraysFree (s : State) (x : Cluster) (l : Launch) (die col row : Nat) : Bool :=
  let free := fun i => (s.core (s.physCore die (memberPos l.lrec col row i).1 (memberPos l.lrec col row i).2)).array.isNone
  (List.range x.teams.length).all fun i => match aget s.teams (x.teams.getD i 0) with
    | some t => t.groups.all fun gid => match (aget s.groups gid).bind (·.savedArray) with
      | some (pair, _) => free i && (!pair || free (i + 1))
      | none => true
    | none => true

/-- The saved cluster of a launch that comes first: the oldest pre-emption (R73), by the cycle in which its save ended; of two saved in one cycle
the one placed first (log 97). -/
def State.oldestSaved (s : State) (id : Nat) : Option (Nat × Cluster) :=
  (s.clusters.filter fun p => p.2.launch = id && p.2.saved).foldl (fun acc p => match acc with
    | none => some p
    | some q => if p.2.savedAt < q.2.savedAt then some p else some q) none

/-- The clusters of a launch. -/
def LaunchRec.clusters (r : LaunchRec) : Nat := r.gridx / r.cluw * (r.gridy / r.cluh) * r.gridz

/-- The launch has a cluster to place or to resume. -/
def State.hasNext (s : State) (id : Nat) (l : Launch) : Bool :=
  l.started && ((s.oldestSaved id).isSome || l.placed < l.lrec.clusters)

/-- The launch's next cluster fits a rectangle; a saved one asks for room on every core of it (log 98). -/
def State.nextFits (s : State) (id : Nat) (l : Launch) (die col row : Nat) : Bool :=
  s.rectFits l die col row && (match s.oldestSaved id with
    | some (_, x) => s.arraysFree x l die col row
    | none => true)

/-- The first rectangle that the launch's next cluster fits. -/
def State.firstFit (s : State) (id : Nat) (l : Launch) : Option (Nat × Nat × Nat) :=
  s.rectangles.find? fun r => s.nextFits id l r.1 r.2.1 r.2.2

/-- Since when each started launch's next cluster has failed to fit, and which has failed for 2^22 cycles (R73). -/
def State.refit (s : State) : State :=
  { s with launches := s.launches.map fun p =>
      if s.hasNext p.1 p.2 && (s.firstFit p.1 p.2).isNone then (p.1, { p.2 with
        failSince := some (p.2.failSince.getD s.cycle), reserved := p.2.reserved || decide (p.2.failSince.getD s.cycle + 2 ^ 22 ≤ s.cycle) })
      else (p.1, { p.2 with failSince := none, reserved := p.2.reserved && s.hasNext p.1 p.2 }) }

/-- The launch may place now (R71, R73): no started launch before it has a next cluster that fits, and no launch of higher eff has
reserved. -/
def State.mayPlace (s : State) (id : Nat) (l : Launch) : Bool :=
  s.launches.all fun p =>
    p.1 = id || !s.hasNext p.1 p.2 ||
      (!(p.2.reserved && l.eff < p.2.eff) && (!s.servesFirst p (id, l) || (s.firstFit p.1 p.2).isNone))

/-! ## Slots and homes (R74) -/

/-- Group slots in use on a core. -/
def State.slotsUsed (s : State) (k : CoreKey) : List Nat :=
  (s.teamsOn k).flatMap (fun p => p.2.groups.filterMap fun g => (aget s.groups g).map (·.slot)) ++ (s.freedOn k).flatMap (·.slots)

/-- Lanes resident on a core's slices [h, h + n). -/
def State.lanesAt (s : State) (k : CoreKey) (h n : Nat) : Nat :=
  sumOf (fun p => sumOf (fun g => match aget s.groups g with
    | some x => if x.done then 0 else 4 * (min (h + n) (x.home + x.width / 4) - max h x.home)
    | none => 0) p.2.groups) (s.teamsOn k)

/-- The home with the fewest resident lanes, the lowest on a tie. -/
def State.bestHome (s : State) (k : CoreKey) (width : Nat) : Nat :=
  let n := width / 4
  let homes := (List.range (16 / n)).map fun i => n * i
  homes.foldl (fun b h => if s.lanesAt k h n < s.lanesAt k b n then h else b) 0

/-- The lowest free group slot. -/
def State.freeSlot (s : State) (k : CoreKey) : Nat := ((List.range 64).find? fun i => !(s.slotsUsed k).contains i).getD 0

/-! ## SPZ (R68) -/

/-- The scratchpad boundary for runs that end at `e`. -/
def spzFor (e : Nat) : Nat := max 65536 ((e + 65535) / 65536 * 65536)

/-- SPZ grows to cover a run that ends at `e`: the core's lines are written back and leave L1 (R68). -/
def State.growSpz (s : State) (k : CoreKey) (e : Nat) : State :=
  if (s.core k).spz < spzFor e then
    let s1 := (s.core k).l1.foldl (fun st x => (st.writeBackLine k x (st.genStamp k x.ctx)).modCore k fun y => y.l1Drop x.ctx x.pa) s
    s1.modCore k fun y => { y with spz := spzFor e }
  else s

/-- SPZ falls to what the remaining runs need (R68). -/
def State.shrinkSpz (s : State) (k : CoreKey) : State :=
  let e := (s.teamsOn k).foldl (fun m p => max m (p.2.base + p.2.size)) 0
  s.modCore k fun x => { x with spz := min x.spz (spzFor e) }

/-- What a team gives back as it leaves its core (R75): slots, lanes, the registers it still holds, its run. -/
def State.teamFreed (s : State) (t : Team) : Freed :=
  { at_ := s.cycle, slots := t.groups.filterMap fun g => (aget s.groups g).map (·.slot), lanes := (s.teamRec t).lanes, regs := s.regsHeld t
    base := t.base, size := t.size }

/-- The last team of the context has left the core: its floors return to 0 (R323). -/
def State.dropFloors (s : State) (k : CoreKey) (c : Nat) : State :=
  if (s.teamsOn k).any fun p => (match aget s.launches p.2.launch with
      | some l => l.ctx = c
      | none => false) then s
  else s.modCore k fun x => { x with floors := x.floors.filter fun f => f.ctx ≠ c, pendingFloors := x.pendingFloors.filter (· ≠ c) }

/-! ## Placing a cluster -/

/-- The groups of a placed team. -/
def State.startGroups (s : State) (r : LaunchRec) (tid : Nat) (t : Team) : Nat → State
  | 0 => s
  | n + 1 =>
    let idx := r.lanes / r.width - (n + 1)
    let gid := s.nextId
    let g := startGroup r tid t idx (s.freeSlot t.core) (s.bestHome t.core r.width) s.cycle s.fresh
    ({ s with
      groups := aset s.groups gid g
      teams := amod s.teams tid fun x => { x with groups := x.groups ++ [gid] }
      nextId := gid + 1
      fresh := s.fresh + 256 * r.width }).startGroups r tid t n

/-- Member `i` of cluster `cid` placed: team, scratchpad run, groups (R30). -/
def State.placeTeam (s : State) (lid cid : Nat) (r : LaunchRec) (die col row ord i : Nat) : State :=
  let p := memberPos r col row i
  let k := s.physCore die p.1 p.2
  let base := (s.roomOn k r).getD 0
  let nw := r.gridx / r.cluw
  let nh := r.gridy / r.cluh
  let t : Team := {
    launch := lid, cluster := cid, member := i
    x := ord % nw * r.cluw + i % r.cluw, y := ord / nw % nh * r.cluh + i / r.cluw, z := ord / (nw * nh)
    core := k, col := p.1, row := p.2, base := base, size := r.run, live := r.lanes, groups := [], seed := s.fresh }
  let s1 := s.growSpz k (base + r.run)
  let tid := s1.nextId
  let s2 := { s1 with
    teams := aset s1.teams tid t
    clusters := amod s1.clusters cid fun c => { c with teams := c.teams ++ [tid] }
    nextId := tid + 1, fresh := s1.fresh + r.scratch }
  s2.startGroups r tid t (r.lanes / r.width)

/-- A cluster never placed before, placed whole (R72, R73). -/
def State.placeCluster (s : State) (lid : Nat) (l : Launch) (die col row : Nat) : State :=
  let cid := s.nextId
  let s1 := { s with
    clusters := aset s.clusters cid { launch := lid, ord := l.placed, die := die, col := col, row := row, teams := [], placedAt := s.cycle }
    launches := aset s.launches lid { l with placed := l.placed + 1, failSince := none, reserved := false }
    nextId := cid + 1, lastDie := die }
  (List.range (l.lrec.cluw * l.lrec.cluh)).foldl (fun st i => st.placeTeam lid cid l.lrec die col row l.placed i) s1

end Sys2Proof.Machine
end

