-- ==== Sys2Proof/Machine/EDistrib.lean ====
section
/-!
DEFINITION. The distributor: taking records (R56, R59), starting launches (R57, R58), placing and reserving (R71 to R74), retiring
groups and teams (R156, R394, R395), completing launches (R61, R62), and the numbering of a die (R63, R66).
-/
namespace Sys2Proof.Machine

/-! ## Taking records -/

/-- Queue `q` of a context (R53). -/
def Context.queue (x : Context) (q : Nat) : HostQueue := (aget x.queues q).getD {}

/-- The context with a queue replaced. -/
def Context.setQueue (x : Context) (q : Nat) (h : HostQueue) : Context := { x with queues := aset x.queues q h }

/-- A launch accepted from queue `q` (R26, R70). -/
def State.accept (s : State) (c q : Nat) (slot : Word) (r : LaunchRec) : State :=
  { s with
    launches := aset s.launches s.nextId { ctx := c, queue := q, slot := slot, lrec := r, ageFrom := s.cycle }
    nextId := s.nextId + 1 }

/-- A record accepted, or rejected with its status (R26, R61). -/
def State.takeRecord (s : State) (c q : Nat) (slot : Word) (r : LaunchRec) : State :=
  match r.fault with
  | some st => s.postRecord c (launchRecord q slot st r.ctag s.cycle 0)
  | none => s.accept c q slot r

/-- The place of the slot at HEAD (R55), or the cause that makes it unreadable. -/
def State.slotPlace (s : State) (c : Nat) (h : HostQueue) : Except (BitVec 8) Place :=
  s.deviceAddr c .read (dw (h.base.toNat + 128 * (h.head.toNat % 2 ^ h.log2)))

/-- The fields of `mask` of the slot at `pa` read now, beside those read before; none when one holds poison. -/
def State.readFields (s : State) (pa : Nat) (mask : BitVec 16) (part : Tbl DWord) : Option (Tbl DWord) :=
  (List.range 16).foldl (fun acc i => acc.bind fun t =>
    if mask.getLsbD i && (aget t i).isNone then (s.homeDWord (pa + 8 * i)).map fun v => aset t i v else some t) (some part)

/-- The context with the slot at HEAD released. -/
def Context.release (x : Context) (q : Nat) : Context :=
  x.setQueue q { x.queue q with head := (x.queue q).head + 1, part := [] }

/-- No answer for the slots of a queue is awaited any more. -/
def State.dropSlotAsks (s : State) (c q : Nat) : State :=
  { s with devAsks := s.devAsks.filter fun x => match x.2 with
      | .slot c1 q1 _ => !(c1 = c && q1 = q)
      | .record _ | .table _ _ | .counter _ _ | .reread _ _ _ => true }

/-- The slot at HEAD cannot be read (R56): it is released and its launch rejected with 0x13. -/
def State.refuseSlot (s : State) (c q : Nat) : State :=
  let h := (s.ctx c).queue q
  ((s.dropSlotAsks c q).modCtx c fun x => x.release q).postRecord c (launchRecord q h.head 0x13 0 s.cycle 0)

/-- Once every field of the slot at HEAD has been read, its record is taken and the slot released (R23, R56). -/
def State.finishSlot (s : State) (c q : Nat) : State :=
  let h := (s.ctx c).queue q
  if (List.range 16).all fun i => (aget h.part i).isSome then
    (s.modCtx c fun x => x.release q).takeRecord c q h.head { w := (List.range 16).map fun i => (i, (aget h.part i).getD 0) }
  else s

/-- The fields of `mask` of a slot on another package are asked for, but for those read or asked for already (R326). -/
def State.askFields (s : State) (c q pkg pa : Nat) (mask : BitVec 16) : State :=
  (List.range 16).foldl (fun st i =>
    if mask.getLsbD i && (aget ((st.ctx c).queue q).part i).isNone && st.devAsks.all (fun x => x.2 ≠ .slot c q i) then
      (st.askDevice c pkg (pa + 8 * i) (.load 8 none) (.slot c q i)).2
    else st) s

/-- The 8-byte fields of the slot at HEAD that are read now: which, the spec leaves open (R23), so they are free, but for one at least that has not
been read (log 81). -/
def State.fieldsNow (s : State) (part : Tbl DWord) : BitVec 16 :=
  let m := (Config.freeWord s.fresh).setWidth 16
  if (List.range 16).any fun i => m.getLsbD i && (aget part i).isNone then m else 0xFFFF

/-- QUEUE_SLOT_READ (R23, R55, R56): some fields of the record at HEAD are read, each once, so each has a value that it held between the
tail write and the release of its slot. With the last of them the record is accepted, or rejected with 0x01 to 0x07; a slot that cannot be read is
rejected with 0x13. HEAD advances. -/
def execQueueSlotRead (c : BitVec 6) (q : BitVec 3) (s0 : State) : Out :=
  let x := s0.ctx c.toNat
  let h := x.queue q.toNat
  let fields := s0.fieldsNow h.part
  let s := { s0 with fresh := s0.fresh + 1 }
  if !x.en || h.head = h.tail then .next s0
  else match s.slotPlace c.toNat h with
    | .error code => .next ((s.noteWorld code).refuseSlot c.toNat q.toNat)
    | .ok (.home pa) =>
      (match s.readFields pa fields h.part with
       | none => .next (s.refuseSlot c.toNat q.toNat)
       | some part => .next ((s.modCtx c.toNat fun y => y.setQueue q.toNat { h with part := part }).finishSlot c.toNat q.toNat))
    | .ok (.remote pkg pa) => .next (s.askFields c.toNat q.toNat pkg pa fields)
    | .ok (.scratch _ _) => .next s

/-- The oldest accepted launch of a queue that has not started: its candidate (R57). -/
def State.candidate (s : State) (c q : Nat) : Option (Nat × Launch) :=
  s.launches.find? fun p => p.2.ctx = c && p.2.queue = q && !p.2.started

/-- KERNEL_QUEUE_TAKE (R59): the head of the kernel queue is checked; it stays there until it starts. -/
def execKernelQueueTake (c : BitVec 6) (s : State) : Out :=
  let x := s.ctx c.toNat
  match x.kq with
  | [] => .next s
  | e :: rest =>
    if !x.en || (s.candidate c.toNat 8).isSome then .next s
    else
      let s1 := if e.lrec.fault.isSome then s.setCtx c.toNat { x with kq := rest } else s
      .next (s1.takeRecord c.toNat 8 e.slot e.lrec)

/-! ## Starting (R57, R58, R71) -/

/-- A window of the event vector. -/
def evWindow (ev : BitVec 256) (n : Nat) : DWord := (ev >>> (64 * n)).setWidth 64

/-- The launch may start (R27, R57): its context starts launches and WAIT is satisfied. -/
def State.waitMet (s : State) (l : Launch) : Bool :=
  let x := s.ctx l.ctx
  x.en && !x.halt && (l.lrec.wait &&& ~~~(evWindow x.ev l.lrec.wwin)) = 0

/-- Another queue's candidate that could start stands before the launch (R71). -/
def State.earlierCandidate (s : State) (id : Nat) (l : Launch) : Bool :=
  s.launches.any fun p => p.1 ≠ id && !p.2.started && s.candidate p.2.ctx p.2.queue = some p && s.waitMet p.2 && s.servesFirst p (id, l)

/-- LAUNCH_START (R27, R57, R58): WAIT is tested and CLEAR applied in one step. -/
def execLaunchStart (c : BitVec 6) (q : BitVec 4) (s : State) : Out :=
  let s0 := s.settleAges
  match s0.candidate c.toNat q.toNat with
  | none => .next s
  | some (id, l) =>
    if !s0.waitMet l || s0.earlierCandidate id l then .next s0
    else
      let s1 := s0.modCtx c.toNat fun x => { x with
        ev := x.ev &&& ~~~(l.lrec.clear.setWidth 256 <<< (64 * l.lrec.cwin))
        kq := if l.queue = 8 then x.kq.drop 1 else x.kq }
      .next ({ s1 with launches := aset s1.launches id { l with started := true } }.served l).refit

/-- AGEING_STEP (R70): the launch's effective priority follows its age. -/
def execAgeingStep (launch : Nat) (s : State) : Out :=
  .next { s with launches := amod s.launches launch fun l => { l with aged := s.ageOf l } }

/-! ## Placing (R71 to R73) -/

/-- CLUSTER_PLACE (R72): the launch's next new cluster on a rectangle, when nothing stands before it. -/
def execClusterPlace (launch die col row : Nat) (s : State) : Out :=
  let s0 := s.settleAges.refit
  match aget s0.launches launch with
  | none => .next s
  | some l =>
    if !s0.hasNext launch l || (s0.oldestSaved launch).isSome || !s0.rectFits l die col row || !s0.mayPlace launch l then .next s0
    else .next ((s0.placeCluster launch l die col row).served l).refit

/-- PLACEMENT_RESERVATION (R73): after 2^22 cycles of failing, launches of lower eff place nothing until this one has. -/
def execPlacementReservation (launch : Nat) (s : State) : Out :=
  let s0 := s.settleAges.refit
  match aget s0.launches launch with
  | none => .next s
  | some l =>
    match l.failSince with
    | some c =>
      if c + 2 ^ 22 ≤ s.cycle then .next { s0 with launches := aset s0.launches launch { l with reserved := true } } else .next s0
    | none => .next s0

/-- DIE_RENUMBER (R63, R66): once no team is resident on the die its logical mesh is formed anew: every row hides as many cores as the
row with the most dead ones. -/
def execDieRenumber (die : Nat) (s : State) : Out :=
  let d := s.die die
  if !d.renumber || !d.inService || s.teams.any fun p => !p.2.retired && p.2.core.die = die then .next s
  else
    let deadIn := fun row : Nat => (d.dead.filter fun x => x.2 = row).eraseDups
    let most := (List.range 10).foldl (fun m row => max m (deadIn row).length) 0
    let width := 16 - max 1 most
    let cols := fun row : Nat => ((List.range 16).filter fun col => !d.dead.contains (col, row)).take width
    .next (s.modDie die fun x => { x with
      renumber := false, width := width, colmap := (List.range 10).map fun row => (row, cols row) }).refit

/-! ## Retiring -/

/-- Something of the group is still on its way: messages, releases, loads, lane transfers, engine work (R156, R394). -/
def State.groupBusy (s : State) (gid : Nat) (g : Group) : Bool :=
  !g.quar.isEmpty || g.block.isSome || !g.lq.isEmpty || !g.mq.isEmpty || !g.cq.isEmpty || !s.producersLanded gid g ||
    (s.net.any fun x => x.2.gid = gid && x.2.rejected.isNone) || (s.rels.any fun x => x.2.gid = gid) ||
    (s.copies.any fun x => x.2.gid = gid && x.2.reject.isNone) || (s.colls.any fun x => x.2.gid = gid) ||
    (s.streams.any fun x => x.2.gid = gid && !x.2.finished) || s.batches.any fun x => x.2.gid = gid && x.2.closed

/-- The batch that no `mfence` closed completes unreported (R275). -/
def State.dropOpenBatch (s : State) (gid : Nat) : State :=
  let bs := (s.batches.filter fun b => b.2.gid = gid).map (·.1)
  let s1 := bs.foldl State.undefStreams s
  { s1 with batches := bs.foldl adel s1.batches, streams := s1.streams.filter fun x => x.2.gid ≠ gid }

/-- A team whose last group has gone retires (R75, R284, R395): its context's dirty words are written back, its live barriers end, its run
returns, the floors of a context that has left go. -/
def State.retireTeam (s : State) (tid : Nat) : State :=
  match aget s.teams tid with
  | none => s
  | some t =>
    if t.retired || !t.groups.all (fun g => match aget s.groups g with
        | some x => x.done
        | none => true) then s
    else
      let c := match aget s.launches t.launch with
        | some l => l.ctx
        | none => 0
      let s1 := (s.writeBackAll t.core c).modTeam tid fun x => { x with retired := true, liveBars := [] }
      (((s1.noteFreed t.core (s.teamFreed t)).shrinkSpz t.core).dropFloors t.core c).refit

/-- A group is over: its region and arrays go, its registers return (R75, R260, R394). -/
def State.endGroup (s : State) (gid : Nat) : State :=
  match aget s.groups gid with
  | none => s
  | some g =>
    let s1 := ((s.dropAll gid).freeArrays gid).setGroup gid { g with rejected := [], done := true, region := none, waits := [], hold := none, lrgn := none, park := none, late := [], inHandler := false }
    let s2 := match aget s.teams g.team with
      | some t => s1.noteFreed t.core { at_ := s.cycle, regs := g.width * (s.teamRec t).regsAlloc }
      | none => s1
    s2.retireTeam g.team

/-- GROUP_RETIRE (R156, R394): the stream has ended, and nothing of the group is queued, running, quarantined or on its way. A cause
still held at the `exit` is raised as a system fault first (R367). -/
def execGroupRetire (gid : Nat) (s : State) : Out :=
  match aget s.groups gid with
  | none => .next s
  | some g =>
    if !g.sExited || !s.mayIssue g then .next s
    else match g.late with
      | c :: rest => .next ((s.setGroup gid { g with late := rest }).takeCause gid c false)
      | [] => if s.groupBusy gid g then .next s else .next ((s.dropOpenBatch gid).endGroup gid)

/-- Something of a retired launch is still under way: commands that had started, quarantined effects of killed groups, write-backs. -/
def State.launchBusy (s : State) (id : Nat) : Bool :=
  s.teams.any fun t => t.2.launch = id &&
    (!t.2.retired ||
     t.2.groups.any (fun gid => match aget s.groups gid with
       | some g => s.groupBusy gid g
       | none => false) ||
     s.net.any fun m => m.2.isWriteBack && m.2.core = t.2.core && (match aget s.launches id with
       | some l => m.2.ctx = l.ctx
       | none => false))

/-- A launch is gone with its clusters, teams and groups. -/
def State.dropLaunch (s : State) (id : Nat) : State :=
  let ts := (s.teams.filter fun t => t.2.launch = id).map (·.1)
  let gs := (s.groups.filter fun g => ts.contains g.2.team).map (·.1)
  { s with
    launches := adel s.launches id
    clusters := s.clusters.filter fun x => x.2.launch ≠ id
    teams := s.teams.filter fun t => t.2.launch ≠ id
    groups := s.groups.filter fun g => !gs.contains g.1
    batches := s.batches.filter fun b => !gs.contains b.2.gid
    streams := s.streams.filter fun x => !gs.contains x.2.gid }

/-- LAUNCH_COMPLETE (R61, R62, R395): SET, the record, CQTAIL, the vector. -/
def execLaunchComplete (launch : Nat) (s : State) : Out :=
  match aget s.launches launch with
  | none => .next s
  | some l =>
    if !l.started || s.hasNext launch l || s.launchBusy launch then .next s
    else
      let gs := (s.teams.filter fun t => t.2.launch = launch).flatMap fun t => t.2.groups
      let s1 := ((gs.foldl State.dropOpenBatch s).dropLaunch launch).modCtx l.ctx fun x => { x with ev := evOr x.ev l.lrec.swin l.lrec.set }
      .next (s1.postRecord l.ctx (launchRecord l.queue l.slot (if l.kills = 0 then 0x00 else 0x10) l.lrec.ctag s.cycle l.kills))

end Sys2Proof.Machine
end

