-- ==== Sys2Proof/Machine/EPreempt.lean ====
section
/-!
DEFINITION. Killing a group (R373), and pre-emption: choosing victims (R76), saving a cluster (R77, R389 to R392), resuming it
(R78, R323, R393).
-/
namespace Sys2Proof.Machine

/-! ## KILL (R373) -/

/-- The commands of a group that have not started are dropped with no effect and no credit. -/
def State.dropUnstarted (s : State) (gid : Nat) (g : Group) : State :=
  ((g.lq ++ g.mq ++ g.cq).filter fun i => !s.cmdStarted i).foldl (fun st i => st.undoCmd gid i) s

/-- The running block of a killed group is gone. -/
def Group.noBlock (g : Group) : Group := { g with block := none, slices := [], gangs := [], lq := [] }

/-- A group is killed (R373): its lanes exit, its unstarted commands are dropped, it retires; started commands and quarantined effects go
on. -/
def State.killGroup (s : State) (gid : Nat) : State :=
  match s.who gid with
  | none => s
  | some w =>
    if w.g.done then s
    else
      let n := ((List.range w.g.width).filter fun l => (w.g.lane l).life ≠ .exited).length
      let s1 := (s.dropUnstarted gid w.g).modGroup gid fun g =>
        { g.noBlock with sExited := true, lanes := g.lanes.map fun p => (p.1, { p.2 with life := .exited }) }
      let s2 := { s1 with
        cmds := w.g.lq.foldl adel s1.cmds
        launches := amod s1.launches w.team.launch fun l => { l with kills := l.kills + 1 } }
      (s2.lowerLive w.g.team n).endGroup gid

/-! ## Choosing victims (R76) -/

/-- A collective command of the group is outstanding; of a killed group those that had started are (R373). -/
def State.collOutstanding (s : State) (gid : Nat) (g : Group) : Bool :=
  (s.colls.any fun x => x.2.gid = gid) || g.cq.any fun i => match aget s.cmds i with
    | some c => c.kind == .xmar || c.kind == .xred || c.kind == .xnorm || c.kind == .xbar
    | none => false

/-- The groups of a cluster. -/
def State.clusterAll (s : State) (x : Cluster) : List (Nat × Group) :=
  (x.teams.flatMap fun t => match aget s.teams t with
    | some y => y.groups
    | none => []).filterMap fun gid => (aget s.groups gid).map fun g => (gid, g)

/-- The groups of a cluster that have not retired. -/
def State.clusterGroups (s : State) (x : Cluster) : List (Nat × Group) := (s.clusterAll x).filter fun g => !g.2.done

/-- The cluster may be evicted for launch `l`. -/
def State.eligible (s : State) (l : Launch) (p : Nat × Cluster) : Bool :=
  !p.2.stopping && !p.2.saved && (match aget s.launches p.2.launch with
    | some v => v.lrec.preemptible && v.lrec.prio < l.lrec.prio
    | none => false) &&
  (p.2.teams.any fun t => match aget s.teams t with
    | some y => !y.retired
    | none => false) &&
  (s.clusterAll p.2).all fun g => (g.2.done || g.2.park.isNone) && !s.collOutstanding g.1 g.2

/-- PRIO of a cluster's launch. -/
def State.clusterPrio (s : State) (x : Cluster) : Nat :=
  match aget s.launches x.launch with
  | some v => v.lrec.prio
  | none => 0

/-- Victim `a` is taken before victim `b`: lower PRIO, then placed later. -/
def State.victimFirst (s : State) (a b : Nat × Cluster) : Bool :=
  let pa := s.clusterPrio a.2
  let pb := s.clusterPrio b.2
  if pa ≠ pb then pa < pb
  else if a.2.placedAt ≠ b.2.placedAt then b.2.placedAt < a.2.placedAt
  else b.1 < a.1

/-- Insertion into the order of victims. -/
def State.insertVictim (s : State) (a : Nat × Cluster) : List (Nat × Cluster) → List (Nat × Cluster)
  | [] => [a]
  | b :: t => if s.victimFirst a b then a :: b :: t else b :: s.insertVictim a t

/-- The eligible clusters in the order in which they are taken. -/
def State.victims (s : State) (l : Launch) : List (Nat × Cluster) :=
  (s.clusters.filter (s.eligible l)).foldl (fun acc p => s.insertVictim p acc) []

/-- The state as it would stand without some clusters. -/
def State.without (s : State) (cs : List Nat) : State :=
  { s with
    teams := s.teams.filter fun t => !cs.contains t.2.cluster
    cores := s.cores.map fun c => (c.1, { c.2 with freed := [], array := match c.2.array with
      | some a => (match (aget s.groups a.owner).bind fun g => aget s.teams g.team with
        | some t => if cs.contains t.cluster then none else some a
        | none => some a)
      | none => none }) }

/-- The shortest list of victims that makes room, taken from the order; `taken` are those before. -/
def State.enough (s : State) (id : Nat) (l : Launch) : List Nat → List (Nat × Cluster) → Option (List Nat)
  | taken, [] => if ((s.without taken).firstFit id l).isSome then some taken else none
  | taken, v :: rest =>
    if ((s.without taken).firstFit id l).isSome then some taken else s.enough id l (taken ++ [v.1]) rest

/-- Cluster `c` is one of the victims: it is in the list and stands on the rectangle that the list frees. -/
def State.isVictim (s : State) (id : Nat) (l : Launch) (c : Nat) : Bool :=
  let going := (s.clusters.filter fun p => p.2.stopping).map (·.1)
  match s.enough id l going (s.victims l) with
  | none => false
  | some cs =>
    cs.contains c && !going.contains c && (match (s.without cs).firstFit id l with
      | some r =>
        let cores := s.rectCores l.lrec r.1 r.2.1 r.2.2
        s.teams.any fun t => t.2.cluster = c && !t.2.retired && cores.contains t.2.core
      | none => false)

/-- PREEMPT (R76, R77 step 1): a started launch whose next cluster does not fit stops a victim. -/
def execPreempt (launch victim cluster : Nat) (s : State) : Out :=
  let s0 := s.settleAges
  match aget s0.launches launch, aget s0.clusters cluster with
  | some l, some x =>
    if x.launch = victim && s0.hasNext launch l && (s0.firstFit launch l).isNone && s0.isVictim launch l cluster then
      .next { s0 with clusters := aset s0.clusters cluster { x with stopping := true } }
    else .next s0
  | _, _ => .next s

/-! ## The frame of a team (R390 to R392) -/

/-- Frame `f`. -/
def frameVa (f : Nat) : Nat := 0x1FFF00000000000 + 2 ^ 22 * f

/-- A number of four life states: live, demoted, exited. -/
def Life.code : Life → Nat
  | .live => 0 | .demoted => 1 | .exited => 2

/-- A state of a slice as R392 writes it. -/
def SliceState.word (x : SliceState) : Nat := x.pc.toNat + x.depth * 2 ^ 32 + x.mask.toNat * 2 ^ 38 + 2 ^ 63

/-- Bytes in the device's own form (R391, R392), which the frame of seed `n` holds at offset `o`. -/
def ownForm (n o len : Nat) : Nat × List Byte := (o, (List.range len).map fun i => Config.freeByte (n + o + i))

/-- The record of a group (R392), by offset in the record. A state whose last instruction is a withdrawn `ldb` stands at it (R325); `held` are
their addresses. -/
def Group.frameRec (g : Group) (held : List Word) : List (Nat × List Byte) :=
  let w := fun (o v : Nat) => (o, leBytes 8 v)
  let inRgn := g.inRgn true || g.inRgn false
  let stopped := g.block.any fun b => b.stopped && b.byLane
  [w 0x00 g.spc.toNat, w 0x08 (g.inHandler.toNat + g.sExited.toNat * 2 + inRgn.toNat * 4 + stopped.toNat * 8),
   w 0x10 g.trap.cause.toNat, w 0x18 g.trap.pc.toNat, w 0x20 g.trap.lpc.toNat, w 0x28 g.trap.addr.toNat, w 0x30 g.trap.donemask.toNat,
   w 0x38 ((g.ovfl.old || g.ovfl.at_.isSome).toNat + (g.nval.old || g.nval.at_.isSome).toNat * 2 + g.batchCtr.toNat * 4)] ++
  (List.range 8).map (fun i => w (0x40 + 8 * i) (g.modReg i).toNat) ++
  [w 0x80 ((List.range 16).foldl (fun acc i => acc + (match aget g.guards i with
      | some true => 1
      | some false => 2
      | none => 0) * 4 ^ i) 0), w 0x88 g.trap.rp.toNat] ++
  (List.range 64).map (fun i => w (0x100 + 8 * i) (g.sget (BitVec.ofNat 6 i)).toNat) ++
  [w 0x300 (g.sfe ||| 1).toNat, (0x308, leBytes 32 g.vfe.toNat)] ++
  (List.range g.width).map (fun l => (0x400 + 4 * l, leBytes 4 (g.lane l).preds.toNat)) ++
  (List.range (g.width / 4)).flatMap (fun i => (List.range 4).map fun j =>
    w (0x500 + 32 * i + 8 * j) (match ((aget g.slices i).getD [])[j]? with
      | some x => if held.contains (x.pc - 1) then { x with pc := x.pc - 1 }.word else x.word
      | none => 0)) ++
  [(0x700, leBytes 32 ((List.range g.width).foldl (fun acc l =>
    acc + ((g.lane l).life.code + (g.lane l).atEnd.toNat * 4) * 16 ^ l) 0))]

/-- The L-code addresses of a group's withdrawn `ldb`s (R325): loads of a round region of which no part has an answer. -/
def State.withdrawnPcs (s : State) (gid : Nat) : List Word :=
  (s.reqs.filter fun q => q.2.gid = gid && q.2.lane && !q.2.faulted && q.2.parts.any fun p => p.region.isSome && p.value.isNone).map (·.2.lpc)

/-- What a team's frame holds (R391), by offset: the head, the group records, lane registers, scratchpad; queue entries, release logs and arrays in
the device's own form, whose bytes nothing states (log 99). -/
def State.frameOf (s : State) (t : Team) (l : Launch) : List (Nat × List Byte) :=
  let ids := t.groups.filterMap fun gid => match aget s.groups gid with
    | some g => if g.done then none else some (gid, g)
    | none => none
  let gs := ids.map (·.2)
  let s7 := t.member % l.lrec.cluw + t.member / l.lrec.cluw * 2 ^ 8
  [(0, leBytes 8 (l.queue + l.slot.toNat * 2 ^ 32)), (8, leBytes 8 (t.x % 2 ^ 16 + t.y * 2 ^ 16 + t.z * 2 ^ 32 + s7 * 2 ^ 48)),
   (0x10, leBytes 8 gs.length), (0x18, leBytes 8 l.lrec.scratch), (0x20, leBytes 8 t.live),
   (0x28, (List.range 8).flatMap fun i => leBytes 4 (t.liveBars.getD i 0xFFFFFFFF))] ++
  (ids.flatMap fun g => (g.2.frameRec (s.withdrawnPcs g.1)).map fun r => (0x10000 + 0x4000 * g.2.idx + r.1, r.2)) ++
  (gs.flatMap fun g => ownForm t.frameSeed (0x10000 + 0x4000 * g.idx + 0x800) 768 ::
    (if g.region.isSome then [ownForm t.frameSeed (0x10000 + 0x4000 * g.idx + 0x1000) 4096] else [])) ++
  (if gs.any fun g => g.savedArray.isSome then (List.range 64).map fun i => ownForm t.frameSeed (0x380000 + 4096 * i) 4096 else []) ++
  (gs.flatMap fun g => (List.range g.width).map fun ln =>
    (0x200000 + 1024 * (g.idx * g.width + ln), (List.range l.lrec.regsAlloc).flatMap fun k => leBytes 4 ((g.lane ln).get k).toNat)) ++
  (List.range ((l.lrec.scratch + 4095) / 4096)).map fun i =>
    (0x300000 + 4096 * i, t.spRead (4096 * i) (min 4096 (l.lrec.scratch - 4096 * i)))

/-- The frame's physical address for an offset: HBM4E and W = 1 (R390), in the context's world. -/
def State.frameAddr (s : State) (c f off : Nat) : Option Nat :=
  match s.walk c (dw (frameVa f + off)) with
  | .bad _ => none
  | .leaf x => if x.w && x.pkg = s.self && s.aperture x.pa == .hbm && s.worldOk (s.ctx c).secure x.pa then some x.pa else none

/-- The lowest frame of the context that holds no team. -/
def State.freeFrame (s : State) (c : Nat) : Nat :=
  ((List.range (s.frames.length + 1)).find? fun f => !s.frames.contains (c, f)).getD 0

/-- A frame written, unless some page of it faults. -/
def State.writeFrame (s : State) (c f : Nat) (parts : List (Nat × List Byte)) : Option State :=
  parts.foldl (fun acc p => acc.bind fun st => (st.frameAddr c f p.1).map fun pa =>
    (st.homeWrite pa (p.2.map some) st.stepTag false).2) (some s)

/-- A frame still holds what was written. -/
def State.frameIntact (s : State) (c f : Nat) (parts : List (Nat × List Byte)) : Bool :=
  parts.all fun p => match s.frameAddr c f p.1 with
    | some pa => s.homeRead pa p.2.length = some p.2
    | none => false

/-! ## Saving (R77, R389) -/

/-- The place of a team that is saved. -/
def nowhere : CoreKey := { die := 16, col := 0, row := 0 }

/-- A load that a line home holds for its round, here or on another package (R325): withdrawn at the save, issued again on resumption. -/
def State.heldReq (s : State) (q : Req) : Bool :=
  !q.faulted && !q.atomic && q.parts.any fun p => !p.settled && p.region.isSome && (match p.place with
    | .home _ => !s.roundMet q p
    | .remote _ _ => p.sent.isSome
    | .scratch _ _ => false)

/-- A write of the group waits behind a `pbar` that has not started: the save does not await it, nor a release that needs it (R362). -/
def State.keepsHeld (s : State) (gid : Nat) : Bool := s.net.any fun m => m.2.gid = gid && s.msgHeld m.2

/-- Step 2 of R77 for one group: producers have landed, started commands are over, the quarantine is empty. -/
def State.quietGroup (s : State) (p : Nat × Group) : Bool :=
  !p.2.striking && !p.2.staleWait && p.2.quar.isEmpty &&
  (s.reqs.all fun q => q.2.gid ≠ p.1 || q.2.faulted || s.heldReq q.2 || (q.2.dst == .record && q.2.parts.all Part.settled)) &&
  (s.net.all fun m => m.2.gid ≠ p.1 || m.2.rejected.isSome || s.msgHeld m.2) && (s.rels.all fun r => r.2.gid ≠ p.1 || s.keepsHeld p.1) &&
  (s.copies.all fun c => c.2.gid ≠ p.1 || c.2.reject.isSome) && (s.colls.all fun c => c.2.gid ≠ p.1) &&
  ((p.2.mq ++ p.2.cq).all fun i => !s.cmdStarted i) &&
  (s.streams.all fun x => x.2.gid ≠ p.1 || !x.2.started || x.2.finished) &&
  s.batches.all fun b => b.2.gid ≠ p.1 || !b.2.closed || !b.2.pending.isEmpty

/-- The array that a group owns, as it is saved. -/
def State.arrayOf (s : State) (gid : Nat) (k : CoreKey) : Option (Bool × Option Tile) :=
  match (s.core k).array with
  | some a =>
    if a.owner = gid && !a.follower then
      some (s.cores.any fun c => c.2.array.any fun x => x.owner = gid && x.follower, a.tile)
    else none
  | none => none

/-- A group saved: no wait counts any more. -/
def Group.saved (g : Group) (arr : Option (Bool × Option Tile)) : Group := { g with waits := [], savedArray := arr }

/-- The held loads of a group are withdrawn (R325): their destinations are full with their old values, as a fault leaves them, and no part of them
counts as answered. -/
def State.withdraw (s : State) (gid : Nat) : State :=
  (s.reqs.filter fun q => q.2.gid = gid && s.heldReq q.2).foldl (fun st q =>
    { st.faultDst gid q.2.dst with
      reqs := aset st.reqs q.1 { q.2 with parts := q.2.parts.map fun p => { p with sent := none, value := none, stale := false } } }) s

/-- A team's groups as they are saved. -/
def State.settleTeam (s : State) (t : Team) : State :=
  (t.groups.filter fun gid => match aget s.groups gid with
    | some g => !g.done
    | none => false).foldl (fun st gid => (st.modGroup gid fun g => g.saved (st.arrayOf gid t.core)).withdraw gid) s

/-- A team's resources return once its frame is written (R75, R77 step 4). -/
def State.leaveCore (s : State) (c f tid : Nat) (t : Team) : State :=
  let gs := t.groups.filter fun gid => match aget s.groups gid with
    | some g => !g.done
    | none => false
  let s1 := gs.foldl State.freeArrays s
  let s2 := { s1 with teams := aset s1.teams tid { t with core := nowhere, frame := some f }, frames := (c, f) :: s1.frames }
  ((s2.noteFreed t.core (s.teamFreed t)).shrinkSpz t.core).dropFloors t.core c

/-- The teams of a cluster that have not retired. -/
def State.liveTeams (s : State) (x : Cluster) : List (Nat × Team) :=
  x.teams.filterMap fun t => match aget s.teams t with
    | some y => if y.retired then none else some (t, y)
    | none => none

/-- The teams saved in turn; none when a frame faults. -/
def State.saveTeams (s : State) (l : Launch) : List (Nat × Team) → Option State
  | [] => some s
  | (tid, t) :: rest =>
    let f := s.freeFrame l.ctx
    let t1 := { t with frameSeed := s.fresh }
    let s0 := { s.settleTeam t with fresh := s.fresh + 2 ^ 22 }
    match s0.writeFrame l.ctx f (s0.frameOf t1 l) with
    | none => none
    | some s1 => (s1.leaveCore l.ctx f tid t1).saveTeams l rest

/-- PREEMPT_SAVE (R77 steps 2 to 4): in further steps, the cores' dirty words are written back, whosever they are, then the frames are written and the
resources return. What killed groups had started is awaited too. A frame that faults kills every group of the cluster (R390); a group parked meanwhile ends the pre-emption (R76). -/
def execPreemptSave (launch cluster : Nat) (s : State) : Out :=
  match aget s.launches launch, aget s.clusters cluster with
  | some l, some x =>
    let gs := s.clusterGroups x
    let ts := s.liveTeams x
    if x.launch ≠ launch || !x.stopping then .next s
    else if gs.any fun g => g.2.park.isSome then .next { s with clusters := aset s.clusters cluster { x with stopping := false } }
    else if !gs.all s.quietGroup || (s.clusterAll x).any fun g => g.2.done && s.groupBusy g.1 g.2 then .next s
    else if ts.any fun t => (s.core t.2.core).l1.any fun y => y.isDirty then
      .next (ts.foldl (fun st t => (((st.core t.2.core).l1.map (·.ctx)).eraseDups).foldl (fun st c => st.writeBackAll t.2.core c) st) s)
    else if s.net.any fun m => m.2.isWriteBack && ts.any fun t => t.2.core = m.2.core then .next s
    else match s.saveTeams l ts with
      | none =>
        .next (gs.foldl (fun st g => st.killGroup g.1) { s with clusters := aset s.clusters cluster { x with stopping := false } })
      | some s1 =>
        .next { s1 with
          clusters := aset s1.clusters cluster { x with stopping := false, saved := true, savedAt := s.cycle }
          launches := aset s1.launches launch { l with ageFrom := s.cycle, aged := 0 } }.refit
  | _, _ => .next s

/-! ## Resuming (R78, R323, R393) -/

/-- A lane as a written-over frame restores it. -/
def Lane.scrambled (x : Lane) (n : Nat) : Lane :=
  let v := Config.freeWord n
  { x with
    regs := [], preds := v.setWidth 24, seed := n
    life := if v.getLsbD 24 then .exited else if v.getLsbD 25 then .demoted else .live, atEnd := v.getLsbD 26 }

/-- A tile as a written-over frame restores it. -/
def Tile.scrambled (x : Tile) (n : Nat) : Tile :=
  { x with
    codes := (List.range x.codes.length).map fun c => (List.range (x.codes.getD c []).length).map fun k => (Config.freeByte (n + 256 * c + k)).toNat
    bsc := (List.range x.bsc.length).map fun i => (Config.freeByte (n + 2 ^ 17 + i)).toNat
    ssc := (List.range x.ssc.length).map fun i => Config.freeWord (n + i) }

/-- A checkpoint and release log as a written-over frame restores them. -/
def Region.scrambled (r : Region) (n : Nat) : Region :=
  let d := fun i => Config.freeDWord (n + i)
  { r with
    ck := { r.ck with spc := d 0, sfe := d 1, vfe := (d 2).setWidth 256, batchCtr := (d 3).setWidth 32, donemask := d 4 }
    rs := (d 5).toNat, rl := r.rl.map fun x => (x.1, (d (8 + x.1)).toNat)
    log := (List.range r.log.length).filterMap fun i => r.log[i]?.map fun v => { v with value := d (128 + i) } }

/-- A group as a written-over frame restores it (R390): everything that its record holds is undefined. -/
def Group.scrambled (g : Group) (n : Nat) : Group :=
  let d := fun i => Config.freeDWord (n + i)
  let bit := fun i => (d i).getLsbD 0
  { g with
    spc := d 64, sregs := (List.range 64).map (fun i => (i, d i)), sfe := d 65
    vfe := (d 66).setWidth 256 ||| (d 67).setWidth 256 <<< 64 ||| (d 68).setWidth 256 <<< 128 ||| (d 69).setWidth 256 <<< 192
    mods := (List.range 8).map fun i => (i, d (72 + i))
    guards := (List.range 16).filterMap fun i => if bit (80 + i) then some (i, bit (96 + i)) else none
    ovfl := { old := bit 112 }, nval := { old := bit 113 }, inHandler := bit 114, sExited := bit 115
    trap := { cause := d 116, pc := d 117, lpc := d 118, addr := d 119, donemask := d 120, rp := d 121 }
    batchCtr := (d 122).setWidth 32
    block := g.block.map fun b => { b with byLane := b.stopped && bit 123 }
    slices := g.slices.map fun x => (x.1, (List.range x.2.length).filterMap fun j => (x.2[j]?).map fun y =>
      { y with pc := (d (128 + 4 * x.1 + j)).setWidth 32, depth := (d (192 + 4 * x.1 + j)).toNat % 8, mask := (d (256 + 4 * x.1 + j)).setWidth 4 })
    gangs := []
    lanes := g.lanes.map fun p => (p.1, p.2.scrambled (n + 1024 + 256 * p.1))
    savedArray := g.savedArray.map fun a => (a.1, a.2.map fun t => t.scrambled (n + 65536))
    region := g.region.map fun r => r.scrambled (n + 320) }

/-- A queue entry as a written-over frame restores it. -/
def Cmd.scrambled (c : Cmd) (n : Nat) : Cmd :=
  { c with pc := Config.freeDWord n, args := (List.range c.args.length).map fun i => Config.freeDWord (n + 1 + i) }

/-- A team whose frame software has written resumes with undefined values (R390): registers, sequencers, queues, logs, arrays, LIVE, live barriers,
scratchpad. -/
def State.scramble (s : State) (tid : Nat) (t : Team) : State :=
  let n := s.fresh
  let s1 := { s with
    fresh := n + 2 ^ 20
    teams := aset s.teams tid { t with
      sp := [], seed := n, live := (Config.freeWord n).toNat % 2048
      liveBars := (List.range t.liveBars.length).map fun i => (Config.freeWord (n + 1 + i)).toNat } }
  t.groups.foldl (fun st gid => match aget st.groups gid with
    | none => st
    | some g =>
      { st.setGroup gid (g.scrambled st.fresh) with
        fresh := st.fresh + 2 ^ 19
        cmds := (g.lq ++ g.mq ++ g.cq).foldl (fun cs i => amod cs i fun c => c.scrambled (st.fresh + 2 ^ 18 + 32 * i)) st.cmds }) s1

/-- What a group has outstanding moves to the new core; withdrawn loads take the present generation and counter (R323, R325). -/
def State.moveGroup (s : State) (gid : Nat) (k : CoreKey) : State :=
  { s with
    net := s.net.map fun m => if m.2.gid = gid then (m.1, { m.2 with core := k }) else m
    rels := s.rels.map fun r => if r.2.gid = gid then (r.1, { r.2 with core := k, after := r.2.after.map fun m => { m with core := k } }) else r
    copies := s.copies.map fun c => if c.2.gid = gid then (c.1, { c.2 with core := k }) else c
    reqs := s.reqs.map fun q =>
      if q.2.gid = gid then
        (q.1, { q.2 with core := k, since := s.cycle, parts := q.2.parts.map fun p =>
          if p.settled then p
          else { p with gen := s.genStamp k q.2.ctx, region := p.region.map fun r =>
            (r.1, match s.regionValue q.2.ctx r.1 with
              | some v => if r.2.toNat < v.toNat then v else r.2
              | none => r.2) } })
      else q }

/-- A saved group is resident again: slot, home, array (R78); a `rgn` stands before its word again (R389); the destinations
of withdrawn loads are empty until they are answered (R325). -/
def State.resumeGroup (s : State) (gid : Nat) (k : CoreKey) (follower : CoreKey) : State :=
  match aget s.groups gid with
  | none => s
  | some g =>
    if g.done then s
    else
      let s1 := (s.setGroup gid { g with
        slot := s.freeSlot k, home := s.bestHome k g.width, since := s.cycle, savedArray := none
        lrgn := none
        hold := g.hold.filter fun h => !(g.inRgn false || h.stage = poolStage) }).moveGroup gid k
      let s2 := match g.savedArray with
        | none => s1
        | some (pair, tile) =>
          let s3 := s1.modCore k fun x => { x with array := some { owner := gid, follower := false, tile := tile } }
          if pair then s3.modCore follower fun x => { x with array := some { owner := gid, follower := true } } else s3
      (s2.reqs.foldl (fun st q => if q.2.gid = gid then st.launchParts q.1 else st)
        (s2.modGroup gid fun g => (s2.reqs.filter fun q => q.2.gid = gid && !q.2.faulted && !q.2.parts.all Part.settled).foldl
          (fun g q => g.emptyDst q.2.dst) g))

/-- The floors of the context on a core are pending (R323). -/
def Core.pendFloors (k : Core) (c : Nat) : Core :=
  { k with
    floors := k.floors.map fun f => if f.ctx = c then { f with pending := true } else f
    pendingFloors := if k.pendingFloors.contains c then k.pendingFloors else c :: k.pendingFloors }

/-- The lines of the context leave a core's L1, dirty words written back: a resumed cluster finds none (R78). -/
def State.flushL1 (s : State) (k : CoreKey) (c : Nat) : State :=
  ((s.core k).l1.filter fun x => x.ctx = c).foldl (fun st x => (st.writeBackLine k x (st.genStamp k x.ctx)).modCore k fun y => y.l1Drop x.ctx x.pa) s

/-- A saved team resumes on the core of its member's place. -/
def State.resumeTeam (s : State) (l : Launch) (die col row tid : Nat) (t : Team) : State :=
  let p := memberPos l.lrec col row t.member
  let k := s.physCore die p.1 p.2
  let base := (s.roomOn k l.lrec).getD 0
  let f := t.frame.getD 0
  let intact := s.frameIntact l.ctx f (s.frameOf t l)
  let s1 := ((s.growSpz k (base + l.lrec.run)).flushL1 k l.ctx).modCore k fun x => x.pendFloors l.ctx
  let s1 := { s1 with regionCopies := s1.regionCopies.filter fun x => x.1 / 4096 ≠ l.ctx }
  let t1 := { t with core := k, col := p.1, row := p.2, base := base, frame := none }
  let s2 := { s1 with teams := aset s1.teams tid { t1 with groups := [] }, frames := s1.frames.filter (· ≠ (l.ctx, f)) }
  let s3 := t.groups.foldl (fun st gid =>
    (st.resumeGroup gid k (s.physCore die (p.1 + 1) p.2)).modTeam tid fun y => { y with groups := y.groups ++ [gid] }) s2
  if intact then s3
  else match aget s3.teams tid with
    | some y => s3.scramble tid y
    | none => s3

/-- CLUSTER_RESUME (R78): the launch's oldest saved cluster resumes on a rectangle of its shape. -/
def execClusterResume (launch cluster die col row : Nat) (s : State) : Out :=
  let s0 := s.settleAges.refit
  match aget s0.launches launch, s0.oldestSaved launch with
  | some l, some (id, x) =>
    if id ≠ cluster || !s0.nextFits launch l die col row || !s0.mayPlace launch l then .next s0
    else
      let s1 := { s0 with
        clusters := aset s0.clusters cluster { x with saved := false, die := die, col := col, row := row, placedAt := s.cycle }
        launches := aset s0.launches launch { l with failSince := none, reserved := false }, lastDie := die }
      .next (((s0.liveTeams x).foldl (fun st t => st.resumeTeam l die col row t.1 t.2) s1).served l).refit
  | _, _ => .next s

end Sys2Proof.Machine
end

