-- ==== Sys2Proof/Machine/EHost.lean ====
section
/-!
DEFINITION. What the host does to the device: context blocks (R53, R54, R56, R58, R62, R219), registers of the capabilities (R39 to
R47, R356, R414), the memory BAR and CXL (R34, R42, R47, R230, R347, R362, R400), link training.
-/
namespace Sys2Proof.Machine

/-! ## Contexts (R53, R54) -/

/-- ACTIVE (R53). -/
def State.ctxActive (s : State) (c : Nat) : Bool :=
  (s.launches.any fun l => l.2.ctx = c && l.2.started) || !(s.ctx c).held.isEmpty

/-- CONTEXT_ENABLE (R54). -/
def execContextEnable (c : BitVec 6) (s : State) : Out := .next (s.modCtx c.toNat fun x => { x with en := true })

/-- CTAG of the slot at HEAD of `h`, which is discarded unread (R54, R61): its last field. A slot that cannot be read gives 0, and is no world
fault (log 87); CTAG of a slot on another package is a free value. -/
def State.slotCtag (s : State) (c : Nat) (h : HostQueue) (ticket : Nat) : DWord :=
  match aget h.part 15, s.slotPlace c h with
  | some v, _ => v
  | none, .ok (.home pa) => (s.homeDWord (pa + 120)).getD 0
  | none, .ok _ => Config.freeDWord ticket
  | none, .error _ => 0

/-- The submitted records of a queue that the distributor has not taken: their SLOT and CTAG (R54). -/
def State.unread (s : State) (c : Nat) (h : HostQueue) : List (Word × DWord) :=
  (List.range (h.tail - h.head).toNat).map fun i =>
    (h.head + w32 i, s.slotCtag c { h with head := h.head + w32 i, part := if i = 0 then h.part else [] } (s.fresh + i))

/-- Every launch of a queue that has not started is discarded with status 0x11 (R54, R61). -/
def State.discardQueue (s : State) (c q : Nat) : State :=
  let h := (s.ctx c).queue q
  let taken := (s.launches.filter fun l => l.2.ctx = c && l.2.queue = q && !l.2.started)
  let recs := taken.map (fun l => (l.2.slot, l.2.lrec.ctag)) ++ s.unread c h
  let s1 := { s.dropSlotAsks c q with
    launches := taken.foldl (fun (t : Tbl Launch) (l : Nat × Launch) => adel t l.1) s.launches
    fresh := s.fresh + (h.tail - h.head).toNat }
  let s2 := s1.modCtx c fun x => x.setQueue q { h with head := h.tail, part := [], stopped := false }
  recs.foldl (fun st r => st.postRecord c (launchRecord q r.1 0x11 r.2 s.cycle 0)) s2

/-- The kernel queue is discarded. -/
def State.discardKernelQueue (s : State) (c : Nat) : State :=
  let kq := (s.ctx c).kq
  let s1 := { (s.modCtx c fun x => { x with kq := [] }) with
    launches := s.launches.filter fun l => !(l.2.ctx = c && l.2.queue = 8 && !l.2.started) }
  kq.foldl (fun st e => st.postRecord c (launchRecord 8 e.slot 0x11 e.lrec.ctag s.cycle 0)) s1

/-- CONTEXT_DISABLE (R54): launches that have not started are discarded, queues are emptied; a capture of the context fails (R359). -/
def execContextDisable (c : BitVec 6) (s : State) : Out :=
  let n := c.toNat
  if !(s.ctx n).en then .next s
  else
    let s1 := (List.range 8).foldl (fun st q => st.discardQueue n q) s
    let s2 := (s1.discardKernelQueue n).modCtx n fun x => { x with en := false }
    .next (if s2.lehr.busy && s2.lehr.ctx = c && s2.lehr.fail = 0 then { s2 with lehr := { s2.lehr with fail := 0x23 } } else s2)

/-- A bump of the context starts (R219). What TLBs and cores still hold under the value that comes round again is not of that generation (R218,
R22): it goes. -/
def State.startBump (s : State) (c : Nat) : State :=
  let new := (s.ctx c).gen + 1
  let stale := fun (e : TlbEntry) => e.ctx = c && e.gen = new
  let cores : Tbl Core := s.cores.map fun k => (k.1, { k.2 with
    tlb := k.2.tlb.filter fun e => !stale e
    code := k.2.code.filter fun x => !(x.ctx = c && x.gen = new) })
  let dies : Tbl Die := s.dies.map fun d => (d.1, { d.2 with tlb := d.2.tlb.filter fun e => !stale e })
  { s with cores := cores, dies := dies }.modCtx c fun x => { x with bump := some { new := new, start := s.nextId } }

/-- The context's generation is bumped; a bump written while one runs begins after it (R219). -/
def State.bumpCtx (s : State) (c : Nat) : State :=
  if (s.ctx c).bump.isSome then s.modCtx c fun x => { x with bumpsPending := x.bumpsPending + 1 } else s.startBump c

/-- GENBUMP (R219). -/
def execGenbump (c : BitVec 6) (s : State) : Out := .next (s.bumpCtx c.toNat)

/-- An access that carries the new value and was issued before the bump, or came from another package, is still in flight (R219). -/
def State.oldTagged (s : State) (c : Nat) (b : Bump) : Bool :=
  (s.net.any fun m => m.2.ctx = c && m.2.gen = b.new && m.1 < b.start && m.2.rejected.isNone) ||
  (s.reqs.any fun q => q.2.ctx = c && q.1 < b.start && q.2.parts.any fun p => p.gen = b.new && !p.settled) ||
  (s.copies.any fun x => x.2.ctx = c && x.2.gen = b.new && x.1 < b.start) ||
  (s.colls.any fun x => x.2.ctx = c && x.2.gen = b.new && x.1 < b.start) ||
  (s.fabricIn.any fun m => match m with
    | .access _ _ c1 gen _ _ => c1.toNat = c && gen = b.new
    | _ => false) ||
  s.streams.any fun x => x.2.ctx = c && x.2.gen = b.new && x.1 < b.start && x.2.started && !x.2.finished

/-- The line homes forget what they hold of a context's regions: records may have been changed (R310), and each home obtains the counter
anew (R312). -/
def State.dropRcls (s : State) (c : Nat) : State := { s with regionCopies := s.regionCopies.filter fun x => x.1 / 4096 ≠ c, rcls := s.rcls.filter fun x => x.1 % 2 ^ 48 / (if x.1 < 2 ^ 48 then 2 ^ 25 else 4096) ≠ c }

/-- GENBUMP_PHASE2 (R219): every core that holds anything has reported; homes and engines adopt the value, and the next bump begins. -/
def execGenbumpPhase2 (c : BitVec 6) (s : State) : Out :=
  let n := c.toNat
  match (s.ctx n).bump with
  | none => .next s
  | some b =>
    if !(s.cores.all fun k => k.2.dead || b.reported.contains k.1) || s.oldTagged n b then .next s
    else
      let s1 := (s.dropRcls n).modCtx n fun x => { x with gen := b.new, bump := none }
      .next (if (s.ctx n).bumpsPending = 0 then s1
        else (s1.modCtx n fun x => { x with bumpsPending := x.bumpsPending - 1 }).startBump n)

/-- TAIL_WRITE (R54, R56). -/
def execTailWrite (c : BitVec 6) (q : BitVec 3) (v : Word) (s : State) : Out :=
  .next (s.modCtx c.toNat fun x =>
    let h := x.queue q.toNat
    if !x.en then x.setQueue q.toNat { h with head := v, tail := v, part := [] }
    else if h.stopped then x
    else if 2 ^ h.log2 < (v - h.head).toNat then { x.setQueue q.toNat { h with stopped := true } with qerr := true }
    else x.setQueue q.toNat { h with tail := v })

/-- The held records are written as far as there is room (R62). -/
def State.writeHeld (s : State) (c : Nat) : State :=
  let x := s.ctx c
  if x.cqerr || x.held.isEmpty || x.cqAsk.isSome then s else s.flushRecords c x.held

/-- CQHEAD_WRITE (R62). -/
def execCqheadWrite (c : BitVec 6) (v : Word) (s : State) : Out :=
  .next ((s.modCtx c.toNat fun x => { x with cqhead := v }).writeHeld c.toNat)

/-- CQERR_CLEAR (R62). -/
def execCqerrClear (c : BitVec 6) (s : State) : Out :=
  .next ((s.modCtx c.toNat fun x => { x with cqerr := false }).writeHeld c.toNat)

/-- EVSET_WRITE (R58). -/
def execEvsetWrite (c : BitVec 6) (v : BitVec 256) (s : State) : Out := .next (s.modCtx c.toNat fun x => { x with ev := x.ev ||| v })

/-- EVCLR_WRITE (R58). -/
def execEvclrWrite (c : BitVec 6) (v : BitVec 256) (s : State) : Out := .next (s.modCtx c.toNat fun x => { x with ev := x.ev &&& ~~~v })

/-! ## Registers (R13, R39 to R47, R53, R356, R414) -/

/-- A field of a context that is fixed while EN = 1 or ACTIVE = 1 (R54). -/
def State.ctxField (s : State) (c : Nat) (f : Context → Context) : State :=
  if (s.ctx c).en || s.ctxActive c then s else s.modCtx c f

/-- A field of the snapshot capability: ignored while BUSY = 1 (R356). -/
def State.snapField (s : State) (f : Lehr → Lehr) : State := if s.lehr.busy then s else { s with lehr := f s.lehr }

/-- A configuration field of the recovery capability: ignored while EN = 1 (R414). -/
def State.recField (s : State) (f : Cullet → Cullet) : State := if s.cullet.en then s else { s with cullet := f s.cullet }

/-- Bits [51:0]. -/
def low52 (v : DWord) : BitVec 52 := v.setWidth 52

/-- 64-bit word `w` of a 256-bit value replaced. -/
def setWord256 (x : BitVec 256) (w : Nat) (v : DWord) : BitVec 256 :=
  (x &&& ~~~((0xFFFFFFFFFFFFFFFF : BitVec 256) <<< (64 * w))) ||| (v.setWidth 256 <<< (64 * w))

/-- 64-bit word `w` of a 128-bit value replaced. -/
def setWord128 (x : BitVec 128) (w : Nat) (v : DWord) : BitVec 128 :=
  (x &&& ~~~((0xFFFFFFFFFFFFFFFF : BitVec 128) <<< (64 * w))) ||| (v.setWidth 128 <<< (64 * w))

/-- An interrupt entry changed. -/
def State.intField (s : State) (k : Nat) (f : IntEntry → IntEntry) : State :=
  if 5 < k then s else { s with ints := aset s.ints k (f ((aget s.ints k).getD {})) }

/-- REGISTER_WRITE (R13): a host write of `v`, by the access code of the register. -/
def execRegisterWrite (r : HostReg) (v : DWord) (s : State) : Out :=
  .next (match r with
    | .halt c => s.modCtx c.toNat fun x => { x with halt := v.getLsbD 2 }
    | .qerr c => if v.getLsbD 3 then s.modCtx c.toNat fun x => { x with qerr := false } else s
    | .ptroot c => s.ctxField c.toNat fun x => { x with ptroot := v }
    | .qbase c q => s.ctxField c.toNat fun x => x.setQueue q.toNat { x.queue q.toNat with base := v &&& ~~~0x7F }
    | .qlog2 c q =>
      let n := dbits v 4 0
      if n < 1 || 16 < n then s else s.ctxField c.toNat fun x => x.setQueue q.toNat { x.queue q.toNat with log2 := n }
    | .cqbase c => s.ctxField c.toNat fun x => { x with cqbase := v &&& ~~~0x1F }
    | .cqlog2 c =>
      let n := dbits v 4 0
      if n < 2 || 20 < n then s else s.ctxField c.toNat fun x => { x with cqlog2 := n }
    | .cqvec c => s.modCtx c.toNat fun x => { x with cqvec := v.setWidth 9 }
    | .cqie c => s.modCtx c.toNat fun x => { x with cqie := v.getLsbD 9 }
    | .reqLo => if s.mbox.busy then s else { s with mbox := { s.mbox with req := setWord128 s.mbox.req 0 v } }
    | .reqHi => if s.mbox.busy then s else { s with mbox := { s.mbox with req := setWord128 s.mbox.req 1 v } }
    | .go => if s.mbox.busy || !v.getLsbD 0 then s else { s with mbox := { s.mbox with busy := true, result := none } }
    | .mboxDone => if v.getLsbD 2 then { s with mbox := { s.mbox with done := false } } else s
    | .intVec k => s.intField k.toNat fun e => { e with vec := v.setWidth 9 }
    | .intEn k => s.intField k.toNat fun e => { e with en := v.getLsbD 9 }
    | .intPend k => if v.getLsbD 10 then s.intField k.toNat fun e => { e with pend := false } else s
    | .snapCtx => s.snapField fun x => { x with ctx := v.setWidth 6 }
    | .liveBase => s.snapField fun x => { x with liveBase := low52 v }
    | .liveLen => s.snapField fun x => { x with liveLen := low52 v }
    | .slot0 => s.snapField fun x => { x with slot0 := low52 v }
    | .slot1 => s.snapField fun x => { x with slot1 := low52 v }
    | .sstep => s.snapField fun x => { x with sstep := v }
    | .snapGroup w => s.snapField fun x => { x with group := setWord256 x.group w.toNat v }
    | .snapTag => s.snapField fun x => { x with snapTag := v }
    | .member => s.recField fun x => { x with member := v.setWidth 4 }
    | .recEn => { s with cullet := { s.cullet with en := v.getLsbD 4 } }
    | .memPkg w => s.recField fun x => { x with mempkg := setWord128 x.mempkg w.toNat v }
    | .frag0 => s.recField fun x => { x with frag0 := low52 v }
    | .frag1 => s.recField fun x => { x with frag1 := low52 v }
    | .lost => { s with cullet := { s.cullet with lost := v.setWidth 4 } }
    | .adopter => { s with cullet := { s.cullet with adopter := (v >>> 4).setWidth 4 } }
    | .adoptBase => { s with cullet := { s.cullet with adoptBase := low52 v } }
    | .readOnly _ => s)

/-- HWIN_WRITE (R42): bits [35:0] read zero and ignore writes. -/
def execHwinWrite (v : DWord) (s : State) : Out := .next { s with hport := { s.hport with hwin := v &&& ~~~0xFFFFFFFFF } }

/-! ## Host accesses (R42, R47, R50, R230, R347, R400) -/

/-- What the host gets for a rejected request: Completer Abort for a read, nothing for a write (R42, R50). -/
def State.hostAbort (s : State) (rw : HostRw) : State :=
  match rw with
  | .read _ => { s with hostOut := s.hostOut ++ [.completerAbort] }
  | .write _ => s

/-- A host read at its home; poisoned data is marked (R400). -/
def State.hostRead (s : State) (pa n : Nat) : State :=
  let r := s.readHome pa n
  { r.2 with hostOut := r.2.hostOut ++ [.data r.1 (s.poisonIn pa n)] }

/-- How many bytes a request names. -/
def rwLen : HostRw → Nat
  | .read n => n
  | .write bs => bs.length

/-- Some home of [pa, pa + n) cannot serve yet (R406, R418): the request waits, and its step does nothing. -/
def State.rangeBusy (s : State) (pa n : Nat) : Bool := (List.range n).any fun i => s.homeBusy (pa + i)

/-- HOST_BAR2_REQUEST (R35, R42, R50). -/
def execHostBar2Request (off : BitVec 36) (rw : HostRw) (s : State) : Out :=
  let pa := s.hport.hwin.toNat + off.toNat
  if s.hbmSize < pa + rwLen rw then .next (s.hostAbort rw)
  else if !s.worldOk s.hport.secure pa then .next (s.countWorldFault.hostAbort rw)
  else if s.rangeBusy pa (rwLen rw) then .next s
  else match rw with
    | .read n => .next (s.hostRead pa n)
    | .write bs => .next (s.homeWrite pa (bs.map some) s.stepTag false).2

/-- HOST_CXL_MEM_REQUEST (R47, R347): a write completes once its images have been accepted. -/
def execHostCxlMemRequest (x : Nat) (rw : HostRw) (s : State) : Out :=
  let pa := tierBase + x
  if !s.hport.cxlMem || tierEnd - s.rsvSize < pa + rwLen rw then .next (s.hostAbort rw)
  else if !s.worldOk s.hport.secure pa then .next (s.countWorldFault.hostAbort rw)
  else if s.rangeBusy pa (rwLen rw) then .next s
  else match rw with
    | .read n => .next (s.hostRead pa n)
    | .write bs =>
      let r := s.homeWrite pa (bs.map some) s.stepTag true
      .next { r.2 with hport := { r.2.hport with cxlWait := r.2.hport.cxlWait ++ [r.1] } }

/-- HOST_CXL_CACHE_SNOOP (R230): a snoop returns the line as its home holds it; a host write replaces it there before it completes. -/
def execHostCxlCacheSnoop (pa : Nat) (bytes : Option (List Byte)) (s : State) : Out :=
  if !s.hport.cxlCache || pa < hostBase || hostEnd ≤ pa then .next s
  else match bytes with
    | none => .next (s.hostRead (pa / 64 * 64) 64)
    | some bs => .next (s.homeWrite pa (bs.map some) s.stepTag false).2

/-- HOST_LINK_TRAINING (R34, R42): a width and rate of the standard; 64 GT/s only in flit mode. -/
def execHostLinkTraining (width rate : Nat) (flit cxlIo cxlCache cxlMem ide : Bool) (s : State) : Out :=
  if !([1, 2, 4, 8, 16].contains width) || rate < 1 || 6 < rate || (rate = 6 && !flit) then .next s
  else .next { s with hport := { s.hport with
    width := width, rate := rate, flit := flit, cxlIo := cxlIo, cxlCache := cxlCache, cxlMem := cxlMem, ide := ide } }

/-! ## Global Persistent Flush (R34, R47, R362) -/

/-- Every dirty granule of the tier in L2 and L3 is written back (R362). -/
def State.flushTier (s : State) (f : Nat → Bool) : List Nat × State :=
  let gs := s.l2tierDirty.filter f
  { s with l2tierDirty := s.l2tierDirty.filter fun g => !f g }.sendImages gs

/-- GLOBAL_PERSISTENT_FLUSH (R362). -/
def execGlobalPersistentFlush (s : State) : Out :=
  if !s.hport.cxlMem || s.hport.gpfBusy then .next s
  else
    let r := s.flushTier fun _ => true
    .next { r.2 with hport := { r.2.hport with gpfBusy := true, gpfWait := r.1 } }

/-- GPF_COMPLETE (R47, R362): every image of the flush has been accepted. -/
def execGpfComplete (s : State) : Out :=
  if !s.hport.gpfBusy || !s.hport.gpfWait.isEmpty then .next s
  else .next { s with hport := { s.hport with gpfBusy := false, gpfOk := true, gpfCount := satSucc s.hport.gpfCount } }

/-! ## Steps of the normalisation box (R356) -/

/-- No team is resident and no `xnorm` is outstanding (R356). -/
def State.stepsIdle (s : State) : Bool :=
  (s.teams.all fun t => t.2.retired || t.2.frame.isSome) && (s.colls.all fun c => c.2.kind ≠ .xnorm) && s.cmds.all fun c => c.2.kind ≠ .xnorm

/-- STEPLOAD (R356). -/
def execStepload (x : DWord) (s : State) : Out := .next (if s.stepsIdle then { s with normbox := { s.normbox with step := x } } else s)

/-- OPTLOAD (R356). -/
def execOptload (x : DWord) (s : State) : Out :=
  .next (if s.stepsIdle then { s with normbox := { s.normbox with optstep := x } } else s)

end Sys2Proof.Machine
end

