-- ==== Sys2Proof/Machine/EGaffer.lean ====
section
/-!
DEFINITION. The gaffer: the mailbox requests (R44, R45, R49, R51, R52), park actions (R371 to R373), power failure and package reset
(R2, R349).
-/
namespace Sys2Proof.Machine

/-! ## Retirement tables (R402) -/

/-- Leaves of the package key (R52, R402). -/
def keyLeaves : Nat := 1048576

/-- The copy that the next table is written into (R402): while leaves are left, the one with the lower CFGGEN; later, the one that does not
hold the newest signed table. -/
def Tables.target (t : Tables) (signed : Bool) : Bool :=
  if signed then decide (t.b.gen.toNat < t.a.gen.toNat)
  else t.a.signed && (!t.b.signed || decide (t.b.gen.toNat ≤ t.a.gen.toNat))

/-- The tables with copy B, or A, replaced. -/
def Tables.put (t : Tables) (b : Bool) (c : TableCopy) : Tables := if b then { t with b := c } else { t with a := c }

/-- The copy in use. -/
def Tables.current (t : Tables) : TableCopy := if t.useB then t.b else t.a

/-- A copy's bytes (log 5). -/
def TableCopy.bytes (c : TableCopy) : List Byte := Config.tableBytes c.gen c.signed c.entries

/-- The copy verifies (R402): it was written whole and is signed. -/
def TableCopy.verifies (c : TableCopy) : Bool := c.whole && c.signed

/-- An unsigned copy may be used beside the signed copy `sgn` (R402): it holds every entry of it. -/
def TableCopy.extends (c sgn : TableCopy) : Bool := c.whole && !c.signed && sgn.verifies && sgn.entries.all c.entries.contains

/-- Copy B is the one that the gaffer uses at boot (R402). -/
def Tables.bootB (t : Tables) : Bool :=
  if t.b.extends t.a then true
  else if t.a.extends t.b then false
  else if t.a.verifies && t.b.verifies then decide (t.a.gen.toNat < t.b.gen.toNat)
  else t.b.verifies

/-- The tables after package reset (R402): a copy that was being written stays as it is. -/
def Tables.boot (t : Tables) : Tables := { t with useB := t.bootB, writing := none }

/-! ## Requests (R44) -/

/-- Bits `hi` to `lo` of REQ. -/
def reqBits (r : BitVec 128) (hi lo : Nat) : Nat := bitsOf r.toNat hi lo

/-- The mailbox processes a request of code `k` whose result is not formed yet. -/
def State.processing (s : State) (k : Nat) : Bool := s.mbox.busy && s.mbox.result.isNone && reqBits s.mbox.req 7 0 = k

/-- The gaffer has formed STATUS, WAITS and RESP. -/
def State.respond (s : State) (status : BitVec 8) (waits : Word) (resp : DWord) : State :=
  { s with mbox := { s.mbox with result := some (status, waits, resp) } }

/-- The security version of the running image. -/
def Mailbox.running (m : Mailbox) : Word :=
  match m.firmware with
  | f :: _ => Config.imageVersion f
  | [] => m.secver

/-- The buffer that REQ[63:24] names. -/
def reqBuffer (r : BitVec 128) : Nat := reqBits r 63 24 * 4096

/-- Some byte of [pa, pa + n) lies in a secure window. -/
def State.inSecure (s : State) (pa n : Nat) : Bool :=
  (List.range 64).any fun w => match aget s.windows (64 * baseDie pa + w) with
    | some x => x.en && x.sec && x.base.toNat * 65536 < pa + n && pa < x.limit.toNat * 65536
    | none => false

/-- A non-secure host port may not name [pa, pa + n) (R44 status 0x06): checked granule by granule of 2 MiB. -/
def State.bufferBarred (s : State) (pa n : Nat) : Bool :=
  !s.hport.secure && (List.range (n / 2097152 + 2)).any fun i =>
    let lo := max pa ((pa / 2097152 + i) * 2097152)
    let hi := min (pa + n) ((pa / 2097152 + i + 1) * 2097152)
    lo < hi && s.inSecure lo (hi - lo)

/-- LOAD_FIRMWARE (R45 request 0x01, R51). An image that is accepted becomes the one running stage; none runs as a stage at reset (log 85). -/
def execLoadFirmware (s : State) : Out :=
  if !s.processing 1 then .next s
  else
    let r := s.mbox.req
    let n := reqBits r 95 64
    let old := s.mbox.running.setWidth 64
    if reqBits r 23 8 ≠ 0 || reqBits r 127 96 ≠ 0 then .next (s.respond 0x01 0 old)
    else if s.hbmSize < reqBuffer r + n then .next (s.respond 0x07 0 old)
    else if s.bufferBarred (reqBuffer r) n || !Config.policyAllows r then .next (s.respond 0x06 0 old)
    else match s.homeRead (reqBuffer r) n with
      | none => .next (s.respond 0x02 0 old)
      | some img =>
        let v := Config.imageVersion img
        if Config.xmssVerify img && s.mbox.secver.toNat ≤ v.toNat then
          .next ({ s with mbox := { s.mbox with secver := v, firmware := [img] } }.respond 0x00 0 (v.setWidth 64))
        else .next (s.respond 0x02 0 old)

/-- Cycles of the arithmetic clock in a second (R2). -/
def cyclesPerSecond : Nat := 1700000000

/-- A window descriptor (R43). -/
def Window.bytes (w : Window) : List Byte :=
  leBytes 8 (w.en.toNat + w.sec.toNat * 2 + w.base.toNat * 2 ^ 8) ++ leBytes 8 w.limit.toNat

/-- The window descriptors of all four base dies. -/
def State.windowBytes (s : State) : List Byte :=
  (List.range 256).flatMap fun i => ((aget s.windows i).getD {}).bytes

/-- The first part of a report, which its signature covers (R45). -/
def State.reportHead (s : State) (nonce : List Byte) : List Byte :=
  let stages := s.mbox.firmware.take 8
  nonce ++ leBytes 8 s.mbox.leaf.toNat ++ leBytes 8 stages.length ++ stages.flatMap Config.shake256 ++
    Config.shake256 s.tables.current.bytes ++ Config.shake256 s.windowBytes

/-- ATTEST (R45 request 0x02, R52): with the leaves exhausted 0x04 comes first; the order of the other statuses, and a report over a nonce that
reads as poison, are the model's choice (log 84). -/
def execAttest (s : State) : Out :=
  if !s.processing 2 then .next s
  else
    let r := s.mbox.req
    let pa := reqBuffer r
    let early := match s.mbox.lastReport with
      | some t => if s.cycle < t + 128 * cyclesPerSecond then t + 128 * cyclesPerSecond - s.cycle else 0
      | none => 0
    if 986176 ≤ s.mbox.leaf.toNat then .next (s.respond 0x04 0 0)
    else if reqBits r 23 8 ≠ 0 || reqBits r 127 64 ≠ 0 then .next (s.respond 0x01 0 0)
    else if s.hbmSize < pa + 16384 then .next (s.respond 0x07 0 0)
    else if early ≠ 0 then .next (s.respond 0x03 (w32 ((early + cyclesPerSecond - 1) / cyclesPerSecond)) 0)
    else
      let h := s.reportHead (cellsRead s.mem pa 32)
      let sig := Config.xmssSign s.mbox.leaf.toNat h
      let report := h ++ (List.range 2820).map fun i => sig.getD i 0
      let s1 := (s.homeWrite pa (report.map some) s.stepTag false).2
      .next ({ s1 with mbox := { s1.mbox with leaf := s1.mbox.leaf + 1, lastReport := some s.cycle } }.respond 0x00 0 (dw report.length))

/-- SET_CONTEXT_WORLD (R45 request 0x03). -/
def execSetContextWorld (s : State) : Out :=
  if !s.processing 3 then .next s
  else
    let r := s.mbox.req
    let c := reqBits r 13 8
    if reqBits r 15 14 ≠ 0 || reqBits r 127 17 ≠ 0 then .next (s.respond 0x01 0 0)
    else if (s.ctx c).en || s.ctxActive c || !Config.policyAllows r then .next (s.respond 0x06 0 0)
    else .next ((s.modCtx c fun x => { x with secure := reqBits r 16 16 = 1 }).respond 0x00 0 0)

/-- The window overlaps another enabled window of its base die (R49). -/
def State.windowOverlaps (s : State) (b w : Nat) (x : Window) : Bool :=
  (List.range 64).any fun i => i ≠ w && (match aget s.windows (64 * b + i) with
    | some y => y.en && x.base.toNat < y.limit.toNat && y.base.toNat < x.limit.toNat
    | none => false)

/-- SET_WINDOW (R45 request 0x04, R49, R50). -/
def execSetWindow (s : State) : Out :=
  if !s.processing 4 then .next s
  else
    let r := s.mbox.req
    let b := reqBits r 9 8
    let w := reqBits r 21 16
    let x : Window := {
      en := reqBits r 22 22 = 1, sec := reqBits r 23 23 = 1
      base := BitVec.ofNat 36 (reqBits r 59 24), limit := BitVec.ofNat 36 (reqBits r 99 64) }
    if reqBits r 15 10 ≠ 0 || reqBits r 63 60 ≠ 0 || reqBits r 127 100 ≠ 0 then .next (s.respond 0x01 0 0)
    else if (x.en && (x.limit.toNat ≤ x.base.toNat || s.windowOverlaps b w x)) || !Config.policyAllows r then .next (s.respond 0x06 0 0)
    else .next ({ s with windows := aset s.windows (64 * b + w) x }.respond 0x00 0 0)

/-- MAILBOX_REQUEST_END (R44): an unknown code has status 0x01; STATUS, WAITS and RESP are written, DONE is set, source 4 signals. -/
def execMailboxRequestEnd (s : State) : Out :=
  if !s.mbox.busy then .next s
  else
    let known := [1, 2, 3, 4, 0x10].contains (reqBits s.mbox.req 7 0)
    let fin := fun (x : BitVec 8 × Word × DWord) =>
      ({ s with mbox := { s.mbox with status := x.1, waits := x.2.1, resp := x.2.2, busy := false, done := true, result := none } }).signal 4
    match s.mbox.result, known with
    | some x, _ => .next (fin x)
    | none, false => .next (fin (0x01, 0, 0))
    | none, true => .next s

/-! ## Park actions (R371, R372) -/

/-- The parked group that a request names. -/
def State.parkedAt (s : State) (r : BitVec 128) : Option (Who × Park) :=
  s.groups.findSome? fun x => match s.who x.1, x.2.park with
    | some w, some p =>
      if w.ctx = reqBits r 13 8 && w.core.die = reqBits r 19 16 && w.team.col = reqBits r 23 20 && w.team.row = reqBits r 27 24 &&
          x.2.slot = reqBits r 33 28 && w.team.frame.isNone then some (w, p) else none
    | _, _ => none

/-- Only KILL applies (R372): an unrecovered strike, a register or predicate error. -/
def Park.killOnly (p : Park) : Bool := p.cause.code = 0x0D || (p.cause.code = 0x09 && p.cause.sub = 6)

/-- The wait of a barrier or a round was counted out. -/
def Park.hang (p : Park) : Bool := p.cause.code = 0x0A || p.cause.code = 0x0B

/-- CONTINUE is allowed. -/
def Park.mayContinue (p : Park) : Bool := !p.killOnly && !p.hang && (p.system || p.precise)

/-- DELIVER is allowed. -/
def Park.mayDeliver (p : Park) (w : Who) : Bool :=
  !p.killOnly && !p.nest && w.lrec.trapvec ≠ 0xFFFFFFFF && (p.system || !w.g.sExited)

/-- A park action of the mailbox's request, when it is `act` and stands there: refused, or taken by `f`. -/
def State.parkAction (s : State) (act : Nat) (ok : Who → Park → Bool) (f : State → Who → Park → State) : State :=
  let r := s.mbox.req
  if !s.processing 0x10 || reqBits r 15 14 ≠ act then s
  else if reqBits r 127 34 ≠ 0 then s.respond 0x06 0 0
  else match s.parkedAt r with
    | none => s.respond 0x05 0 0
    | some (w, p) => if ok w p then (f s w p).respond 0x00 0 0 else s.respond 0x06 0 0

/-- The group is parked no more; its block resumes unless the group stands in its handler (R366, R369). -/
def Group.unpark (g : Group) (nest : Bool) : Group :=
  { (if nest then g else g.resumeBlock) with park := none, waits := [] }

/-- The counts of the group's collective commands start again (R335, R372). -/
def State.afreshColls (s : State) (gid : Nat) : State :=
  { s with colls := s.colls.map fun (c : Nat × Coll) => if c.2.gid = gid then (c.1, { c.2 with since := s.cycle }) else c }

/-- RETRY (R372): the faulted instruction is reissued, its rejected accesses with it, or its wait starts afresh. -/
def execRetry (s : State) : Out :=
  .next (s.parkAction 0 (fun _ p => !p.killOnly) fun st w p =>
    ((st.setGroup w.gid (w.g.unpark p.nest)).afreshColls w.gid).reissueAll w.gid fun _ => true)

/-- The rejected accesses of one instruction are given up (R144, R237, R372). -/
def State.dropOf (s : State) (gid : Nat) (c : Cause) : State :=
  let mine := s.net.filter fun m => m.2.gid = gid && m.2.rejected.isSome && m.2.pc = c.pc && m.2.lpc = c.lpc
  let ids := mine.map (·.1)
  { s with
    net := s.net.filter fun m => !ids.contains m.1
    groups := amod s.groups gid fun g => { g with rejected := g.rejected.filter fun i => !ids.contains i }
    reqs := s.reqs.filter fun q => !(q.2.gid = gid && q.2.faulted && q.2.pc = c.pc && q.2.lpc = c.lpc)
    copies := s.copies.filter fun x => !(x.2.gid = gid && x.2.reject.isSome && x.2.pc = c.pc && x.2.lpc = c.lpc) }

/-- A lane instruction that a fault stopped is left, its not-done lanes unperformed (R372). -/
def State.skipGang (s : State) (gid : Nat) (c : Cause) : State :=
  match s.who gid with
  | none => s
  | some w =>
    match w.g.gangs.find? fun x => x.stuck && x.pc = c.lpc with
    | none => s
    | some x =>
      match s.laneNext (w.gangAt x.pc x.depth) w.g with
      | .next t => t
      | _ => s

/-- CONTINUE (R372): the group goes on after the faulted instruction. -/
def State.continueGroup (s : State) (w : Who) (p : Park) : State :=
  let c := p.cause
  let s1 := s.dropOf w.gid c
  let s2 := if c.lane then (s1.skipGang w.gid c).modGroup w.gid fun g => { g with trap := { g.trap with donemask := 0 } } else s1
  s2.modGroup w.gid fun g =>
    let g1 := g.unpark p.nest
    if p.precise then { g1 with spc := c.pc + 4, hold := none } else g1

/-- CONTINUE (R372). -/
def execContinue (s : State) : Out := .next (s.parkAction 1 (fun _ p => p.mayContinue) State.continueGroup)

/-- KILL (R373). -/
def execKill (s : State) : Out := .next (s.parkAction 2 (fun _ _ => true) fun st w _ => st.killGroup w.gid)

/-- DELIVER (R366, R372): the fault goes to the handler as a program trap; a group that has performed its S `exit` has no stream to enter
the handler, and parks again (R366). -/
def State.deliverGroup (s : State) (w : Who) (p : Park) : State :=
  let g := { w.g with park := none }
  if g.sExited then
    (s.setGroup w.gid (g.parkBy p.cause p.precise w.g.trap.rp)).postRecord w.ctx (faultRecord w p.cause s.cycle)
  else
    s.setGroup w.gid { g.deliver w.lrec p.cause w.g.trap.rp with
      kept := g.hold.filter fun _ => p.cause.code = 0x0B && p.precise }

/-- DELIVER (R372). -/
def execDeliver (s : State) : Out := .next (s.parkAction 3 (fun w p => p.mayDeliver w) State.deliverGroup)

/-! ## Power (R2, R349) -/

/-- An image drained into the modules (R349). -/
def drainImage (s : State) (x : Image) : State :=
  let words := (List.range 2).map fun i => 2 * x.granule + i
  { s with
    modules := cellsWrite s.modules (64 * x.granule) (x.bytes.map some)
    moduleEcc := (s.moduleEcc.filter fun k => !words.contains k) ++
      (List.range 2).filterMap fun i => if x.psn.getD i false then some (2 * x.granule + i) else none
    moduleTags := tagAfter s.moduleTags x.tag (x.granule / 4) }

/-- POWER_FAILURE (R349): every WBQ stops accepting and drains. -/
def execPowerFailure (s : State) : Out :=
  if !s.powered then .next s
  else .next { s.wbq.foldl drainImage s with wbq := [], images := [], powered := false, agenda := s.agenda }

/-- PACKAGE_RESET (R2, R349, R402): power returns. The tier holds what the modules hold; the retirement tables, the security version and the
leaves are persistent; every other register has its reset value. Retired parts that the copy in use does not name are found dead again (R402, log 64). -/
def execPackageReset (s : State) : Out :=
  if s.powered then .next s
  else .next { State.reset with
    agenda := s.agenda
    cur := s.cur
    fresh := s.fresh
    nextId := s.nextId
    mem := s.modules
    modules := s.modules
    moduleEcc := s.moduleEcc
    moduleTags := s.moduleTags
    tags := s.moduleTags
    ecc := s.moduleEcc.map fun k => (k, .poisoned)
    dies := s.dies.map fun d => (d.1, { d.2 with wsOrigin := 0, wsEpoch := 0, wsBank := 0, wsBusy := true, tlb := [] })
    cores := s.cores.filterMap fun k => if k.2.dead then some (k.1, { dead := true }) else none
    hbmSize := s.hbmSize
    rsvSize := s.rsvSize
    cfggen := s.tables.boot.current.gen
    cfgPending := s.tables.entries.length - s.tables.boot.current.entries.length
    pcdead := s.pcdead
    tables := s.tables.boot
    ports := s.ports.map fun p => (p.1, { failed := p.2.failed })
    self := s.self
    domain := s.domain
    lostPkgs := s.lostPkgs
    lost := s.lost
    mbox := { secver := s.mbox.secver, leaf := s.mbox.leaf, tableLeaf := s.mbox.tableLeaf, lastReport := s.mbox.lastReport.map fun _ => 0
              firmware := s.mbox.firmware } }

end Sys2Proof.Machine
end

