-- ==== Sys2Proof/Machine/EPersist.lean ====
section
/-!
DEFINITION. The persistence tier: acceptance by the write-back queues (R348, R349, R352), and the lehr's capture of a step (R356 to
R360, R416).
-/
namespace Sys2Proof.Machine

/-! ## Acceptance (R348) -/

/-- An image that a copy element waits for has been accepted. -/
def Copy.accepted (c : Copy) (id : Nat) : Copy :=
  { c with elems := c.elems.map fun x => match x.2 with
      | .awaiting ids p => (x.1, .awaiting (ids.filter (· ≠ id)) p)
      | .halfWritten u bs ids => (x.1, .halfWritten u bs (ids.filter (· ≠ id)))
      | _ => x }

/-- Everything that waits for image `id` learns that it is settled: copies, writes of other packages, CXL.mem writes, the flush, the lehr, the
cullet. -/
def State.settleImage (s : State) (id : Nat) : State :=
  let gone := fun (l : List Nat) => l.filter (· ≠ id)
  let acks := s.remoteAcks.map fun x => (x.1, x.2.1, gone x.2.2)
  let cxl := s.hport.cxlWait.map gone
  { s with
    copies := s.copies.map fun x => (x.1, x.2.accepted id)
    remoteAcks := acks.filter fun x => !x.2.2.isEmpty
    fabricOut := if s.lost then s.fabricOut else s.fabricOut ++ (acks.filter fun x => x.2.2.isEmpty).map fun x => (x.2.1, .answer (x.1 / 256) .done)
    hostOut := s.hostOut ++ (cxl.filter fun x => x.isEmpty).map fun _ => .writeDone
    hport := { s.hport with gpfWait := gone s.hport.gpfWait, cxlWait := cxl.filter fun x => !x.isEmpty }
    lehr := { s.lehr with hdr0 := gone s.lehr.hdr0, hdrWait := gone s.lehr.hdrWait, drainWait := gone s.lehr.drainWait }
    cullet := { s.cullet with wait := gone s.cullet.wait } }

/-- The base die that serves a granule. -/
def granuleDie (g : Nat) : Nat := baseDie (64 * g)

/-- A full WBQ has drained its oldest entry into the modules. -/
def State.makeRoom (s : State) (d : Nat) : State :=
  if (s.wbq.filter fun x => granuleDie x.granule = d).length < Config.wbqGranules then s
  else match s.wbq.find? fun x => granuleDie x.granule = d with
    | some x => { drainImage s x with wbq := s.wbq.erase x }
    | none => s

/-- An earlier image of the same home slice has not been accepted (R348), or the slot's cleared header has not (R358 step 2). -/
def State.imageBehind (s : State) (x : Image) : Bool :=
  (s.images.any fun y => y.id < x.id && s.homeDie (64 * y.granule) = s.homeDie (64 * x.granule) &&
    s.homeSlice (64 * y.granule) = s.homeSlice (64 * x.granule)) ||
  (s.lehr.hdrWait.contains x.id && !s.lehr.hdr0.isEmpty)

/-- WBQ_ACCEPT (R348): the oldest image of the granule enters the WBQ of its base die and is durable. -/
def execWbqAccept (granule : Nat) (s : State) : Out :=
  match s.images.find? fun x => x.granule = granule with
  | none => .next s
  | some x =>
    if s.imageBehind x then .next s
    else
      let s1 := s.makeRoom (granuleDie granule)
      .next ({ s1 with wbq := s1.wbq ++ [x], images := s1.images.erase x }.settleImage x.id)

/-! ## The lehr -/

/-- The step being captured, as a tag. -/
def State.snapTagOf (s : State) : BitVec 16 := s.lehr.sstep.setWidth 16

/-- Two ranges share an address. -/
def rangesMeet (a n b m : Nat) : Bool := a < b + m && b < a + n

/-- A range lies in the tier outside its reserved area. -/
def State.inTier (s : State) (a n : Nat) : Bool := tierBase ≤ a && a + n ≤ tierEnd - s.rsvSize

/-- The configuration is valid (R356, R358 step 1). -/
def State.snapValid (s : State) : Bool :=
  let l := s.lehr
  let n := l.liveLen.toNat
  let m := n + 256
  let al := fun (x : Nat) => x % 2097152 = 0
  n ≠ 0 && al n && al l.liveBase.toNat && al l.slot0.toNat && al l.slot1.toNat &&
    !rangesMeet l.liveBase.toNat n l.slot0.toNat m && !rangesMeet l.liveBase.toNat n l.slot1.toNat m &&
    !rangesMeet l.slot0.toNat m l.slot1.toNat m &&
    s.inTier l.liveBase.toNat n && s.inTier l.slot0.toNat m && s.inTier l.slot1.toNat m

/-- The fields of a capture that begins. -/
def Lehr.begin_ (l : Lehr) (fail : BitVec 8) : Lehr :=
  { l with busy := true, stage := 1, hdr0 := [], hdrWait := [], cstep := 0, coptstep := 0, committed := false, copied := [], early := []
           drainWait := [], drainStarted := false, drainSent := false, drained := [], fail := fail }

/-- ARM (R356, R358 step 1): ignored while BUSY = 1. -/
def execArm (s : State) : Out :=
  if s.lehr.busy then .next s
  else
    let fail : BitVec 8 := if !s.snapValid then 0x20 else if s.lehr.sstep.toNat < s.normbox.step.toNat then 0x21 else 0
    .next { s with lehr := s.lehr.begin_ fail }

/-- PROT of area `k`: its step, when valid (R414). -/
def Cullet.prot (c : Cullet) (k : Nat) : Option Nat :=
  let p := if k = 0 then c.prot0 else c.prot1
  if p.getLsbD 63 then some (dbits p 62 0) else none

/-- The lehr waits for the cullet before it touches slot k (R416). -/
def State.protBlocks (s : State) : Bool :=
  let k := s.lehr.sstep.toNat % 2
  match s.cullet.prot k, s.cullet.prot (1 - k) with
  | none, _ => false
  | some p, some q => q ≤ p
  | some _, none => true

/-- Step 3 of R358, at a commit that makes STEP = s + 1: CSTEP and COPTSTEP; copy on write begins. -/
def State.lehrCommit (s : State) : State :=
  let l := s.lehr
  if l.busy && l.fail = 0 && !l.committed && s.normbox.step = l.sstep + 1 then
    { s with lehr := { l with
      committed := true, cstep := s.normbox.step, coptstep := s.normbox.optstep, stage := if l.stage = 2 then 4 else l.stage } }
  else s

/-- Lines of the range. -/
def State.snapLines (s : State) : Nat := s.lehr.liveLen.toNat / 256

/-- The line belongs to the range. -/
def State.inRange (s : State) (ln : Nat) : Bool :=
  s.lehr.liveBase.toNat ≤ 256 * ln && 256 * ln < s.lehr.liveBase.toNat + s.lehr.liveLen.toNat

/-- The sweep copies a line and raises its tag (R360). -/
def State.sweepLine (s : State) (ln : Nat) : State :=
  let s1 := s.copyLine ln
  let t := s.snapTagOf
  { s1 with tags := if newerTag ((aget s1.tags ln).getD 0) t then s1.tags else aset s1.tags ln t }

/-- A header write of the lehr, as a `.ppkg` write (R357, R358): the images that it has sent. -/
def State.writeHeader (s : State) (bytes : List Byte) : List Nat × State :=
  if s.lehrMay s.slotBase then s.homeWrite s.slotBase (bytes.map some) s.stepTag true else ([], s.countWorldFault)

/-- Step 2 of R358: the slot's header is sent with VALID = 0, and after it the lines that have been copied already (R360). -/
def State.clearHeader (s : State) (stage : Nat) : State :=
  let r := s.writeHeader (List.replicate 8 0)
  r.2.lehr.early.foldl State.slotPut { r.2 with lehr := { r.2.lehr with stage := stage, hdr0 := r.1, early := [] } }

/-- LEHR_CAPTURE_START (R358 steps 2 to 4, R360): the slot's header is cleared, also for a capture that has failed since it was armed (R359); then
the line `line` is swept. -/
def execLehrCaptureStart (line : Nat) (s : State) : Out :=
  let l := s.lehr
  if !l.busy || l.fail = 0x20 || l.fail = 0x21 then .next s
  else if l.stage = 1 then (if s.protBlocks then .next s else .next (s.clearHeader (if l.committed then 4 else 2)))
  else if l.fail = 0 && l.stage = 4 && s.inRange line && !l.copied.contains line then .next (s.sweepLine line)
  else .next s

/-- A tag not newer than the step being captured. -/
def State.oldTag (s : State) (t : BitVec 16) : Bool := !newerTag t s.snapTagOf

/-- A message of a write to the tier with such a tag, not yet accepted or rejected. -/
def State.oldMsg (s : State) (m : Msg) : Bool :=
  m.place.persist ≠ 0 && s.oldTag m.tag && (m.rejected.isNone || m.rejected = some 0x07)

/-- A quarantined `cpl.st` of such a tag. -/
def Effect.oldCopy (e : Effect) (old : BitVec 16 → Bool) : Bool := match e with
  | .perLaneCopy toScratch m _ _ _ _ _ => !toScratch && old m.tag
  | _ => false

/-- A write of the package with such a tag is on its way (R358 step 5). -/
def State.oldWrites (s : State) : Bool :=
  (s.net.any fun x => s.oldMsg x.2) || (s.rels.any fun r => r.2.after.any s.oldMsg) ||
  (s.groups.any fun g => g.2.quar.any fun q => q.effects.any fun e => e.msgs.any s.oldMsg || e.oldCopy s.oldTag) ||
  (s.copies.any fun c => s.oldTag c.2.tag && c.2.reject.isNone) ||
  (s.streams.any fun x => x.2.started && !x.2.finished && s.oldTag x.2.tag) ||
  s.colls.any fun c => s.oldTag c.2.tag && (c.2.kind = .xmar || c.2.kind = .xred) && c.2.stage < 3

/-- The packages of GROUP. -/
def Lehr.packages (l : Lehr) : List Nat := (List.range 256).filter fun p => l.group.getLsbD p

/-- LEHR_DRAIN (R358 step 5): once no old write is on its way, dirty granules of the range not newer than s are written back; once every image
has been accepted, "drained s" goes to every package of GROUP. -/
def execLehrDrain (s : State) : Out :=
  let l := s.lehr
  if !l.busy || l.stage < 4 || l.fail ≠ 0 || l.drainSent || s.oldWrites then .next s
  else if !l.drainStarted then
    let r := s.flushTier fun g => s.inRange (g / 4) && s.oldTag ((aget s.tags (g / 4)).getD 0)
    .next { r.2 with lehr := { r.2.lehr with drainStarted := true, drainWait := r.2.images.map (·.id) } }
  else if !l.drainWait.isEmpty then .next s
  else
    .next { s with
      lehr := { l with drainSent := true, drained := s.self :: l.drained }
      fabricOut := s.fabricOut ++ (l.packages.filter (· ≠ s.self)).map fun p => (p, .drained s.self l.sstep) }

/-- DRAINED_MESSAGE (R358): a "drained s" of a package of GROUP is taken. -/
def execDrainedMessage (s : State) : Out :=
  let l := s.lehr
  match s.fabricIn.find? fun m => match m with
    | .drained p st => l.busy && st = l.sstep && l.packages.contains p
    | _ => false with
  | some (.drained p st) =>
    .next { s with lehr := { l with drained := p :: l.drained }, fabricIn := s.fabricIn.erase (.drained p st) }
  | _ => .next s

/-- The header of a complete capture (R357). -/
def Lehr.header (l : Lehr) : List Byte :=
  leBytes 8 1 ++ leBytes 8 l.sstep.toNat ++ leBytes 8 l.cstep.toNat ++ leBytes 8 l.coptstep.toNat ++ leBytes 8 l.liveBase.toNat ++
    leBytes 8 l.liveLen.toNat ++ leBytes 8 l.ctx.toNat ++ List.replicate 200 0

/-- The snapshot completion record (R359). -/
def State.snapRecord (s : State) (status : BitVec 8) : CompRec :=
  { typ := 2, status := status, queue := 0, slot := s.lehr.sstep.setWidth 32, ctag := s.lehr.snapTag, time := dw s.cycle
    info := dw (s.lehr.sstep.toNat % 2 + 2 * s.lehr.copied.length) }

/-- The cullet begins to encode the captured step, after those that it still encodes: PROTk invalid (R416 step 1). -/
def Cullet.startEncode (c : Cullet) (step : DWord) : Cullet :=
  if c.en then
    let c1 := if c.encoding.isSome then { c with later := c.later ++ [step] }
      else { c with encoding := some step, encoded := [], wait := [], asked := [], reported := false }
    if step.toNat % 2 = 0 then { c1 with prot0 := c.prot0 &&& 0x7FFFFFFFFFFFFFFF } else { c1 with prot1 := c.prot1 &&& 0x7FFFFFFFFFFFFFFF }
  else c

/-- The capture ends with a status (R358 step 7, R359). -/
def State.snapEnd (s : State) (status : BitVec 8) : State :=
  let s1 := s.postRecord s.lehr.ctx.toNat (s.snapRecord status)
  let s2 := { s1 with lehr := { s1.lehr with busy := false, stage := 0 } }
  if status = 0 then { s2 with cullet := s2.cullet.startEncode s.lehr.sstep } else s2

/-- A capture that has failed ends (R359): with an invalid configuration or too late, its slot is unchanged; otherwise the header of its slot has
VALID = 0, accepted, before the record is written. -/
def State.snapFail (s : State) : State :=
  let l := s.lehr
  if l.fail = 0x20 || l.fail = 0x21 then s.snapEnd l.fail
  else if l.stage = 6 then s.clearHeader 7
  else if l.stage = 1 || !l.hdr0.isEmpty || !l.hdrWait.isEmpty then s
  else s.snapEnd l.fail

/-- LEHR_COMPLETE (R358 steps 6 and 7, R359): the valid header, then the record. -/
def execLehrComplete (s : State) : Out :=
  let l := s.lehr
  if !l.busy then .next s
  else if l.fail ≠ 0 then .next s.snapFail
  else if l.stage = 4 && l.copied.length = s.snapLines && l.drainSent && l.packages.all l.drained.contains && l.hdr0.isEmpty &&
      l.hdrWait.isEmpty then
    let r := s.writeHeader l.header
    .next { r.2 with lehr := { r.2.lehr with stage := 6, hdrWait := r.1 } }
  else if l.stage = 6 && l.hdrWait.isEmpty then .next (s.snapEnd 0)
  else .next s

end Sys2Proof.Machine
end

