-- ==== Sys2Proof/Machine/EColl.lean ====
section
/-!
DEFINITION. The collective engine: `xmar` (R336 to R339), `xred` (R340), `xbar` (R341), `xnorm` and NORMBOX (R343, R344), and how an
instance ends (R333 to R336).
-/
namespace Sys2Proof.Machine

/-! ## Commands and messages -/

/-- The key of a (context, COMM) count (R333). -/
def commKey (ctx : Nat) (comm : BitVec 16) : Nat := ctx * 65536 + comm.toNat

/-- A message of the command to package `pkg`; one to the own package is heard at once. -/
def State.tellPkg (s : State) (c : Coll) (pkg : Nat) (b : CollBody) : State :=
  let m : CollMsg := { ctx := BitVec.ofNat 6 c.ctx, inst := c.inst, src := s.self, rank := c.rank, hdr := c.hdr, body := b }
  if pkg = s.self then { s with collIn := s.collIn ++ [m] } else { s with fabricOut := s.fabricOut ++ [(pkg, .coll m)] }

/-- A message to rank `r`. -/
def State.tellRank (s : State) (c : Coll) (r : Nat) (b : CollBody) : State := s.tellPkg c (rankPkg c.rankw r) b

/-- A message to every other rank, in ascending distance (R338). -/
def State.tellAll (s : State) (c : Coll) (b : CollBody) : State :=
  ((List.range c.nr).drop 1).foldl (fun st i => st.tellRank c ((c.rank + i) % c.nr) b) s

/-- A collective command starts (R333): it takes its instance number and tells the other ranks its fields. -/
def State.beginColl (s : State) (w : Who) (id : Nat) (cmd : Cmd) (k : CollKind) (disc : Bool) : Coll × State :=
  let hdr := collHdr k cmd.args
  let key := commKey w.ctx hdr.comm
  let inst := (aget s.commCounts key).getD 0
  let c : Coll := {
    gid := w.gid, kind := k, pc := cmd.pc, args := cmd.args, dst := cmd.dst, core := w.core, ctx := w.ctx, team := w.g.team
    gen := s.genStamp w.core w.ctx, inst := inst, disc := disc, hdr := hdr, since := s.cycle, tag := s.stepTag, ordinal := cmd.ordinal }
  let s1 := ({ s with commCounts := aset s.commCounts key (inst + 1) }.startCmd id).tellAll c .start
  (c, s1.setColl id c)

/-- A command of the group whose inputs are still being read. -/
def State.readingColl (s : State) (gid : Nat) (k : CollKind) : Option (Nat × Coll) :=
  s.colls.find? fun x => x.2.gid = gid && x.2.kind = k && x.2.stage = 0 && !x.2.disc && x.2.cause = 0

/-! ## xmar (R337 to R339) -/

/-- Element `l` of rank `r`'s source block: the rank that receives it and its index in that rank's destination block, dimension 0 fastest. -/
def xmarTarget (a : List DWord) (r l : Nat) : Nat × Nat :=
  let li := fun (i : Nat) => gridCoord (xmarSB a) l i
  let gi := fun (i : Nat) => gridCoord (rankExt (a.getD 4 0)) r i * xmarSB a i + li i
  let d := fun (i : Nat) => gi i / xmarDB a i
  let m := fun (i : Nat) => gi i % xmarDB a i
  (d 0 + xmarH a 0 * (d 1 + xmarH a 1 * (d 2 + xmarH a 2 * d 3)),
   m 0 + xmarDB a 0 * (m 1 + xmarDB a 1 * (m 2 + xmarDB a 2 * m 3)))

/-- The destination address of the element of index `k` (R338). -/
def xmarDst (a : List DWord) (k : Nat) : DWord :=
  let m := fun (i : Nat) => gridCoord (xmarDB a) k i
  let p := fun (j : Nat) => m ((xmarPi a).getD j 0)
  dw ((a.getD 1 0).toNat + xmarEsz a * (p 0 + xmarS a 1 * p 1 + xmarS a 2 * p 2 + xmarS a 3 * p 3))

/-- Indexes that rank `q` receives from rank `r`. -/
def pieceIndexes (a : List DWord) (r q : Nat) : List Nat :=
  (List.range (xmarSB a 0 * xmarSB a 1 * xmarSB a 2 * xmarSB a 3)).filterMap fun l =>
    if (xmarTarget a r l).1 = q then some (xmarTarget a r l).2 else none

/-- A fault of output element `e`: faults of inputs come before those of outputs, each by element (R334). -/
def Coll.outFault (c : Coll) (e cause : Nat) (addr : DWord) : Coll := c.fault (2 ^ 32 + e) cause addr

/-- The pieces are sent in ascending distance; the own piece stays in the package (R338). -/
def State.sendPieces (s : State) (c : Coll) (elems : List (Nat × PieceElem)) : State :=
  (List.range c.nr).foldl (fun st i =>
    let q := (c.rank + i) % c.nr
    let piece := (elems.filter fun x => x.1 = q).map (·.2)
    if piece.isEmpty then st else st.tellRank c q (.piece piece)) s

/-- A discarded `xmar` (R336): the others are credited what it would have sent, and what it would have received counts as landed. -/
def State.dropPieces (s : State) (c : Coll) : State :=
  c.others.foldl (fun st q =>
    let n := pieceCount c.args c.rank q
    let s1 := if n = 0 then st else st.tellRank c q (.pieceDropped (n * xmarEsz c.args))
    if pieceCount c.args q c.rank = 0 then s1 else s1.tellRank c q .pieceAck) s

/-- Once the source has been read the pieces leave. -/
def State.sendXmar (s : State) (id : Nat) : State :=
  match aget s.colls id with
  | none => s
  | some c =>
    if c.stage = 0 && c.srcRead then
      (s.sendPieces c ((List.range (srcCount c.args)).map fun l =>
        let t := xmarTarget c.args c.rank l
        (t.1, { index := t.2, bytes := c.srcElem l }))).setColl id { c with stage := 1 }
    else s

/-- `xmar` reads what it can of its source. -/
def State.readXmar (s : State) (id : Nat) (c : Coll) : State :=
  ((List.range (xmarHalves c.args * srcCount c.args)).foldl (fun st p => st.readSrc id p) s).sendXmar id

/-- XMAR_START (R336, R338): it starts; its source is read from then on, part by part (`NCU_OPERATION`) or by a further step, which sends the pieces. -/
def execXmarStart (gid : Nat) (s : State) : Out :=
  match s.who gid with
  | none => .next s
  | some w =>
    match s.readingColl gid .xmar with
    | some (id, c) => .next (s.readXmar id c)
    | none =>
      match s.nextCmd w.g 2 .xmar with
      | some (id, cmd, disc) =>
        let b := s.beginColl w id cmd .xmar disc
        .next (if disc then (b.2.dropPieces b.1).setColl id { b.1 with stage := 1 } else b.2)
      | none => .next s

/-- The message of rank `r` that holds its piece. -/
def State.pieceOf (s : State) (c : Coll) (r : Nat) : Option CollMsg :=
  (s.collMsgs c).find? fun m => c.agrees m && m.rank = r && bodyPiece m.body

/-- Once every element of a piece has landed or faulted its sender is told. -/
def State.ackPiece (s : State) (c : Coll) (r : Nat) (elems : List Nat) : State :=
  if r ≠ c.rank && elems.all fun i => c.landed.contains i || c.faulted.contains i then s.tellRank c r .pieceAck else s

/-- An element is placed (R338, R339). -/
def State.placeElem (s : State) (id : Nat) (c : Coll) (r : Nat) (e : PieceElem) (all : List Nat) : State :=
  let ea := xmarDst c.args e.index
  let n := xmarEsz c.args
  let fault := fun (st : State) (cause : Nat) =>
    let c1 := { c.outFault e.index cause ea with faulted := e.index :: c.faulted }
    (st.setColl id c1).ackPiece c1 r all
  if !s.ownPlace (s.collEng id c) .write ea n then fault s 1
  else match s.engWrite (s.collEng id c) .write ea n e.bytes c.tag false false none with
  | .wait => s
  | .bad code => fault (s.noteWorld code) (engCause code)
  | .poisonedScratch => fault s 4
  | .remote _ _ => fault s 1
  | .ok _ s1 =>
    let c1 := { c with landed := e.index :: c.landed, psn := c.psn || e.bytes.isNone }
    ((s1.setColl id c1).credit (s.collEng id c) id n c.barw c.pc).ackPiece c1 r all

/-- XMAR_PIECE_ARRIVAL (R336, R338): element `index` of the piece of rank `src`; a piece that was not sent is credited whole. -/
def execXmarPieceArrival (id src index : Nat) (s : State) : Out :=
  match aget s.colls id with
  | none => .next s
  | some c =>
    if c.kind ≠ .xmar || c.disc || c.cause ≠ 0 || 1 < c.stage || !s.heardAll c || s.collMismatch c then .next s
    else match s.pieceOf c src with
      | none => .next s
      | some m =>
        match m.body with
        | .piece elems =>
          (match elems.find? fun e => e.index = index with
           | none => .next s
           | some e =>
             if c.landed.contains index || c.faulted.contains index || destCount c.args ≤ index then .next s
             else .next (s.placeElem id c src e (elems.map (·.index))))
        | .pieceDropped _ =>
          let ix := pieceIndexes c.args src c.rank
          if ix.any c.landed.contains then .next s
          else .next ((s.setColl id { c with landed := ix ++ c.landed }).credit (s.collEng id c) id (ix.length * xmarEsz c.args) c.barw c.pc)
        | _ => .next s

/-! ## xred (R340) -/

/-- One step of the tree on values of the command's type. -/
def xredStep (a : List DWord) (x y : DWord) : DWord :=
  let op := xredOp a
  match xredTy a with
  | some .b64 => if op = 3 then x &&& y else if op = 4 then x ||| y else x ^^^ y
  | some t => (redStep op t (x.setWidth 32) (y.setWidth 32)).1.setWidth 64
  | none => x

/-- The identity of the operation (R205). -/
def xredIdentity (a : List DWord) : DWord :=
  match xredTy a with
  | some .b64 => if xredOp a = 3 then 0xFFFFFFFFFFFFFFFF else 0
  | some t => (redIdentity (xredOp a) t).setWidth 64
  | none => 0

/-- The pairwise tree over rank positions: the smallest power of two at or above NR, filled with the identity. -/
def rankTree {α : Type} (op : α → α → α) (identity : α) (vs : List α) : α :=
  let levels := if vs.length ≤ 1 then 0 else Nat.log2 (vs.length - 1) + 1
  (treeLevels op levels (vs ++ List.replicate (2 ^ levels - vs.length) identity)).headD identity

/-- The values that rank `r` has sent. -/
def State.valuesOf (s : State) (c : Coll) (r : Nat) : List (Option DWord) :=
  if r = c.rank then (List.range (xredCount c.args)).map fun e => (aget c.inputs e).getD none
  else match (s.collMsgs c).find? fun m => c.agrees m && m.rank = r && bodyValues m.body with
    | some m => (match m.body with
      | .values vs => vs
      | _ => [])
    | none => []

/-- Element `e` of the result: none when some rank sent it poisoned. -/
def State.xredElem (s : State) (c : Coll) (e : Nat) : Option DWord :=
  let vs := (List.range c.nr).map fun r => (s.valuesOf c r).getD e none
  if vs.all Option.isSome then some (rankTree (xredStep c.args) (xredIdentity c.args) (vs.map fun v => v.getD 0)) else none

/-- Once every input has been read the values go to the other ranks. -/
def State.sendValues (s : State) (id : Nat) : State :=
  match aget s.colls id with
  | none => s
  | some c =>
    if c.stage = 0 && (List.range (xredCount c.args)).all fun e => (aget c.inputs e).isSome then
      (s.tellAll c (.values (s.valuesOf c c.rank))).setColl id { c with stage := 1 }
    else s

/-- `xred` reads what it can. -/
def State.readXred (s : State) (id : Nat) (c : Coll) : State :=
  ((List.range (xredCount c.args)).foldl (fun st e => st.readInput id e) s).sendValues id

/-- XRED_START (R336, R340): it starts; its inputs are read from then on, one by one (`NCU_OPERATION`) or by further steps. -/
def execXredStart (gid : Nat) (s : State) : Out :=
  match s.who gid with
  | none => .next s
  | some w =>
    match s.readingColl gid .xred with
    | some (id, c) => .next (s.readXred id c)
    | none =>
      match s.nextCmd w.g 2 .xred with
      | some (id, cmd, disc) =>
        let b := s.beginColl w id cmd .xred disc
        if disc then
          let ins := (List.range (xredCount cmd.args)).map fun e => (e, some (xredIdentity cmd.args))
          .next ((b.2.setColl id { b.1 with inputs := ins }).sendValues id)
        else .next b.2
      | none => .next s

/-- A result element is written (R340). -/
def State.writeResult (s : State) (id e : Nat) : State :=
  match aget s.colls id with
  | none => s
  | some c =>
    if c.landed.contains e || c.faulted.contains e || (aget c.asked (65536 + e)).isSome then s
    else
      let ea := c.elemAddr 1 e
      let n := xredSize c.args
      let v := (s.xredElem c e).map fun x => leBytes n x.toNat
      match s.engWrite (s.collEng id c) .write ea n v c.tag false false none with
      | .wait => s
      | .bad code => (s.noteWorld code).setColl id { c.outFault e (engCause code) ea with faulted := e :: c.faulted }
      | .poisonedScratch => s.setColl id { c.outFault e 4 ea with faulted := e :: c.faulted }
      | .ok _ s1 => s1.setColl id { c with landed := e :: c.landed, psn := c.psn || v.isNone }
      | .remote pkg pa =>
        let r := s.storePkg (s.collEng id c) pkg pa n v false c.tag
        r.2.setColl id { c with asked := aset c.asked (65536 + e) r.1, psn := c.psn || v.isNone }

/-! ## xnorm (R342 to R344) -/

/-- The contribution of the rank: (PSQ, flag). -/
def Coll.psq (c : Coll) : Word := if c.disc then 0x80000000 else (c.args.getD 0 0).setWidth 32

/-- Once every header has been read, the contribution goes to rank 0. -/
def State.sendNorm (s : State) (id : Nat) : State :=
  match aget s.colls id with
  | none => s
  | some c =>
    if c.stage = 0 && (c.disc || (List.range c.nh).all c.landed.contains) then
      (if c.rank = 0 then s else s.tellRank c 0 (.norm c.psq c.flag)).setColl id { c with stage := 1 }
    else s

/-- `xnorm` reads what it can: entries, then their headers. With CLR = 1, which writes to them, it waits until the commands of the instance have
been compared (R333). -/
def State.readXnorm (s : State) (id : Nat) (c : Coll) : State :=
  if !s.mayReadNorm c then s.sendNorm id
  else
  let once := fun (st : State) => (List.range c.nh).foldl (fun x i => x.readNorm id i) st
  (once (once s)).sendNorm id

/-- XNORM_START (R336, R343): OVFL is read at the start, and cleared with CLR = 1; the entries and headers are read from then on, one by one
(`NCU_OPERATION`) or by further steps. -/
def execXnormStart (gid : Nat) (s : State) : Out :=
  match s.who gid with
  | none => .next s
  | some w =>
    match s.readingColl gid .xnorm with
    | some (id, c) => .next (s.readXnorm id c)
    | none =>
      match s.nextCmd w.g 2 .xnorm with
      | some (id, cmd, disc) =>
        let b := s.beginColl w id cmd .xnorm disc
        if disc then .next (b.2.sendNorm id)
        else
          let c := { b.1 with flag := w.g.ovfl.read s.cycle || (cmd.args.getD 3 0).getLsbD 17 }
          let s1 := b.2.setColl id c
          .next (if c.clr then s1.modGroup gid fun g => { g with ovfl := g.ovfl.clear s.cycle } else s1)
      | none => .next s

/-- CLIP ÷ √SQ with a sticky bit below it, for positive finite numbers. -/
def clipRatio (clip sq : Fp) : Fp :=
  match clip, sq with
  | .fin _ a e, .fin _ b f =>
    let k : Int := 2 * e - f
    let m := if k % 2 = 0 then a * a else 2 * (a * a)
    let k2 := if k % 2 = 0 then k else k - 1
    let r := isqrt (m * 2 ^ 160 / b)
    .fin false (2 * r + (if r * r * b = m * 2 ^ 160 then 0 else 1)) (k2 / 2 - 81)
  | _, _ => .nan

/-- MULT and whether SQ itself makes the step skip (R343). -/
def normMult (clip sq : Word) : Word × Bool :=
  match f32 sq with
  | .nan | .inf _ => (0, true)
  | .fin neg m _ =>
    if m = 0 then (0x3F800000, false)
    else if neg then (0, true)
    else
      let r := clipRatio (f32 clip) (f32 sq)
      (if Fp.lt r (.fin false 1 0) then round32 .rne r else 0x3F800000, false)

/-- What rank `r` has sent to rank 0. -/
def State.normOf (s : State) (c : Coll) (r : Nat) : Word × Bool :=
  if r = c.rank then (c.psq, c.flag)
  else match (s.collMsgs c).find? fun m => c.agrees m && m.rank = r && bodyNorm m.body with
    | some m => (match m.body with
      | .norm p f => (p, f)
      | _ => (0x80000000, false))
    | none => (0x80000000, false)

/-- The result that rank 0 forms (R343). -/
def State.normResult (s : State) (c : Coll) : Word × Word × Bool :=
  let all := (List.range c.nr).map (s.normOf c)
  let sq := rankTree (fun x y => round32 .rne (Fp.add false (f32 x) (f32 y))) (0x80000000 : Word) (all.map (·.1))
  let r := normMult ((c.args.getD 1 0).setWidth 32) sq
  (sq, r.1, r.2 || all.any (·.2))

/-- The result that rank 0 has sent. -/
def State.resultHeard (s : State) (c : Coll) : Option (Word × Word × Bool) :=
  (s.collMsgs c).findSome? fun m => if c.agrees m && m.rank = 0 then (match m.body with
    | .normResult q x k => some (q, x, k)
    | _ => none) else none

/-- XNORM_RESULT (R343): rank 0 forms the result and sends it; another rank takes it and acknowledges. -/
def execXnormResult (id : Nat) (s : State) : Out :=
  match aget s.colls id with
  | none => .next s
  | some c =>
    if c.kind ≠ .xnorm || c.stage ≠ 1 || s.collMismatch c || s.collLost c then .next s
    else if c.rank = 0 then
      (if c.others.all fun r => s.heard c r bodyNorm then
        let x := s.normResult c
        .next ((s.tellAll c (.normResult x.1 x.2.1 x.2.2)).setColl id { c with stage := 2, result := some x })
      else .next s)
    else match s.resultHeard c with
      | some x => .next ((s.tellRank c 0 .normAck).setColl id { c with stage := 2, result := some x })
      | none => .next s

/-- The command's group arrival on its barrier (R285, R334). -/
def State.collArrive (s : State) (id : Nat) (c : Coll) : State :=
  if noBar c.barw then s else (s.engMsg (s.collEng id c) (.barGroup none (some id)) c.barw c.pc).2

/-- The commit replaces every field of NORMBOX in one step (R344). -/
def State.commitNorm (s : State) (x : Word × Word × Bool) : State :=
  let n := s.normbox
  { s with normbox := { sq := x.1, mult := x.2.1, skip := x.2.2, optstep := if x.2.2 then n.optstep else n.optstep + 1, step := n.step + 1 } }.lehrCommit

/-- The commit of a rank: NORMBOX, then the arrival. -/
def State.commitColl (s : State) (id : Nat) (c : Coll) : State :=
  let c1 := { c with stage := 3, committed := true }
  ((s.commitNorm (c.result.getD (0, 0, false))).setColl id c1).collArrive id c1

/-- XNORM_COMMIT (R343, R344): rank 0 commits once all have acknowledged and sends the commit; another rank commits on it. -/
def execXnormCommit (id : Nat) (s : State) : Out :=
  match aget s.colls id with
  | none => .next s
  | some c =>
    if c.kind ≠ .xnorm || c.stage ≠ 2 then .next s
    else if c.rank = 0 then
      (if !s.collLost c && c.others.all fun r => s.heard c r bodyNormAck then .next ((s.tellAll c .normCommit).commitColl id c) else .next s)
    else if s.heard c 0 bodyNormCommit then .next (s.commitColl id c)
    else .next s

/-! ## xbar (R341) -/

/-- XBAR_START (R336, R341): it releases every earlier S access of the group at `.dom`; a discarded one only arrives. -/
def execXbarStart (gid : Nat) (s : State) : Out :=
  match s.who gid with
  | none => .next s
  | some w =>
    match s.nextCmd w.g 2 .xbar with
    | some (id, cmd, disc) =>
      let b := s.beginColl w id cmd .xbar disc
      if disc then .next ((b.2.tellAll b.1 .released).setColl id { b.1 with stage := 1 })
      else
        let r := b.2.beginRelease gid w.core w.ctx .dom ((s.sReqs gid).filter fun i => i < id) []
        .next (r.2.setColl id { b.1 with relId := some r.1 })
    | none => .next s

/-! ## Completion (R333 to R336, R339 to R341) -/

/-- The bytes that a command declares. -/
def Coll.declared (c : Coll) : Nat :=
  match c.kind with
  | .xmar => destCount c.args * xmarEsz c.args
  | .xred => xredCount c.args * xredSize c.args
  | _ => 0

/-- The completion that a command keeps when it writes nothing (R333, R336): its full credit, or its arrival. -/
def State.keepCompletion (s : State) (id : Nat) (c : Coll) : State :=
  match c.kind with
  | .xmar | .xred => s.credit (s.collEng id c) id c.declared c.barw c.pc
  | .xnorm | .xbar => s.collArrive id c

/-- The packages whose differing commands it has met are told its fields (R333). -/
def State.tellMet (s : State) (c : Coll) : State :=
  let met := ((s.collMsgs c).filter fun m => !bodyLost m.body && !c.agrees m).map (·.src)
  met.eraseDups.foldl (fun st p => if p = s.self then st else st.tellPkg c p .start) s

/-- A mismatch (R333). -/
def State.endMismatch (s : State) (id : Nat) (c : Coll) : State :=
  let c1 := { c with stage := 3, cause := 6 }
  ((s.tellMet c).setColl id c1).keepCompletion id c1

/-- The command has agreed with every rank and has begun to write, or has acknowledged a result: a command met later finds it past the comparison
(R333). -/
def Coll.begun (c : Coll) : Bool :=
  match c.kind with
  | .xmar => !c.landed.isEmpty || !c.faulted.isEmpty
  | .xred => !c.landed.isEmpty || !c.faulted.isEmpty || c.asked.any fun x => 65536 ≤ x.1
  | .xnorm => 2 ≤ c.stage || (c.clr && !c.landed.isEmpty)
  | .xbar => false

/-- A lost rank (R335, R343): what has landed stands, with its credit; arrivals are kept; rank 0 of an `xnorm` tells the others. -/
def State.endLost (s : State) (id : Nat) (c : Coll) : State :=
  let c1 := { c with stage := 3, cause := 7 }
  let s1 := (if c.kind = .xnorm && c.rank = 0 then s.tellAll c .lost else s).setColl id c1
  match c.kind with
  | .xnorm | .xbar => s1.collArrive id c1
  | .xred => s1.credit (s.collEng id c) id (c.landed.length * xredSize c.args) c.barw c.pc
  | .xmar => s1

/-- The instance has lost a rank before this rank's outcome is settled. A rank that has acknowledged an `xnorm` result waits for rank 0's
decision (R343). -/
def State.lostNow (s : State) (c : Coll) : Bool :=
  s.collLost c && !(c.kind = .xnorm && c.stage = 2 && c.rank ≠ 0 &&
    (s.heard c 0 bodyNormCommit || !(s.lostPkgs.contains (rankPkg c.rankw 0) ||
      (s.collMsgs c).any fun m => bodyLost m.body && m.src = rankPkg c.rankw 0)))

/-- `xmar` has all landed, here and at the receivers (R339); a discarded one is credited whole (R336). -/
def State.stepXmar (s : State) (id : Nat) (c : Coll) : State :=
  if c.stage = 0 || !s.collHeard c then s
  else if c.disc then (s.setColl id { c with stage := 3 }).keepCompletion id c
  else if c.landed.length + c.faulted.length = destCount c.args then s.setColl id { c with stage := 3 }
  else s

/-- `xred` writes its result, then the landed bytes are credited at once (R340). -/
def State.stepXred (s : State) (id : Nat) (c : Coll) : State :=
  if c.stage = 0 || !s.collHeard c then s
  else if c.disc then (s.setColl id { c with stage := 3 }).keepCompletion id c
  else
    let s1 := (List.range (xredCount c.args)).foldl (fun st e => st.writeResult id e) s
    match aget s1.colls id with
    | none => s1
    | some c1 =>
      if c1.landed.length + c1.faulted.length = xredCount c.args then
        (s1.setColl id { c1 with stage := 3 }).credit (s.collEng id c) id (c1.landed.length * xredSize c.args) c.barw c.pc
      else s1

/-- `xbar` tells that its release has completed, and arrives once every rank's has (R341). -/
def State.stepXbar (s : State) (id : Nat) (c : Coll) : State :=
  if c.stage = 0 then
    (if c.relId.any fun r => (aget s.rels r).isSome then s
     else (s.tellAll c .released).setColl id { c with stage := 1 })
  else if s.collHeard c then
    let c1 := { c with stage := 3 }
    (s.setColl id c1).collArrive id c1
  else s

/-- The CAUSE of COLLSTAT (R334). -/
def Coll.statCause (c : Coll) : Nat :=
  if c.cause ≠ 0 then c.cause else match firstFault c.faults with
    | some f => f.cause
    | none => 0

/-- COLLSTAT (R334). -/
def Coll.status (c : Coll) : DWord :=
  let skip := c.committed && (match c.result with
    | some x => x.2.2
    | none => false)
  dw (c.disc.toNat + (if c.statCause = 0 then 0 else 2) + c.statCause * 4 + c.psn.toNat * 64 + skip.toNat * 128 + c.inst.toNat * 2 ^ 32)

/-- The loss of a rank is reported to software by a context-fault record (R334), with 0x07 in STATUS (log 101). -/
def State.reportLoss (s : State) (c : Coll) : State :=
  match s.who c.gid with
  | some w => s.postRecord c.ctx (faultRecord w { code := 0x07, pc := c.pc } s.cycle)
  | none => s

/-- The command is over (R334): COLLSTAT first, then the fault; the messages of its instance are gone. -/
def State.endColl (s : State) (id : Nat) (c : Coll) : State :=
  let s1 := { (if c.cause = 6 then s else s.tellMet c) with
    colls := adel s.colls id
    collIn := s.collIn.filter fun m => !(m.ctx.toNat = c.ctx && m.inst = c.inst && m.hdr.comm = c.hdr.comm) }
  let s2 := (s1.dropCmd c.gid id).writeStatus c.gid c.ordinal c.dst c.status
  if c.cause = 6 then s2.takeLate c.gid (engFaultCause { key := 0, cause := 6, pc := c.pc, addr := 0 } false)
  else if c.cause = 7 then s2.reportLoss c
  else match firstFault c.faults with
    | some f => s2.takeLate c.gid (engFaultCause f false)
    | none => s2

/-- The command's credits and arrivals are still on their way. -/
def State.collCredits (s : State) (id : Nat) : Bool := s.net.any fun x => x.2.kind.engine = some id

/-- COLLECTIVE_COMPLETE (R335): the next step of a command towards its completion. -/
def execCollectiveComplete (id : Nat) (s : State) : Out :=
  match aget s.colls id with
  | none => .next s
  | some c =>
    if c.stage = 3 then (if s.collCredits id then .next s else .next (s.endColl id c))
    else if s.collMismatch c && !c.begun then .next (s.endMismatch id c)
    else if s.lostNow c then (if c.asked.any fun x => 65536 ≤ x.1 then .next s else .next (s.endLost id c))
    else .next (match c.kind with
      | .xmar => s.stepXmar id c
      | .xred => s.stepXred id c
      | .xnorm => s
      | .xbar => s.stepXbar id c)

end Sys2Proof.Machine
end

