-- ==== Sys2Proof/Machine/EFabric.lean ====
section
/-!
DEFINITION. The fabric: flits and what they carry (R326 to R328), accesses of other packages (R327, R330), ports and lanes (R328, R329), and lost
packages (R330, R413).
-/
namespace Sys2Proof.Machine

/-! ## Answers of other packages (R326, R327) -/

/-- A message to another package is answered. -/
def State.answerMsg (s : State) (id : Nat) (m : Msg) (a : RemoteAnswer) : State :=
  match a with
  | .done => s.arrived id m
  | .data bytes _ =>
    (match m.kind with
     | .roundReg _ _ d log => s.modGroup m.gid fun g => g.regDone d log (leDWord bytes)
     | .roundArrive _ _ => s.modGroup m.gid fun g => g.awaitRound (w32 (leNat bytes)) s.cycle
     | k => s.answer k.reqOf bytes).arrived id m
  | .reject code => if code = 0x07 then s.staleMsg id else s.refuseMsg id code

/-- The part of a request that was sent under `id`. -/
def State.partSent (s : State) (id : Nat) : Option (Nat × Nat) :=
  s.reqs.findSome? fun x => ((List.range x.2.parts.length).find? fun i => match x.2.parts[i]? with
    | some p => p.sent = some id && !p.settled && (match p.place with
      | .remote _ _ => true
      | _ => false)
    | none => false).map fun i => (x.1, i)

/-- A part of a load or of a latch is answered. -/
def State.answerPart (s : State) (rid ix : Nat) (a : RemoteAnswer) : State :=
  match aget s.reqs rid, a with
  | some q, .data bytes stale =>
    (match q.dst, regionOf 0 bytes with
     | .roundGet _ _ _, .invalid => s.refusePart rid ix 0x06
     | _, _ => (s.modPart rid ix fun p => { p with value := some (overlay p.fwd bytes), stale := stale }).verdict rid)
  | some q, .reject code =>
    if q.atomic then s.modPart rid ix fun p => { p with reject := some code }
    else if code = 0x07 then s.stalePart rid ix q.gid
    else s.refusePart rid ix code
  | _, _ => s

/-- Plane, row and element of a copy element's number. -/
def Copy.place (c : Copy) (key : Nat) : Nat × Nat × Nat := (key / c.n0 / c.n1, key / c.n0 % c.n1, key % c.n0)

/-- The source row of an element: its index for `cpt.idx`. -/
def Copy.srcRow (c : Copy) (i : Nat) : Nat :=
  if c.kind == .cptIdx then (match aget c.rows i with
    | some (some k) => k.toNat
    | _ => i) else i

/-- A read of an element is answered: poison travels on, another rejection faults the element (R256). -/
def State.answerRead (s : State) (id : Nat) (c : Copy) (key : Nat) (a : RemoteAnswer) : State :=
  let p := c.place key
  match a with
  | .data bytes _ => s.setCopy id { c with elems := aset c.elems key (.fetched (some bytes)) }
  | .reject code =>
    if c.perLane then (if code = 0x07 then s.setCopy id { c with elems := [] } else s.rejectLane id c code)
    else if code = 0x09 then s.setCopy id { c with elems := aset c.elems key (.fetched none) }
    else s.setCopy id (c.faultElem key (key / c.n0) (engCause code) (c.srcAddr p.1 (c.srcRow p.2.1) p.2.2))
  | .done => s

/-- A write of an element is answered. -/
def State.answerWrite (s : State) (id : Nat) (c : Copy) (key : Nat) (bytes : Option (List Byte)) (a : RemoteAnswer) : State :=
  let p := c.place key
  match a with
  | .reject code =>
    if c.perLane then
      (if code = 0x07 then s.setCopy id { c with elems := aset c.elems key (.fetched bytes) } else s.rejectLane id c code)
    else s.setCopy id (c.faultElem key (key / c.n0) (engCause code) (c.dstAddr p.1 p.2.1 p.2.2))
  | _ => if c.perLane then s.laneLanded id c (s.copyEng id c) else s.landed id c key bytes.isNone

/-- A copy's request under `rid` is answered. -/
def State.answerCopy (s : State) (id : Nat) (c : Copy) (rid : Nat) (a : RemoteAnswer) : State :=
  match c.rowAsk.find? fun x => x.2 = rid with
  | some (i, _) =>
    let c1 := { c with rowAsk := adel c.rowAsk i }
    let addr := c.args.getD 6 0 + dw (4 * i)
    (match a with
     | .data bytes _ => s.rowRead id c1 (s.copyEng id c) i (.ok (w32 (leNat bytes))) addr
     | .reject code => s.rowRead id c1 (s.copyEng id c) i (.error code) addr
     | .done => s)
  | none =>
    match c.elems.find? fun x => match x.2 with
      | .asked k | .sent k _ => k = rid
      | _ => false with
    | some (key, .asked _) => s.answerRead id c key a
    | some (key, .sent _ bytes) => s.answerWrite id c key bytes a
    | _ => s

/-- The copy waits for the answer `rid`. -/
def Copy.asks (c : Copy) (rid : Nat) : Bool :=
  (c.rowAsk.any fun x => x.2 = rid) || c.elems.any fun x => match x.2 with
    | .asked k | .sent k _ => k = rid
    | _ => false

/-- An accumulation, or the header's OVF, is answered (R268, R269, R273). -/
def State.answerStream (s : State) (id : Nat) (x : Stream) (rid : Nat) (a : RemoteAnswer) : State :=
  match x.asked.find? fun y => y.2 = rid with
  | some (ix, _) =>
    (match a with
     | .data bytes _ =>
       let s1 := s.accDone id ix
       if (f32 (accNew (w32 (leNat bytes)) (x.partials.getD ix 0))).isFinite then s1
       else (match aget s1.streams id with
         | some y => s1.setOvf id ix y
         | none => s1)
     | .reject code =>
       if code = 0x09 then { s with batches := amod s.batches x.batch fun b => { b with psn := true } }.accDone id ix
       else (s.batchFault x.batch id ix (engCause code) x.pc (x.elemAddr (ix / x.outs) (ix % x.outs))).accDone id ix
     | .done => s.accDone id ix)
  | none =>
    let s1 := { s with streams := aset s.streams id { x with hdrAsked := x.hdrAsked.filter (· ≠ rid) } }
    match a with
    | .reject code => s1.batchFault x.batch id 0 (engCause code) x.pc x.acc
    | _ => s1

/-- The stream waits for the answer `rid`. -/
def Stream.asks (x : Stream) (rid : Nat) : Bool := (x.asked.any fun y => y.2 = rid) || x.hdrAsked.contains rid

/-- A request of `xred` is answered: an input, or a result element. -/
def State.answerXred (s : State) (id : Nat) (c : Coll) (k : Nat) (a : RemoteAnswer) : State :=
  if k < 65536 then
    (s.setColl id (match a with
      | .data bytes _ => { c with inputs := aset c.inputs k (some (leDWord bytes)) }
      | .reject code =>
        if code = 0x09 then { c with inputs := aset c.inputs k none, psn := true }
        else { c.fault k (engCause code) (c.elemAddr 0 k) with inputs := aset c.inputs k none }
      | .done => c)).sendValues id
  else
    let e := k - 65536
    s.setColl id (match a with
      | .reject code => { c.outFault e (engCause code) (c.elemAddr 1 e) with faulted := e :: c.faulted }
      | _ => { c with landed := e :: c.landed })

/-- A request of `xnorm` is answered: a list entry, or a header. -/
def State.answerXnorm (s : State) (id : Nat) (c : Coll) (k : Nat) (a : RemoteAnswer) : State :=
  let i := k / 2
  let ea := if k % 2 = 0 then c.args.getD 2 0 + dw (8 * i) else ((aget c.inputs i).getD none).getD 0
  (match a with
   | .data bytes _ =>
     let v := w32 (leNat bytes)
     if k % 2 = 0 then s.setColl id { c with inputs := aset c.inputs i (some (leDWord bytes)) }
     else match (if c.clr && v.getLsbD 0 then s.clearFault id c ea else none) with
       | some code => s.normFault id (c.tookHeader i v) i code ea
       | none => s.setColl id (c.tookHeader i v)
   | .reject code => s.normFault id c i code ea
   | .done => s).sendNorm id

/-- A request of a collective command is answered. -/
def State.answerColl (s : State) (id : Nat) (c : Coll) (rid : Nat) (a : RemoteAnswer) : State :=
  match c.asked.find? fun x => x.2 = rid with
  | none => s
  | some (k, _) =>
    let c1 := { c with asked := adel c.asked k }
    if c.kind = .xnorm then s.answerXnorm id c1 k a else s.answerXred id c1 k a

/-- An access of the device is answered: a field of a slot (R55, R56), or the write of a completion record (R62). One that is rejected for its
generation is repeated (R219). -/
def State.answerDevice (s : State) (rid : Nat) (d : DevAsk) (a : RemoteAnswer) : State :=
  let s1 := { s with devAsks := adel s.devAsks rid }
  match d with
  | .slot c q f =>
    (match a with
     | .data bytes _ =>
       (s1.modCtx c fun x => x.setQueue q { x.queue q with part := aset (x.queue q).part f (leDWord bytes) }).finishSlot c q
     | .reject code => if code = 0x07 then s1 else s1.refuseSlot c q
     | .done => s1)
  | .table c i =>
    (match a with
     | .reject 0x07 => s1
     | _ =>
       let r : Option RegionRec := match a with
         | .data bytes _ => (match regionOf 0 bytes with
           | .valid r => some r
           | _ => none)
         | _ => none
       { s1 with regionCopies := aset s1.regionCopies (4096 * c + i) ((s.ctx c).gen, r) })
  | .counter c i =>
    (match a with
     | .data bytes _ => s1.raiseRcl (remoteRcl (s.regionPkg c i) c i) (w32 (leNat bytes))
     | _ => s1)
  | .reread gid _ _ =>
    (match a with
     | .data bytes _ => { s1 with recReads := aset s1.recReads gid (regionOf 0 bytes) }
     | .reject code => if code = 0x07 then s1 else { s1 with recReads := aset s1.recReads gid (.bad code) }
     | .done => s1)
  | .record c =>
    let s2 := s1.modCtx c fun x => { x with cqAsk := none }
    match (s2.ctx c).held, a with
    | held, .reject code => if code = 0x07 then s2.flushRecords c held else s2.modCtx c fun x => { x with cqerr := true }
    | r :: rest, _ => (s2.recordWritten c r).flushRecords c rest
    | [], _ => s2

/-- The answer to request `rid` goes to what asked. -/
def State.answered (s : State) (rid : Nat) (a : RemoteAnswer) : State :=
  match aget s.net rid with
  | some m => if m.sentOut && m.rejected.isNone then s.answerMsg rid m a else s
  | none =>
    match s.partSent rid with
    | some (q, ix) => s.answerPart q ix a
    | none =>
      match s.copies.find? fun x => x.2.asks rid with
      | some (id, c) => s.answerCopy id c rid a
      | none =>
        match s.streams.find? fun x => x.2.asks rid with
        | some (id, x) => s.answerStream id x rid a
        | none =>
          match s.colls.find? fun x => x.2.asked.any fun y => y.2 = rid with
          | some (id, c) => s.answerColl id c rid a
          | none =>
            match aget s.devAsks rid with
            | some d => s.answerDevice rid d a
            | none => { s with cullet := { s.cullet with asked := s.cullet.asked.filter (· ≠ rid) } }

/-- An access to a lost package that the domain has fenced by a generation bump (R330). -/
def State.fenced (s : State) (p : Place) (c : Nat) (gen : BitVec 12) : Bool :=
  match p with
  | .remote pkg _ => s.lostPkgs.contains pkg && gen ≠ (s.ctx c).gen
  | _ => false

/-- Access `id` went to a package that the domain has since fenced by a generation bump (R330). -/
def State.askedLost (s : State) (id : Nat) : Bool :=
  s.fabricOut.any fun x => match x.2 with
    | .access _ i c gen _ _ => i = id && s.lostPkgs.contains x.1 && gen ≠ (s.ctx c.toNat).gen
    | _ => false

/-- STALE_GENERATION_REJECT (R219, R330, R375): a message, a part of a request, or an engine's access to a package fenced as lost. A write-back
tagged with a value its core has adopted and the homes have not waits at its home (log 96). -/
def execStaleGenerationReject (id lane : Nat) (s : State) : Out :=
  match aget s.net id with
  | some m =>
    if m.rejected.isNone && m.gid ≠ 0 && !s.msgHeld m && (s.msgFate m = .stale || s.fenced m.place m.ctx m.gen) then .next (s.staleMsg id) else .next s
  | none =>
    match aget s.reqs id with
    | none => .next (if s.askedLost id then s.answered id (.reject 0x07) else s)
    | some q =>
      match q.parts[lane]? with
      | none => .next s
      | some p =>
        if !p.settled && !q.atomic && !q.faulted && ((s.partFate q p = .stale && s.roundMet q p) || s.fenced p.place q.ctx p.gen) then .next (s.stalePart id lane q.gid)
        else .next s

/-! ## Flits (R328) -/

/-- The key under which the images of another package's write are awaited. -/
def ackKey (src id : Nat) : Nat := id * 256 + src

/-- A durable write for another package: answered once its images have been accepted (R347, R348). -/
def State.durableFor (s : State) (src id : Nat) (images : List Nat) : State :=
  if images.isEmpty then { s with fabricOut := s.fabricOut ++ [(src, .answer id .done)] }
  else { s with remoteAcks := aset s.remoteAcks (ackKey src id) (src, images) }

/-- A fragment written into an area (R416); the worlds may keep it out (R48, R50, log 82). -/
def State.fragWrite (s : State) (pa : Nat) (bytes : Option (List Byte)) (tag : BitVec 16) : List Nat × State :=
  if !s.lehrMay pa then ([], s.countWorldFault)
  else match bytes with
    | some bs => s.homeWrite pa (bs.map some) tag true
    | none => s.homePoison pa 4096 tag true

/-- A fragment of another member's shard is written into its area (R416), with the step tag of the member that sent it (R355). -/
def State.takeFragment (s : State) (src id pa : Nat) (bytes : Option (List Byte)) (tag : BitVec 16) : State :=
  let r := s.fragWrite pa bytes tag
  r.2.durableFor src id r.1

/-- What the fabric delivers (R312, R326, R333, R358, R416). -/
def State.deliverMsg (s : State) (m : FabricMsg) : State :=
  match m with
  | .access _ _ _ _ _ _ | .drained _ _ | .fragmentsAccepted _ _ => { s with fabricIn := s.fabricIn ++ [m] }
  | .answer id a => (s.answered id a).flushRemote
  | .coll c => { s with collIn := s.collIn ++ [c] }
  | .fragment src id pa bytes tag => s.takeFragment src id pa bytes tag
  | .roundAdopt src c i v =>
    let s1 := s.raiseRcl (remoteRcl src c.toNat i.toNat) v
    { s1 with fabricOut := s1.fabricOut ++ [(src, .roundAck s.self c i v)] }
  | .roundDemand _ c i need => { s with demand := ((c.toNat, i.toNat, need) :: s.demand).eraseDups }
  | .roundAck src c i v =>
    if s.advances.any fun a => a.ctx = c.toNat && a.region = i.toNat && a.to_ = v then s.ackAdvance c.toNat i.toNat (pkgIx src) else s

/-- A port. -/
def State.port (s : State) (p : Nat) : Port := (aget s.ports p).getD {}

/-- FLIT_RECEIVE (R328, R329): a flit that fails its check is retried and counted; a good one is delivered. A lost package does not answer (R413). -/
def execFlitReceive (port : Nat) (good : Bool) (msg : FabricMsg) (s : State) : Out :=
  let p := s.port port
  if 48 ≤ port || !p.up then .next s
  else if !good then .next { s with ports := aset s.ports port { p with retry := satSucc p.retry } }
  else
    let s1 := { s with ports := aset s.ports port { p with silentSince := s.cycle } }
    .next (if s.lost then s1 else s1.deliverMsg msg)

/-! ## Accesses of other packages (R327) -/

/-- The fate of an access of another package to [pa, pa + n) here. -/
def State.remoteFate (s : State) (c : Nat) (gen : BitVec 12) (pa n : Nat) (reads : Bool) : Fate :=
  match s.aperture pa with
  | .none | .ws _ => if gen ≠ (s.ctx c).gen then .stale else .bad 0x06
  | _ => s.fate c gen pa n reads

/-- The answer to an access goes back. -/
def State.replyTo (s : State) (src id : Nat) (a : RemoteAnswer) : State := { s with fabricOut := s.fabricOut ++ [(src, .answer id a)] }

/-- A line home here takes the counter that comes with a request for a region homed on another package, the higher of it and what it holds (R312). -/
def State.takeRcl (s : State) (c : Nat) (op : RemoteOp) : State :=
  match op with
  | .load _ (some n) => if n.home = s.self then s else s.raiseRcl (remoteRcl n.home c n.region.toNat) n.rc
  | _ => s

/-- The counter that the line homes here hold for a region meets the need (R319). -/
def State.remoteNeed (s : State) (c : Nat) (need : Option RemoteNeed) : Option Bool :=
  match need with
  | none => some false
  | some n =>
    match if n.home = s.self then s.regionValue c n.region.toNat else aget s.rcls (remoteRcl n.home c n.region.toNat) with
    | some v => if n.need.toNat ≤ v.toNat then some false else if n.now then some true else none
    | none => none

/-- How many bytes an access touches, and whether it reads. -/
def remoteLen : RemoteOp → Nat
  | .load n _ => n
  | .store bs _ _ => bs.length
  | .atomic _ ty _ _ _ => if ty = .b64 then 8 else 4
  | .roundReg _ _ | .roundArrive _ _ => 64
def remoteReads : RemoteOp → Bool
  | .store _ _ _ => false
  | _ => true

/-- A store of another package: bytes with none enabled are poison (R256). -/
def State.storeFor (s : State) (src id pa : Nat) (bytes : List (Option Byte)) (durable : Bool) (tag : BitVec 16) : State :=
  let r := if bytes.all Option.isNone then s.homePoison pa bytes.length tag durable else s.homeWrite pa bytes tag durable
  r.2.durableFor src id r.1

/-- An access served at its home. -/
def State.serveFor (s : State) (src id c pa : Nat) (op : RemoteOp) (stale : Bool) : State :=
  match op with
  | .load n _ =>
    let r := s.readHome pa n
    r.2.replyTo src id (.data r.1 stale)
  | .store bytes durable tag => s.storeFor src id pa bytes durable tag
  | .atomic k ty x y tag =>
    let n := if ty = .b64 then 8 else 4
    let r := s.readHome pa n
    let new := atomNew k ty (k = 8) (leDWord r.1) x y
    ((r.2.homeWrite pa ((leBytes n new.toNat).map some) tag false).2).replyTo src id (.data r.1 false)
  | .roundReg _ slot =>
    let r := s.regAt pa slot
    r.2.replyTo src id (.data (leBytes 8 r.1.toNat) false)
  | .roundArrive i slot =>
    let r := s.arriveAt c pa i.toNat slot
    r.2.replyTo src id (.data (leBytes 4 (r.1.getD 0).toNat) false)

/-- An earlier access of the same package to these bytes stands before it. -/
def accessBehind (before : List FabricMsg) (src pa : Nat) (op : RemoteOp) : Bool :=
  before.any fun m => match m with
    | .access s1 _ _ _ p1 o1 =>
      s1 = src && (!remoteReads o1 || !remoteReads op || (match o1 with
        | .atomic _ _ _ _ _ => true
        | _ => false)) && p1 < pa + remoteLen op && pa < p1 + remoteLen o1 &&
      (match o1 with
       | .load _ (some _) => false
       | _ => true)
    | _ => false

/-- An access that can be settled now is: rejected, or served. -/
def State.settleAccess (s : State) (src id : Nat) (c : BitVec 6) (gen : BitVec 12) (pa : Nat) (op : RemoteOp) : Option State :=
  let need := match op with
    | .load _ n => s.remoteNeed c.toNat n
    | _ => some false
  match need with
  | none => none
  | some stale =>
    let fate : Fate := match s.remoteFate c.toNat gen pa (remoteLen op) (remoteReads op), op with
      | .serve, .roundArrive _ _ => (match s.regionAt pa with
        | .valid _ => .serve
        | _ => .bad 0x06)
      | f, _ => f
    match fate with
    | .stale => some (s.replyTo src id (.reject 0x07))
    | .bad code => some (((s.touchFor (.home pa) (remoteLen op) code).noteWorld code).replyTo src id (.reject code))
    | .serve => if s.homeBusy pa then none else some (s.serveFor src id c.toNat pa op stale)

/-- The first access under `id` that can be settled. -/
def State.arriveFrom (s : State) (id : Nat) : List FabricMsg → List FabricMsg → State
  | _, [] => s
  | before, m :: rest =>
    match m with
    | .access src i c gen pa op =>
      if i ≠ id || accessBehind before src pa op then s.arriveFrom id (before ++ [m]) rest
      else (match ({ s with fabricIn := before ++ rest }.takeRcl c.toNat op).settleAccess src i c gen pa op with
        | some t => t
        | none => s.arriveFrom id (before ++ [m]) rest)
    | _ => s.arriveFrom id (before ++ [m]) rest

/-- REMOTE_ACCESS_ARRIVAL (R327): a lost package does not answer (R413). -/
def execRemoteAccessArrival (id : Nat) (s : State) : Out := if s.lost then .next s else .next (s.arriveFrom id [] s.fabricIn)

/-! ## Ports and packages (R328, R329, R413) -/

/-- Every fabric port is retired. -/
def State.allPortsRetired (s : State) : Bool := (List.range 48).all fun p => 2 < (s.port p).failed

/-- FABRIC_LANE_FAILURE (R328): a lane is retired; below 6 lanes the port is. -/
def execFabricLaneFailure (port : Nat) (s : State) : Out :=
  let p := s.port port
  if 48 ≤ port || 2 < p.failed then .next s
  else
    let n := if p.lanes ≤ 6 || p.failed = 2 then 0 else p.lanes - 1
    let q := { p with failed := p.failed + 1, lanes := n, up := p.up && n ≠ 0 }
    let s1 := { s with ports := aset s.ports port q }.tableChange (5, port, q.failed)
    let s2 := if q.lanes ≠ p.lanes || q.up ≠ p.up then s1.signal 2 else s1
    .next (if s2.allPortsRetired then { s2 with lost := true } else s2)

/-- FABRIC_PORT_STATE_CHANGE (R329): a link trains or goes down; a retired lane does not come back. -/
def execFabricPortStateChange (port lanes : Nat) (up : Bool) (peer pport : Nat) (s : State) : Out :=
  let p := s.port port
  if 48 ≤ port || !([0, 6, 7, 8].contains lanes) || 8 < lanes + p.failed || (2 < p.failed && lanes ≠ 0) || (up && lanes = 0) ||
      256 ≤ peer || 64 ≤ pport then .next s
  else
    let q := { p with lanes := lanes, up := up, peer := peer, pport := pport, trained := p.trained || up, silentSince := s.cycle }
    let s1 := { s with ports := aset s.ports port q }
    .next (if q.lanes ≠ p.lanes || q.up ≠ p.up then s1.signal 2 else s1)

/-- 10 ms (R413). -/
def silence : Nat := 17000000

/-- No flit has come from the package on any link for 10 ms. -/
def State.silentPkg (s : State) (pkg : Nat) : Bool :=
  let ps := s.ports.filter fun p => p.2.peer = pkg && p.2.lanes ≠ 0
  pkg ≠ s.self && !s.lostPkgs.contains pkg && !ps.isEmpty && ps.all fun p => p.2.silentSince + silence ≤ s.cycle

/-- A package is fenced as lost: a capture that waits for its "drained s" fails (R359); collective commands with it end when they next step
(R335). -/
def State.losePkg (s : State) (pkg : Nat) : State :=
  let l := s.lehr
  { s with
    lostPkgs := pkg :: s.lostPkgs
    lehr := if l.busy && l.fail = 0 && l.packages.contains pkg && !l.drained.contains pkg then { l with fail := 0x22 } else l }

/-- PACKAGE_LOST (R330, R413). -/
def execPackageLost (how : LostHow) (s : State) : Out :=
  match how with
  | .silent pkg => if s.silentPkg pkg then .next (s.losePkg pkg) else .next s
  | .localFailure => .next { s with lost := true }

end Sys2Proof.Machine
end

