-- ==== Sys2Proof/Machine/ECullet.lean ====
section
/-!
DEFINITION. The cullet: the erasure code (R415), encoding a captured step (R416), and rebuilding a lost member's shard (R417, R418).
-/
namespace Sys2Proof.Machine

/-! ## The field GF(2^8) (R415) -/

/-- The product by x, reduced modulo x^8 + x^4 + x^3 + x^2 + 1. -/
def gfDouble (a : Nat) : Nat := if 128 ≤ a then (2 * a) ^^^ 0x11D else 2 * a

/-- The product of `a` and the low `n` bits of `b`. -/
def gfMulBits : Nat → Nat → Nat → Nat
  | 0, _, _ => 0
  | n + 1, a, b => (if b % 2 = 1 then a else 0) ^^^ gfMulBits n (gfDouble a) (b / 2)

/-- The product. -/
def gfMul (a b : Nat) : Nat := gfMulBits 8 a b

/-- The power of exponent `n`. -/
def gfPow (a : Nat) : Nat → Nat
  | 0 => 1
  | n + 1 => gfMul a (gfPow a n)

/-- The inverse: the 254th power. -/
def gfInv (a : Nat) : Nat := gfPow a 254

/-- c(j, i) (R415). -/
def gfCoeff (j i : Nat) : Nat := gfInv ((12 + j) ^^^ i)

/-- Bytes of a fragment (R415). -/
def fragBytes : Nat := 4096

/-- The sum over terms (coefficient, bytes), byte by byte. -/
def gfCombine (terms : List (Nat × List Byte)) : List Byte :=
  terms.foldl (fun acc t =>
    let row := (List.range 256).map (gfMul t.1)
    List.zipWith (fun x y => x ^^^ BitVec.ofNat 8 (row.getD y.toNat 0)) acc t.2) (List.replicate fragBytes 0)

/-- Parity fragment 12 + j of twelve data fragments. -/
def parity (data : List (List Byte)) (j : Nat) : List Byte :=
  gfCombine ((List.range 12).map fun i => (gfCoeff j i, data.getD i []))

/-- A product of field elements. -/
def gfProd (l : List Nat) : Nat := l.foldl gfMul 1

/-- The entry of the inverse of the matrix c(j, i), over rows `js` and columns `ms`, at (i, j). -/
def gfInverse (js ms : List Nat) (i j : Nat) : Nat :=
  let x := fun k : Nat => 12 + k
  let excess := gfProd (ms.map fun k => x j ^^^ k) |> fun a => gfMul a (gfProd (js.map fun k => x k ^^^ i))
  let under := gfMul (x j ^^^ i) (gfMul (gfProd ((js.filter (· ≠ j)).map fun k => x j ^^^ x k)) (gfProd ((ms.filter (· ≠ i)).map fun k => i ^^^ k)))
  gfMul excess (gfInv under)

/-- The twelve data fragments from twelve or more fragments (number, bytes) of a stripe; none with fewer. -/
def decodeStripe (frags : List (Nat × List Byte)) : Option (List (List Byte)) :=
  let have_ := (List.range 16).filterMap fun f => (frags.find? fun x => x.1 = f && x.2.length = fragBytes)
  let data := have_.filter fun x => x.1 < 12
  let missing := (List.range 12).filter fun i => (data.all fun x => x.1 ≠ i)
  let par := (have_.filter fun x => 12 ≤ x.1).take missing.length
  if have_.length < 12 then none
  else
    let js := par.map fun x => x.1 - 12
    let sums := par.map fun x => (x.1 - 12, gfCombine ((1, x.2) :: data.map fun d => (gfCoeff (x.1 - 12) d.1, d.2)))
    some ((List.range 12).map fun i =>
      match data.find? fun x => x.1 = i with
      | some x => x.2
      | none => gfCombine (sums.map fun x => (gfInverse js missing i x.1, x.2)))

/-! ## Encoding (R416) -/

/-- The package of member `i`. -/
def Cullet.package (c : Cullet) (i : Nat) : Nat := bitsOf c.mempkg.toNat (8 * i + 7) (8 * i)

/-- How many stripes the shard has (R414, R415). -/
def State.stripeCount (s : State) : Nat := s.shardLen / stripeBytes

/-- The address of member `m`'s fragment of stripe `t` in area `k` (R416). -/
def State.fragAddr (s : State) (k m t : Nat) : Nat :=
  (if k = 0 then s.cullet.frag0.toNat else s.cullet.frag1.toNat) + s.shardLen / 12 * m + fragBytes * t

/-- The base of slot `k`. -/
def State.slotOf (s : State) (k : Nat) : Nat := if k = 0 then s.lehr.slot0.toNat else s.lehr.slot1.toNat

/-- Data fragment `i` of stripe `t` of the shard in slot `k`, padded with zeros (R415); none when it holds poison, or when
the worlds keep it from the cullet, which has the world of the captured context (R48, log 82). -/
def State.dataFragment (s : State) (k t i : Nat) : Option (List Byte) :=
  let o := stripeBytes * t + fragBytes * i
  let n := min fragBytes (s.lehr.liveLen.toNat + 256 - o)
  if n ≠ 0 && !s.lehrMay (s.slotOf k + o) then none
  else (s.homeRead (s.slotOf k + o) n).map fun bs => bs ++ List.replicate (fragBytes - n) 0

/-- Fragment `f` of a stripe with the given data. -/
def fragmentOf (data : List (Option (List Byte))) (f : Nat) : Option (List Byte) :=
  if f < 12 then data.getD f none
  else if data.all Option.isSome then some (parity (data.map fun d => d.getD []) (f - 12)) else none

/-- A fragment is written into this member's own area. -/
def State.keepFragment (s : State) (pa : Nat) (bytes : Option (List Byte)) : State :=
  let r := s.fragWrite pa bytes s.stepTag
  { r.2 with cullet := { r.2.cullet with wait := r.1 ++ r.2.cullet.wait } }

/-- Fragment `f` of stripe `t` is written to its member. -/
def State.writeFragment (s : State) (k t f : Nat) (bytes : Option (List Byte)) : State :=
  let m := s.cullet.member.toNat
  let pa := s.fragAddr k m t
  let pkg := s.cullet.package ((m + f) % 16)
  if pkg = s.self then s.keepFragment pa bytes
  else { s with
    fabricOut := s.fabricOut ++ [(pkg, .fragment s.self s.nextId pa bytes s.stepTag)]
    cullet := { s.cullet with asked := s.nextId :: s.cullet.asked }
    nextId := s.nextId + 1 }

/-- CULLET_ENCODE (R416 step 2): the fragments of a stripe of the captured step are written to the members. -/
def execCulletEncode (stripe : Nat) (s : State) : Out :=
  match s.cullet.encoding with
  | none => .next s
  | some st =>
    if s.stripeCount ≤ stripe || s.cullet.encoded.contains stripe then .next s
    else
      let k := st.toNat % 2
      let data := (List.range 12).map (s.dataFragment k stripe)
      let s1 := (List.range 16).foldl (fun x f => x.writeFragment k stripe f (fragmentOf data f)) s
      .next { s1 with cullet := { s1.cullet with encoded := stripe :: s1.cullet.encoded } }

/-- The report of member `p` for the step. -/
def reportsStep (st : DWord) (p : Nat) (m : FabricMsg) : Bool :=
  match m with
  | .fragmentsAccepted src x => src = p && x = st
  | _ => false

/-- PROTk := s, valid; the next captured step is encoded. -/
def Cullet.protect (c : Cullet) (st : DWord) : Cullet :=
  let v := st ||| 0x8000000000000000
  let c1 := { c with encoding := c.later.head?, later := c.later.drop 1, encoded := [], wait := [], asked := [], reported := false }
  if st.toNat % 2 = 0 then { c1 with prot0 := v } else { c1 with prot1 := v }

/-- CULLET_PROTECT (R416 step 3): this member reports its fragments once all are accepted; with every member's report the area protects
the step. -/
def execCulletProtect (s : State) : Out :=
  match s.cullet.encoding with
  | none => .next s
  | some st =>
    let c := s.cullet
    let others := (((List.range 16).map c.package).filter (· ≠ s.self)).eraseDups
    if !c.reported then
      (if c.encoded.length = s.stripeCount && c.wait.isEmpty && c.asked.isEmpty then
        .next { s with
          cullet := { c with reported := true }
          fabricOut := s.fabricOut ++ others.map fun p => (p, .fragmentsAccepted s.self st) }
       else .next s)
    else if others.all fun p => s.fabricIn.any (reportsStep st p) then
      .next { s with cullet := c.protect st, fabricIn := s.fabricIn.filter fun m => !others.any fun p => reportsStep st p m }
    else .next s

/-! ## Recovery (R414, R417, R418) -/

/-- RECOVERY_GO (R414, R417): a recovery that runs is not started again. -/
def execRecoveryGo (s : State) : Out :=
  let c := s.cullet
  if c.go || (c.serving && !c.done) then .next s
  else .next { s with cullet := { c with
    go := true, serving := false, done := false, failed := false, rebuilt := 0, stripes := [], failedStripes := [] } }

/-- The newest valid PROT step (R417). -/
def Cullet.newest (c : Cullet) : Option Nat :=
  match c.prot 0, c.prot 1 with
  | some a, some b => some (max a b)
  | some a, none => some a
  | none, b => b

/-- RECOVERY_SERVE (R417): the adopter takes the newest protected step and serves its shard. -/
def execRecoveryServe (s : State) : Out :=
  let c := s.cullet
  match c.newest with
  | some st =>
    if c.go then .next ({ s with cullet := { c with go := false, serving := true, serveStep := st } }.signal 3) else .next s
  | none => .next s

/-- Stripe `t` of the adopted shard, rebuilt by a `.ppkg` write, or poisoned. -/
def State.putStripe (s : State) (t : Nat) (data : Option (List (List Byte))) : State :=
  let pa := s.cullet.adoptBase.toNat + stripeBytes * t
  match data with
  | some ds =>
    let s1 := if s.lehrMay pa then (s.homeWrite pa (ds.flatten.map some) s.stepTag true).2 else s.countWorldFault
    { s1 with cullet := { s1.cullet with stripes := t :: s1.cullet.stripes, rebuilt := s1.cullet.rebuilt + 1 } }
  | none =>
    let s1 := (s.homePoison pa stripeBytes s.stepTag true).2
    let s2 := { s1 with cullet := { s1.cullet with failed := true, failedStripes := t :: s1.cullet.failedStripes } }
    if s.cullet.failed then s2 else s2.signal 3

/-- The member that holds fragment `f` of the lost member's stripes (R416). -/
def Cullet.holder (c : Cullet) (f : Nat) : Nat := (c.lost.toNat + f) % 16

/-- The adopter's own fragment of stripe `t` of the lost member's shard, read from its area (R416, R418). -/
def State.ownFragment (s : State) (t : Nat) : List (Nat × List Byte) :=
  let c := s.cullet
  match (List.range 16).find? fun f => c.holder f = c.member.toNat with
  | none => []
  | some f => match s.homeRead (s.fragAddr (c.serveStep % 2) c.lost.toNat t) fragBytes with
    | some bs => [(f, bs)]
    | none => []

/-- The surviving fragments of stripe `t` (R418): the adopter's own, and those that other members have sent, of which none stands on the lost
member or on another lost package. -/
def State.survivors (s : State) (t : Nat) (fragments : List (Nat × List Byte)) : List (Nat × List Byte) :=
  let c := s.cullet
  s.ownFragment t ++ fragments.filter fun x =>
    let m := c.holder x.1
    x.1 < 16 && m ≠ c.member.toNat && m ≠ c.lost.toNat && !s.lostPkgs.contains (c.package m)

/-- Some access may wait for stripe `t` (R418): one that stands at its home, one of another package, or one of a running engine. -/
def State.stripeWanted (s : State) (t : Nat) : Bool :=
  let in_ := fun pa : Nat => s.cullet.adoptBase.toNat ≤ pa && (pa - s.cullet.adoptBase.toNat) / stripeBytes = t
  (s.net.any fun m => match m.2.place with
    | .home pa => in_ pa
    | _ => false) ||
  (s.reqs.any fun q => q.2.parts.any fun p => match p.place with
    | .home pa => in_ pa
    | _ => false) ||
  (s.fabricIn.any fun m => match m with
    | .access _ _ _ _ pa _ => in_ pa
    | _ => false) || !s.copies.isEmpty || !s.streams.isEmpty || !s.colls.isEmpty

/-- Every stripe before `t` has been rebuilt or has failed (R417). -/
def State.sweptTo (s : State) (t : Nat) : Bool :=
  (List.range t).all fun i => (s.cullet.stripes ++ s.cullet.failedStripes).contains i

/-- STRIPE_REBUILD (R417, R418): a stripe, in ascending order or because an access waits for it, is rebuilt from the surviving fragments; fewer than
twelve set FAILED. -/
def execStripeRebuild (stripe : Nat) (fragments : List (Nat × List Byte)) (s : State) : Out :=
  let c := s.cullet
  if !c.serving || c.done || s.stripeCount ≤ stripe || (c.stripes ++ c.failedStripes).contains stripe ||
      !(s.sweptTo stripe || s.stripeWanted stripe) then .next s
  else .next (s.putStripe stripe (decodeStripe (s.survivors stripe fragments)))

/-- REBUILD_DONE (R417): every stripe is rebuilt. -/
def execRebuildDone (s : State) : Out :=
  let c := s.cullet
  if !c.serving || c.done || c.stripes.length ≠ s.stripeCount then .next s
  else .next ({ s with cullet := { c with done := true } }.signal 3)

end Sys2Proof.Machine
end

