-- ==== Sys2Proof/Machine/EFail.lean ====
section
/-!
DEFINITION. Fail-operational service: the patrol scrubber (R398), the retirement of cores (R405), L2 slices (R406), pseudo-channels (R407) and
compute dies (R410, R411), and the retirement tables (R402).
-/
namespace Sys2Proof.Machine

/-- PATROL_SCRUB (R398): an ECC word of HBM4E or of the tier is read, and a correction is written back. -/
def execPatrolScrub (word : Nat) (s : State) : Out :=
  let pa := 32 * word
  if pa < s.hbmSize || (tierBase ≤ pa && pa < tierEnd) then .next (s.eccServe pa) else .next s

/-! ## Entries of the retirement tables (R402) -/

/-- Entries: a core, an L2 slice, the switch to 480 slices, a compute die, a pseudo-channel. -/
def entryCore (k : CoreKey) : Nat × Nat × Nat := (0, k.die, 16 * k.row + k.col)
def entrySlice (die slice : Nat) : Nat × Nat × Nat := (1, die, slice)
def entry480 (die : Nat) : Nat × Nat × Nat := (2, die, 0)
def entryDie (die : Nat) : Nat × Nat × Nat := (3, die, 0)
def entryChannel (stack n : Nat) : Nat × Nat × Nat := (4, stack, n)

/-! ## Lines written poisoned (R406, R410) -/

/-- An image accepted at once. -/
def State.acceptNow (s : State) (x : Image) : State :=
  let s1 := s.makeRoom (granuleDie x.granule)
  { s1 with wbq := s1.wbq ++ [x], images := s1.images.erase x }.settleImage x.id

/-- The granule as it stands accepted by the WBQ, after the images of it that were on their way. -/
def State.imageNow (s : State) (g : Nat) : State :=
  let s1 := (s.images.filter fun x => x.granule = g).foldl State.acceptNow s
  let r := s1.sendImage g
  match r.2.images.find? fun x => x.id = r.1 with
  | some x => r.2.acceptNow x
  | none => r.2

/-- A 128-byte line poisoned at its memory; a line of the tier as accepted images. -/
def State.loseLine (s : State) (ln : Nat) : State :=
  let s1 := (List.range 4).foldl (fun st i => st.poisonWord (128 * ln + 32 * i)) s
  let s2 := { s1 with l2dirty := s1.l2dirty.filter (· ≠ ln), l2tierDirty := s1.l2tierDirty.filter fun g => g / 2 ≠ ln }
  if tierBase ≤ 128 * ln && 128 * ln < tierEnd then (s2.imageNow (2 * ln)).imageNow (2 * ln + 1) else s2

/-- Every dirty line of which `f` holds is lost. -/
def State.loseLines (s : State) (f : Nat → Bool) : State :=
  (((s.l2dirty ++ s.l2tierDirty.map (· / 2)).eraseDups).filter f).foldl State.loseLine s

/-! ## Groups whose core is gone (R405) -/

/-- A group parks with fault 0x0D; its quarantined effects are lost. One that was parked parks anew, since only KILL applies to it now. -/
def State.parkDead (s : State) (gid : Nat) : State :=
  match aget s.groups gid with
  | none => s
  | some g =>
    if g.done then s
    else (((s.discard gid fun _ => true).modGroup gid fun x => { x with park := none, striking := false, staleWait := false }).takeCause gid
      { code := 0x0D, pc := g.spc } false)

/-- The teams that stand on cores of which `f` holds. -/
def State.standing (s : State) (f : CoreKey → Bool) : List (Nat × Team) :=
  s.teams.filter fun t => !t.2.retired && t.2.frame.isNone && f t.2.core

/-- The teams lose their scratchpad, their groups park. -/
def State.loseTeams (s : State) (ts : List (Nat × Team)) : State :=
  ts.foldl (fun st t => t.2.groups.foldl State.parkDead (st.modTeam t.1 fun x => { x with lost := true })) s

/-! ## Compute dies (R410, R411) -/

/-- The first die in service of a list. -/
def State.firstServing (s : State) (ds : List Nat) : Option Nat := ds.find? fun d => (s.die d).inService

/-- SIB of a retired die (R411). -/
def State.sibOf (s : State) (d : Nat) : Nat :=
  let q := d / 4
  (s.firstServing (((List.range 3).map fun i => 4 * q + (d + i + 1) % 4) ++ (List.range 16).map fun i => (4 * (q + 1) + i) % 16)).getD d

/-- The die is out of service, and every retired die is homed anew. -/
def State.retireDie (s : State) (d : Nat) : State :=
  let s1 := s.modDie d fun x => { x with inService := false, width := 0, renumber := false, tlb := [] }
  { s1 with
    dies := s1.dies.map fun x => if x.2.inService then x else (x.1, { x.2 with sib := s1.sibOf x.1 })
    cores := s1.cores.map fun k => if k.1 / 160 = d then (k.1, { dead := true }) else k
    rcls := s1.rcls.filter fun x => 2 ^ 48 ≤ x.1 || x.1 / 512 % 16 ≠ d
    advances := s1.advances.map fun a => { a with homes := a.homes.filter fun h => h / 512 ≠ d } }

/-- A collective command of a lost group contributes as a discarded one (R336, R410). -/
def State.discardColl (s : State) (id : Nat) (c : Coll) : State :=
  match c.kind with
  | .xmar =>
    if c.stage = 0 then (s.dropPieces c).setColl id { c with stage := 1, disc := true, faults := [], psn := false }
    else if c.stage = 1 && !c.disc then (s.dropPieces c).setColl id { c with disc := true }
    else s
  | .xred =>
    if c.stage = 0 then
      (s.setColl id { c with
        disc := true, asked := [], faults := [], psn := false
        inputs := (List.range (xredCount c.args)).map fun e => (e, some (xredIdentity c.args)) }).sendValues id
    else if c.stage = 1 then s.setColl id { c with disc := true }
    else s
  | .xnorm => if c.stage = 0 then (s.setColl id { c with disc := true, asked := [], faults := [], flag := false }).sendNorm id else s
  | .xbar => if c.stage = 0 then (s.tellAll c .released).setColl id { c with disc := true, stage := 1 } else s

/-- Dies in service. -/
def State.servingDies (s : State) : Nat := ((List.range 16).filter fun d => (s.die d).inService).length

/-- What the cores of a die had in flight is lost with it (R410): its messages and write-backs count as arrived for releases and are awaited by
nobody, its loads and transfers answer nothing. -/
def State.dropFlight (s : State) (d : Nat) : State :=
  let gone := (s.teams.filter fun t => t.2.frame.isNone && t.2.core.die = d).flatMap fun t => t.2.groups
  let dead := fun i => s.cmdStarted i && (aget s.colls i).isNone
  { s with
    net := s.net.filter fun x => x.2.core.die ≠ d
    rels := s.rels.filter fun x => x.2.core.die ≠ d
    reqs := s.reqs.filter fun x => x.2.core.die ≠ d
    copies := s.copies.filter fun x => x.2.core.die ≠ d
    streams := s.streams.filter fun x => x.2.core.die ≠ d
    batches := s.batches.filter fun x => !gone.contains x.2.gid
    cmds := s.cmds.filter fun x => !(dead x.1 && s.groups.any fun g => gone.contains g.1 && (g.2.mq.contains x.1 || g.2.cq.contains x.1))
    groups := s.groups.map fun g =>
      if gone.contains g.1 then (g.1, { g.2 with
        mq := g.2.mq.filter fun i => !dead i, cq := g.2.cq.filter fun i => !dead i, quar := [], rejected := [], openBatch := 0 }) else g }

/-- The stages of R410. -/
def State.loseDie (s : State) (d : Nat) : State :=
  let ts := s.standing fun k => k.die = d
  let gone := ts.flatMap fun t => t.2.groups
  let s1 := (s.colls.filter fun c => gone.contains c.2.gid).foldl (fun st c => st.discardColl c.1 c.2) (s.loseTeams ts)
  let s2 := ((s1.dropFlight d).loseLines fun ln => s.homeDie (128 * ln) = d).retireDie d
  let s3 := (s2.ctxs.filter fun c => c.2.en).foldl (fun st c => st.bumpCtx c.1) s2
  let s4 := (s3.tableChange (entryDie d)).refit
  if s4.servingDies < 12 then { s4 with lost := true } else s4

/-- DIE_LOSS (R410, R413). -/
def execDieLoss (die : Nat) (s : State) : Out :=
  if 16 ≤ die || !(s.die die).inService then .next s else .next (s.loseDie die)

/-! ## Cores (R405) -/

/-- Dead cores of the row with most of them (R63). -/
def Die.worstRow (d : Die) : Nat :=
  (List.range 10).foldl (fun m row => max m ((d.dead.filter fun x => x.2 = row).eraseDups).length) 0

/-- A pair whose follower array stood on the core leaves its leader with its own array, unlatched. -/
def State.dropFollower (s : State) (k : CoreKey) : State :=
  match (s.core k).array with
  | some a =>
    if a.follower then
      { s with cores := s.cores.map fun c => (c.1, { c.2 with
          array := if c.1 = coreIx k then none else c.2.array.map fun x => if x.owner = a.owner then { x with tile := none } else x }) }
    else s
  | none => s

/-- CORE_RETIRE (R405): what its L1 holds dirty has been released and is written back. A die that cannot keep twelve columns is retired whole
(R63, R410). -/
def execCoreRetire (core : CoreKey) (s : State) : Out :=
  if 16 ≤ core.die || 16 ≤ core.col || 10 ≤ core.row || (s.core core).dead || !(s.die core.die).inService then .next s
  else
    let ts := s.standing fun k => k = core
    let s1 := s.loseTeams ts
    let s2 := (s1.core core).l1.foldl (fun st x => st.writeBackLine core x (st.genStamp core x.ctx)) s1
    let s3 := (s2.dropFollower core).modCore core fun k => { k with l1 := [], tlb := [], code := [], dead := true }
    let s4 := s3.modDie core.die fun d => { d with dead := (core.col, core.row) :: d.dead, renumber := true }
    if 4 < (s4.die core.die).worstRow then .next (s4.loseDie core.die) else .next (s4.tableChange (entryCore core)).refit

/-! ## L2 slices (R406) -/

/-- L2_SLICE_FAILURE (R406): the slice's dirty lines are lost, a spare takes its number; a die with more than 48 retired slices is retired
whole. -/
def execL2SliceFailure (die slice : Nat) (s : State) : Out :=
  let d := s.die die
  if 16 ≤ die || !d.inService || (if d.n480 then 480 else 512) ≤ slice then .next s
  else
    let s1 := s.loseLines fun ln => s.homeDie (128 * ln) = die && s.homeSlice (128 * ln) = slice
    let s2 := s1.modDie die fun x => { x with sdead := x.sdead + 1 }
    if 48 < (s2.die die).sdead then .next (s2.loseDie die) else .next (s2.tableChange (entrySlice die slice))

/-- SLICE_480_SWITCH (R406): with the spares exhausted and no advance between its steps 2 and 3, every dirty line of the die is written back,
N becomes 480 and the copies of round counters are dropped. -/
def execSlice480Switch (die : Nat) (s : State) : Out :=
  let d := s.die die
  if 16 ≤ die || !d.inService || d.n480 || d.sdead < 16 || !s.advances.isEmpty then .next s
  else
    let r := s.flushTier fun g => s.homeDie (64 * g) = die
    let s1 := { r.2 with
      l2dirty := r.2.l2dirty.filter fun ln => s.homeDie (128 * ln) ≠ die
      rcls := r.2.rcls.filter fun x => 2 ^ 48 ≤ x.1 || x.1 / 512 % 16 ≠ die }
    .next ((s1.modDie die fun x => { x with n480 := true }).tableChange (entry480 die))

/-! ## Pseudo-channels (R407) -/

/-- HBMSIZE for `q` retired pseudo-channels (R407). -/
def hbmSizeFor (q : Nat) : Nat := 33554432 * (32768 * (192 - q) / 192)

/-- PSEUDO_CHANNEL_FAILURE (R407): the 128-byte lines that stood on it are poisoned, but for those that L2 holds dirty; HBMSIZE shrinks; a
stack with more than 16 loses the package. -/
def execPseudoChannelFailure (stack : Nat) (lines : List Nat) (s : State) : Out :=
  if 16 ≤ stack then .next s
  else
    let n := (aget s.pcdead stack).getD 0 + 1
    let pcd := aset s.pcdead stack n
    let q := pcd.foldl (fun m x => max m x.2) 0
    let size := min s.hbmSize (hbmSizeFor q)
    let hit := lines.filter fun ln => 128 * ln < size && !s.l2dirty.contains ln
    let s1 := hit.foldl (fun st ln => (List.range 4).foldl (fun x i => x.poisonWord (128 * ln + 32 * i)) st) s
    .next { s1.tableChange (entryChannel stack n) with pcdead := pcd, hbmSize := size, lost := s.lost || decide (16 < n) }

/-! ## Tables (R402) -/

/-- The gaffer begins to write the table of the oldest change that has no record (R402): signed while leaves are left, else marked as an
extension. Until the WBQ has accepted it the copy is not whole. -/
def State.writeTable (s : State) : State :=
  let t := s.tables
  let signed := decide (s.mbox.tableLeaf < keyLeaves)
  let entries := t.entries.take (t.entries.length + 1 - s.cfgPending)
  let b := t.target signed
  let c : TableCopy := { gen := s.cfggen + 1, signed := signed, entries := entries }
  let c1 := if signed then { c with sig := Config.xmssSign s.mbox.tableLeaf c.bytes } else c
  { s with
    tables := { t.put b { (if b then t.b else t.a) with whole := false } with writing := some (b, c1) }
    mbox := { s.mbox with tableLeaf := if signed then s.mbox.tableLeaf + 1 else s.mbox.tableLeaf } }

/-- RETIREMENT_TABLE_UPDATE (R402): the new table is written; once the WBQ has accepted it, it is in use, CFGGEN rises and source 0 signals. -/
def execRetirementTableUpdate (s : State) : Out :=
  match s.tables.writing with
  | none => if s.cfgPending = 0 then .next s else .next s.writeTable
  | some (b, c) =>
    .next ({ s with
      tables := { s.tables.put b c with useB := b, writing := none }
      cfggen := c.gen
      cfgPending := s.cfgPending - 1 }.signal 0)

end Sys2Proof.Machine
end

