-- ==== Sys2Proof/Machine/LCvt.lean ====
section
/-!
DEFINITION. Lane conversions (R194, R199), packing (R195, R196), NQ4 (R197) and rhash (R198).
-/
namespace Sys2Proof.Machine

/-- The element width of a packed type (R116). -/
def elemWidth : LTy → Nat
  | .bf16x2 => 16
  | .f8e4x4 | .f8e5x4 | .i8x4 | .n8x4 => 8
  | .nq4x8 => 4
  | _ => 32

/-- The floating format of a type code (R101). -/
def fmtOfCode : Nat → Fmt
  | 4 => fmtBf16
  | 5 => fmtF8e4
  | 6 => fmtF8e5
  | _ => fmtF32

/-- The elements that `cvt` moves (R194): source index, destination index. -/
def cvtMoves (dst src e : Nat) : List (Nat × Nat) :=
  match dst, src with
  | 5, 4 | 6, 4 => [(0, e), (1, e + 1)]
  | 6, 5 | 5, 6 => [(0, 0), (1, 1), (2, 2), (3, 3)]
  | 4, 5 | 4, 6 => [(e, 0), (e + 1, 1)]
  | 3, _ => [(e, 0)]
  | _, _ => [(0, e)]

/-- One element of `a` narrowed or widened into `acc`. -/
def cvtElem (f : LF) (x : DWord) (l dst src : Nat) (a : Word) (acc : Conv) (mv : Nat × Nat) : Conv :=
  let sf := fmtOfCode src
  let df := fmtOfCode dst
  let v := sf.decode (elemOf sf.width a mv.1)
  let r := df.narrow (rndOf f x l mv.2 (discarded sf df v)) (satOf f) v
  { val := putElem df.width acc.val mv.2 r.1, ovfl := acc.ovfl || r.2 }

/-- `cvt` (R194). The elements that it does not move are kept. -/
def execLCvt (f : LF) (s : State) : Out :=
  let dst := f.ty.code
  let src := bitsOf f.fields 16 13
  laneConv s f (needOf f { d := true, a := true } false false false false) fun c x l =>
    (cvtMoves dst src (f.fields % 4)).foldl (cvtElem f x l dst src (c.a32 f l)) { val := (c.who.g.lane l).get f.d.toNat }

/-- The low bits of a source of `pack`, clamped under SAT. -/
def packElem (f : LF) (x : Word) : Nat :=
  let w := elemWidth f.ty
  if f.mod5.getLsbD 2 then
    (match f.ty with
     | .i8x4 => (BitVec.ofInt 8 (satTo .i8x4 true x.toInt)).toNat
     | _ => (BitVec.ofInt 8 (satTo .n8x4 true x.toNat)).toNat)
  else x.toNat % 2 ^ w

/-- `pack` (R195): elements 2q and 2q + 1. -/
def execLPack (f : LF) (s : State) : Out :=
  let w := elemWidth f.ty
  let q := f.mod5.toNat % 4
  laneWrite s f (needOf f { d := true, a := true, b := true } false false false false) fun c l =>
    putElem w (putElem w ((c.who.g.lane l).get f.d.toNat) (2 * q) (packElem f (c.a32 f l))) (2 * q + 1) (packElem f (c.b32 f l))

/-- `unpk` (R196). -/
def execLUnpk (f : LF) (s : State) : Out :=
  laneWrite s f (needOf f { d := true, a := true } false false false false) fun c l =>
    let v := elemOf (elemWidth f.ty) (c.a32 f l) (f.mod5.toNat % 8)
    if f.ty = .i8x4 then BitVec.ofInt 32 (sextI v 8) else w32 v

/-! ## NQ4 (R197) -/

def execLNqscl (f : LF) (s : State) : Out :=
  laneConv s f (needOf f { d := true, a := true, b := true } false false false false) fun c _ l =>
    let r := nqScale (c.a32 f l &&& 0x7FFFFFFF) (c.b32 f l)
    { val := w32 r.1, nval := r.2 }

def execLNqenc (f : LF) (s : State) : Out :=
  laneIssue s f (needOf f { d := true, a := true, b := true, c := true } false false false false) fun c =>
    let rs := c.act.map fun l => (l, nqEncode (c.a32 f l) ((c.b32 f l).toNat % 256) (c.c32 f l))
    let g1 := rs.foldl (fun g x =>
      let y := g.lane x.1
      g.setLane x.1 (y.put f.d.toNat (putElem 4 (y.get f.d.toNat) (f.mod5.toNat % 8) x.2.1))) c.who.g
    s.laneNext c (g1.raiseNval s.cycle (rs.any fun x => x.2.2))

def execLNqdec (f : LF) (s : State) : Out :=
  laneWrite s f (needOf f { d := true, a := true, b := true, c := true } false false false false) fun c l =>
    nqDecode (elemOf 4 (c.a32 f l) (f.mod5.toNat % 8)) ((c.b32 f l).toNat % 256) (c.c32 f l)

/-! ## Random bits (R198, R199) -/

def execLRhash (f : LF) (s : State) : Out :=
  laneWrite64 s f (needOf f { d := true, a := true, b := true, c := true } true true false false) fun c l =>
    let y := c.who.g.lane l
    let r := rhash (c.b32 f l) (c.c32 f l) (y.get f.a.toNat) (y.get (f.a.toNat + 1))
    r.2 ++ r.1

/-- `srbits` (R199): the top bits of B stand for the random word; the generator does not step. -/
def execLSrbits (f : LF) (s : State) : Out :=
  let df := fmtOfCode f.ty.code
  let e := f.mod5.toNat % 4
  laneIssue s f (needOf f { d := true, a := true, b := true } false false false false) fun c =>
    let rs := c.act.map fun l =>
      let v := f32 (c.a32 f l)
      (l, df.narrow (.sr ((c.b32 f l) ++ (0 : Word)) (bitsOf f.fields 12 8) (discarded fmtF32 df v)) (satOf f) v)
    let g1 := rs.foldl (fun g x =>
      let y := g.lane x.1
      g.setLane x.1 (y.put f.d.toNat (putElem df.width (y.get f.d.toNat) e x.2.1))) c.who.g
    s.laneNext c (g1.raiseOvfl s.cycle (rs.any fun x => x.2.2))

end Sys2Proof.Machine
end

