-- ==== Sys2Proof/Machine/LPred.lean ====
section
/-!
DEFINITION. Lane predicate instructions (R178 to R180).
-/
namespace Sys2Proof.Machine

/-- A COND B (R179): equality, order and NaN tests. -/
def condHolds (cond : Nat) (eq lt nan : Bool) : Bool :=
  match cond with
  | 0 => eq
  | 1 => !eq
  | 2 => lt
  | 3 => lt || eq
  | 4 => !nan && !lt && !eq
  | 5 => !nan && !lt
  | 6 => nan
  | _ => !nan

/-- The comparison of two values of a type. -/
def compareTy (ty : LTy) (cond : Nat) (a b : Word) : Bool :=
  if ty = .f32 then
    condHolds cond (Fp.eq (f32 a) (f32 b)) (Fp.lt (f32 a) (f32 b)) ((f32 a).isNan || (f32 b).isNan)
  else condHolds cond (a = b) (intOf ty a < intOf ty b) false

/-- The combination of a comparison with p[C] (R179). -/
def combineP (op : Nat) (x p : Bool) : Bool :=
  match op with
  | 0 => x
  | 1 => x && p
  | 2 => x || p
  | _ => xor x p

def execLCmp (f : LF) (s : State) : Out :=
  lanePred s f (needOf f { a := true, b := true } false false false false) (pField f 0) fun c l =>
    combineP (f.mod5.toNat / 8) (compareTy f.ty (f.mod5.toNat % 8) (c.a32 f l) (c.b32 f l)) ((c.who.g.lane l).pget (pField f 5))

/-- A predicate from two predicates with optional negations (R180). -/
def pred2 (s : State) (f : LF) (op : Bool → Bool → Bool) : Out :=
  lanePred s f {} (pField f 0) fun c l =>
    op (xor ((c.who.g.lane l).pget (pField f 5)) (f.mod5.getLsbD 0)) (xor ((c.who.g.lane l).pget (pField f 10)) (f.mod5.getLsbD 1))

def execLPand (f : LF) (s : State) : Out := pred2 s f fun x y => x && y
def execLPor (f : LF) (s : State) : Out := pred2 s f fun x y => x || y
def execLPxor (f : LF) (s : State) : Out := pred2 s f xor
def execLPnot (f : LF) (s : State) : Out := lanePred s f {} (pField f 0) fun c l => !(c.who.g.lane l).pget (pField f 5)
def execLPset (f : LF) (s : State) : Out := lanePred s f {} (pField f 0) fun _ _ => f.mod5.getLsbD 0

/-- `ptov` (R180): one predicate, or all 24. -/
def execLPtov (f : LF) (s : State) : Out :=
  laneWrite s f (needOf f { d := true } false false false false) fun c l =>
    if f.mod5.getLsbD 0 then (c.who.g.lane l).preds.setWidth 32
    else if (c.who.g.lane l).pget (pField f 5) then 1 else 0

/-- `vtop` (R180): one predicate, or all 24. -/
def execLVtop (f : LF) (s : State) : Out :=
  let n := needOf f { a := true } false false false false
  if f.mod5.getLsbD 0 then
    laneIssue s f n fun c => s.laneNext c (c.who.g.mapLanes c.act fun l x => { x with preds := (c.a32 f l).setWidth 24 })
  else lanePred s f n (pField f 0) fun c l => c.a32 f l ≠ 0

end Sys2Proof.Machine
end

