-- ==== Sys2Proof/Machine/SFp.lean ====
section
/-!
DEFINITION. Scalar FP32 (R139): operands from bits [31:0], rounding RNE, no flag, no trap on a value.
-/
namespace Sys2Proof.Machine

/-- Bits [31:0] of a scalar register. -/
def Group.s32 (g : Group) (r : SReg) : Word := (g.sget r).setWidth 32

/-- A scalar FP32 instruction with an f32 result: s[d][63:32] := 0. -/
def sfp2 (s : State) (d a b : SReg) (op : Word → Word → Word) : Out :=
  sIssue s [a, b, d] fun gid g => sWrite s gid g d ((op (g.s32 a) (g.s32 b)).setWidth 64)

def execFadd (d a b : SReg) (s : State) : Out := sfp2 s d a b fun x y => round32 .rne (Fp.add false (f32 x) (f32 y))
def execFsub (d a b : SReg) (s : State) : Out := sfp2 s d a b fun x y => round32 .rne (Fp.add false (f32 x) (f32 y).neg)
def execFmul (d a b : SReg) (s : State) : Out := sfp2 s d a b fun x y => round32 .rne (Fp.mul (f32 x) (f32 y))
def execFdiv (d a b : SReg) (s : State) : Out := sfp2 s d a b fun x y => round32 .rne (Fp.div (f32 x) (f32 y))
def execFmin (d a b : SReg) (s : State) : Out := sfp2 s d a b fun x y => w32 (minNum fmtF32 x.toNat y.toNat)
def execFmax (d a b : SReg) (s : State) : Out := sfp2 s d a b fun x y => w32 (maxNum fmtF32 x.toNat y.toNat)

/-- `fmac`: d + a · b, rounded once; s[d] is a source too. -/
def execFmac (d a b : SReg) (s : State) : Out :=
  sIssue s [a, b, d] fun gid g =>
    sWrite s gid g d ((round32 .rne (Fp.add false (f32 (g.s32 d)) (Fp.mul (f32 (g.s32 a)) (f32 (g.s32 b))))).setWidth 64)

def execFsqrt (d a : SReg) (s : State) : Out := unary s d a fun x => (round32 .rne (f32 (x.setWidth 32)).sqrt).setWidth 64

/-- `fcvt.i`: to i64, rounded RNE and clamped; NaN gives 0. -/
def execFcvtI (d a : SReg) (s : State) : Out :=
  unary s d a fun x => dwI (toIntClamp .rne (-9223372036854775808) 9223372036854775807 (f32 (x.setWidth 32)))

/-- `icvt.f`: from the full 64 bits as i64. -/
def execIcvtF (d a : SReg) (s : State) : Out := unary s d a fun x => (round32 .rne (fpOfInt x.toInt)).setWidth 64

/-- A comparison of two f32 values, 1 or 0. -/
def sfpCmp (s : State) (d a b : SReg) (op : Fp → Fp → Bool) : Out :=
  sIssue s [a, b, d] fun gid g => sWrite s gid g d (bit01 (op (f32 (g.s32 a)) (f32 (g.s32 b))))

def execFlt (d a b : SReg) (s : State) : Out := sfpCmp s d a b Fp.lt
def execFeq (d a b : SReg) (s : State) : Out := sfpCmp s d a b Fp.eq

end Sys2Proof.Machine
end

