-- ==== Sys2Proof/Machine/SSync.lean ====
section
/-!
DEFINITION. Fences and barrier instructions of the S-stream (R289, R290, R293, R298, R299, R302).
-/
namespace Sys2Proof.Machine

/-! ## Fences -/

/-- The S-stream's earlier reads have been performed (R294, R299). -/
def State.sReadsDone (s : State) (gid : Nat) : Bool :=
  s.reqs.all fun p => p.2.gid ≠ gid || p.2.lane || p.2.parts.all Part.settled

/-- `fence.rel` (R293, R298): the stream goes on when the release has completed. -/
def execFenceRel (scope : Scope) (s : State) : Out :=
  sIssueWho s [] fun w => s.sRelease w scope fun st g => .next (st.setGroup w.gid (g.leaveRelease scope).next)

/-- `fence.acq` (R293, R299): after the stream's earlier reads. -/
def execFenceAcq (scope : Scope) (s : State) : Out :=
  sIssueWho s [] fun w =>
    if s.sReadsDone w.gid then .next ((s.acquire w.core w.ctx scope).setGroup w.gid w.g.next)
    else s.sStall w.gid w.g .none 0

/-- `fence.ar` (R302): a release, then an acquire; a release has performed the stream's reads too. -/
def execFenceAr (scope : Scope) (s : State) : Out :=
  sIssueWho s [] fun w =>
    s.sRelease w scope fun st g => .next ((st.acquire w.core w.ctx scope).setGroup w.gid (g.leaveRelease scope).next)

/-! ## Barriers -/

/-- The barrier that s[a] names (R290): bits [63:32] zero and the checks of the address; its team and offset. -/
def State.sBar (s : State) (w : Who) (a : SReg) : Option (Nat × Nat) :=
  let v := w.g.sget a
  if dbits v 63 32 ≠ 0 then none else s.barResolve w (dbits v 31 0)

/-- The message of a barrier update of the S-stream. -/
def State.barMsg (s : State) (w : Who) (k : MsgKind) (a : SReg) (at_ : Nat × Nat) : Msg :=
  { kind := k, gid := w.gid, core := w.core, ctx := w.ctx, gen := s.genStamp w.core w.ctx, ea := w.g.sget a
    place := .scratch at_.1 at_.2, pc := w.g.spc, issue := s.nextId }

/-- A barrier update that returns nothing: checked, quarantined, done for the stream (R290). -/
def sBarUpdate (s0 : State) (a b : SReg) (bad : DWord → Bool) (k : DWord → MsgKind) : Out :=
  sStoring s0 [a, b] fun s w =>
    if bad (w.g.sget b) then sTrap s w.gid w.g 0x01 0 0
    else match s.sBar w a with
      | none => sTrap s w.gid w.g 0x06 0 (w.g.sget a)
      | some p =>
        .next { (s.setGroup w.gid (w.g.enterS s.cycle [.msg (s.barMsg w (k (w.g.sget b)) a p)]).1.sWrote.next) with nextId := s.nextId + 1 }

/-- `binit`: a nonzero s[b][63:36] or a SCOPE of 7 is illegal. -/
def execBinit (a b : SReg) (s : State) : Out :=
  sBarUpdate s a b (fun v => dbits v 63 36 ≠ 0 || dbits v 34 32 = 7) .barInit

def execBexp (a b : SReg) (s : State) : Out := sBarUpdate s a b (fun _ => false) .barArm

/-- `barr` (R289, R290): a release at FLAGS.SCOPE when it leaves the quarantine, then the arrival; with d ≠ 0 a producer and a returning
instruction (R384). -/
def execBarr (d a : SReg) (s0 : State) : Out :=
  sStoring s0 [a, d] fun s w =>
    let g := w.g
    match s.sBar w a with
    | none => sTrap s w.gid g 0x06 0 (g.sget a)
    | some p =>
      if d = 0 then
        .next { (s.setGroup w.gid (g.enterS s.cycle [.releaseThen none (s.barMsg w (.barGroup none none) a p) p.1 p.2]).1.sWrote.next) with
          nextId := s.nextId + 1 }
      else if g.logFull then sTrap s w.gid g 0x01 5 0
      else
        let m := s.barMsg w (.barGroup (some s.nextId) none) a p
        let e := g.addReturning.enterS s.cycle [.releaseThen none m p.1 p.2]
        if e.2 then
          let q : Req := {
            gid := w.gid, lane := false, pc := g.spc, lpc := 0xFFFFFFFF, dst := .scalar d false 4
            parts := [{ lane := 0, n := 4, ea := g.sget a, place := .scratch p.1 p.2, gen := m.gen }]
            log := if g.nextOrdinal = 0 then none else some g.nextOrdinal, core := w.core, ctx := w.ctx, since := s.cycle }
          .next { (s.setGroup w.gid (e.1.sWrote.sempty d).next) with reqs := aset s.reqs s.nextId q, nextId := s.nextId + 1 }
        else .next (s.setGroup w.gid (e.1.sWrote.sput d ((g.logged g.nextOrdinal).getD 0)).next)

/-- The object that `bwait` and `btest` read: `ready` gets the phase test and FLAGS.SCOPE. -/
def sBarRead (s : State) (need : List SReg) (a b : SReg) (ready : Who → Bool → Scope → Out) : Out :=
  sAccess s need fun w =>
    match s.sBar w a with
    | none => sTrap s w.gid w.g 0x06 0 (w.g.sget a)
    | some p =>
      match aget s.teams p.1 with
      | none => sTrap s w.gid w.g 0x06 0 (w.g.sget a)
      | some t =>
        if s.spBusy w.gid w.g (.scratch p.1 p.2) 32 then s.sStall w.gid w.g .none 0
        else if t.spPoisoned p.2 4 || t.spPoisoned (p.2 + 12) 4 then sTrap s w.gid w.g 0x09 0 (w.g.sget a)
        else ready w (phasePassed (t.barPhase p.2) ((w.g.sget b).setWidth 32)) (t.barScope p.2)

/-- `bwait` (R286, R287, R289). -/
def execBwait (a b : SReg) (s : State) : Out :=
  sBarRead s [a, b] a b fun w passed scope =>
    if passed then .next ((s.acquire w.core w.ctx scope).setGroup w.gid w.g.next)
    else s.sStall w.gid w.g .barrier (w.g.sget a)

/-- `btest` (R289). -/
def execBtest (d a b : SReg) (s : State) : Out :=
  sBarRead s [a, b, d] a b fun w passed scope =>
    if passed then .next ((s.acquire w.core w.ctx scope).setGroup w.gid (w.g.sput d 1).next)
    else sWrite s w.gid w.g d 0

end Sys2Proof.Machine
end

