-- ==== Sys2Proof/Machine/Dispatch.lean ====
section
/-!
DEFINITION. The dispatch: one arm per constructor of Instr, each a direct call of its meaning.
-/
namespace Sys2Proof.Machine

/-- What one instruction or step does. -/
def exec (i : Instr) (s : State) : Host.Outcome State Fault Refusal :=
  match i with
  | .add w d a b => Sys2Proof.Machine.execAdd w d a b s
  | .sub w d a b => Sys2Proof.Machine.execSub w d a b s
  | .mul w d a b => Sys2Proof.Machine.execMul w d a b s
  | .mulhI w d a b => Sys2Proof.Machine.execMulhI w d a b s
  | .mulhN w d a b => Sys2Proof.Machine.execMulhN w d a b s
  | .divI w d a b => Sys2Proof.Machine.execDivI w d a b s
  | .divN w d a b => Sys2Proof.Machine.execDivN w d a b s
  | .remI w d a b => Sys2Proof.Machine.execRemI w d a b s
  | .remN w d a b => Sys2Proof.Machine.execRemN w d a b s
  | .and w d a b => Sys2Proof.Machine.execAnd w d a b s
  | .or w d a b => Sys2Proof.Machine.execOr w d a b s
  | .xor w d a b => Sys2Proof.Machine.execXor w d a b s
  | .andn w d a b => Sys2Proof.Machine.execAndn w d a b s
  | .shl w d a b => Sys2Proof.Machine.execShl w d a b s
  | .shr w d a b => Sys2Proof.Machine.execShr w d a b s
  | .sra w d a b => Sys2Proof.Machine.execSra w d a b s
  | .minI w d a b => Sys2Proof.Machine.execMinI w d a b s
  | .maxI w d a b => Sys2Proof.Machine.execMaxI w d a b s
  | .minN w d a b => Sys2Proof.Machine.execMinN w d a b s
  | .maxN w d a b => Sys2Proof.Machine.execMaxN w d a b s
  | .sltI w d a b => Sys2Proof.Machine.execSltI w d a b s
  | .sltN w d a b => Sys2Proof.Machine.execSltN w d a b s
  | .seq w d a b => Sys2Proof.Machine.execSeq w d a b s
  | .clz w d a => Sys2Proof.Machine.execClz w d a s
  | .popc w d a => Sys2Proof.Machine.execPopc w d a s
  | .addi d a imm => Sys2Proof.Machine.execAddi d a imm s
  | .andi d a imm => Sys2Proof.Machine.execAndi d a imm s
  | .ori d a imm => Sys2Proof.Machine.execOri d a imm s
  | .xori d a imm => Sys2Proof.Machine.execXori d a imm s
  | .shli d a n => Sys2Proof.Machine.execShli d a n s
  | .shri d a n => Sys2Proof.Machine.execShri d a n s
  | .srai d a n => Sys2Proof.Machine.execSrai d a n s
  | .rotli d a n => Sys2Proof.Machine.execRotli d a n s
  | .lui d imm => Sys2Proof.Machine.execLui d imm s
  | .lhi d imm => Sys2Proof.Machine.execLhi d imm s
  | .slti d a imm => Sys2Proof.Machine.execSlti d a imm s
  | .fadd d a b => Sys2Proof.Machine.execFadd d a b s
  | .fsub d a b => Sys2Proof.Machine.execFsub d a b s
  | .fmul d a b => Sys2Proof.Machine.execFmul d a b s
  | .fmac d a b => Sys2Proof.Machine.execFmac d a b s
  | .fmin d a b => Sys2Proof.Machine.execFmin d a b s
  | .fmax d a b => Sys2Proof.Machine.execFmax d a b s
  | .fsqrt d a => Sys2Proof.Machine.execFsqrt d a s
  | .fdiv d a b => Sys2Proof.Machine.execFdiv d a b s
  | .fcvtI d a => Sys2Proof.Machine.execFcvtI d a s
  | .icvtF d a => Sys2Proof.Machine.execIcvtF d a s
  | .flt d a b => Sys2Proof.Machine.execFlt d a b s
  | .feq d a b => Sys2Proof.Machine.execFeq d a b s
  | .ld size t a mode => Sys2Proof.Machine.execLd size t a mode s
  | .ldx size t a mode => Sys2Proof.Machine.execLdx size t a mode s
  | .st size t a mode => Sys2Proof.Machine.execSt size t a mode s
  | .br cond a b off => Sys2Proof.Machine.execBr cond a b off s
  | .jmp off => Sys2Proof.Machine.execJmp off s
  | .call off => Sys2Proof.Machine.execCall off s
  | .jr a => Sys2Proof.Machine.execJr a s
  | .ret => Sys2Proof.Machine.execRet s
  | .dcall a => Sys2Proof.Machine.execDcall a s
  | .djmp a => Sys2Proof.Machine.execDjmp a s
  | .lrun g off => Sys2Proof.Machine.execLrun g off s
  | .gset slot a => Sys2Proof.Machine.execGset slot a s
  | .gnot slot a => Sys2Proof.Machine.execGnot slot a s
  | .gfree slot => Sys2Proof.Machine.execGfree slot s
  | .mld g a => Sys2Proof.Machine.execMld g a s
  | .mldPair g a => Sys2Proof.Machine.execMldPair g a s
  | .mmul g a => Sys2Proof.Machine.execMmul g a s
  | .mmt g a => Sys2Proof.Machine.execMmt g a s
  | .mfence g a b => Sys2Proof.Machine.execMfence g a b s
  | .mrel g => Sys2Proof.Machine.execMrel g s
  | .ofence g => Sys2Proof.Machine.execOfence g s
  | .cpt g a b => Sys2Proof.Machine.execCpt g a b s
  | .cptIdx g a b => Sys2Proof.Machine.execCptIdx g a b s
  | .cptWs g a b => Sys2Proof.Machine.execCptWs g a b s
  | .cptP g a b => Sys2Proof.Machine.execCptP g a b s
  | .pbar g b => Sys2Proof.Machine.execPbar g b s
  | .xmar g a b => Sys2Proof.Machine.execXmar g a b s
  | .xred g a b => Sys2Proof.Machine.execXred g a b s
  | .xnorm g a b => Sys2Proof.Machine.execXnorm g a b s
  | .xbar g a b => Sys2Proof.Machine.execXbar g a b s
  | .fenceRel scope => Sys2Proof.Machine.execFenceRel scope s
  | .fenceAcq scope => Sys2Proof.Machine.execFenceAcq scope s
  | .fenceAr scope => Sys2Proof.Machine.execFenceAr scope s
  | .binit a b => Sys2Proof.Machine.execBinit a b s
  | .bexp a b => Sys2Proof.Machine.execBexp a b s
  | .barr d a => Sys2Proof.Machine.execBarr d a s
  | .bwait a b => Sys2Proof.Machine.execBwait a b s
  | .btest d a b => Sys2Proof.Machine.execBtest d a b s
  | .rndReg d a b => Sys2Proof.Machine.execRndReg d a b s
  | .rndAdv a b => Sys2Proof.Machine.execRndAdv a b s
  | .rndGet d a => Sys2Proof.Machine.execRndGet d a s
  | .rndFlr d a b => Sys2Proof.Machine.execRndFlr d a b s
  | .csrr d num => Sys2Proof.Machine.execCsrr d num s
  | .csrwSempty a => Sys2Proof.Machine.execCsrwSempty a s
  | .csrwCgseed a => Sys2Proof.Machine.execCsrwCgseed a s
  | .csrwOvfl a => Sys2Proof.Machine.execCsrwOvfl a s
  | .csrwNval a => Sys2Proof.Machine.execCsrwNval a s
  | .csrwMod m a => Sys2Proof.Machine.execCsrwMod m a s
  | .trap a => Sys2Proof.Machine.execTrap a s
  | .eret => Sys2Proof.Machine.execEret s
  | .eretTo a => Sys2Proof.Machine.execEretTo a s
  | .yield => Sys2Proof.Machine.execYield s
  | .exit => Sys2Proof.Machine.execExit s
  | .klaunch d a => Sys2Proof.Machine.execKlaunch d a s
  | .rgn => Sys2Proof.Machine.execRgn s
  | .nop => Sys2Proof.Machine.execNop s
  | .evset n a => Sys2Proof.Machine.execEvset n a s
  | .lAdd f => Sys2Proof.Machine.execLAdd f s
  | .lSub f => Sys2Proof.Machine.execLSub f s
  | .lMul f => Sys2Proof.Machine.execLMul f s
  | .lMulhi f => Sys2Proof.Machine.execLMulhi f s
  | .lMad f => Sys2Proof.Machine.execLMad f s
  | .lMadw f => Sys2Proof.Machine.execLMadw f s
  | .lAnd f => Sys2Proof.Machine.execLAnd f s
  | .lOr f => Sys2Proof.Machine.execLOr f s
  | .lXor f => Sys2Proof.Machine.execLXor f s
  | .lAndn f => Sys2Proof.Machine.execLAndn f s
  | .lShl f => Sys2Proof.Machine.execLShl f s
  | .lShr f => Sys2Proof.Machine.execLShr f s
  | .lRotl f => Sys2Proof.Machine.execLRotl f s
  | .lMin f => Sys2Proof.Machine.execLMin f s
  | .lMax f => Sys2Proof.Machine.execLMax f s
  | .lAbs f => Sys2Proof.Machine.execLAbs f s
  | .lPopc f => Sys2Proof.Machine.execLPopc f s
  | .lClz f => Sys2Proof.Machine.execLClz f s
  | .lBrev f => Sys2Proof.Machine.execLBrev f s
  | .lBfe f => Sys2Proof.Machine.execLBfe f s
  | .lBfi f => Sys2Proof.Machine.execLBfi f s
  | .lMov f => Sys2Proof.Machine.execLMov f s
  | .lSel f => Sys2Proof.Machine.execLSel f s
  | .lSreg f => Sys2Proof.Machine.execLSreg f s
  | .lDp4 f => Sys2Proof.Machine.execLDp4 f s
  | .lDiv f => Sys2Proof.Machine.execLDiv f s
  | .lRem f => Sys2Proof.Machine.execLRem f s
  | .lCmp f => Sys2Proof.Machine.execLCmp f s
  | .lPand f => Sys2Proof.Machine.execLPand f s
  | .lPor f => Sys2Proof.Machine.execLPor f s
  | .lPxor f => Sys2Proof.Machine.execLPxor f s
  | .lPnot f => Sys2Proof.Machine.execLPnot f s
  | .lPtov f => Sys2Proof.Machine.execLPtov f s
  | .lVtop f => Sys2Proof.Machine.execLVtop f s
  | .lPset f => Sys2Proof.Machine.execLPset f s
  | .lBra f => Sys2Proof.Machine.execLBra f s
  | .lCall f => Sys2Proof.Machine.execLCall f s
  | .lRet f => Sys2Proof.Machine.execLRet f s
  | .lDcall f => Sys2Proof.Machine.execLDcall f s
  | .lDjmp f => Sys2Proof.Machine.execLDjmp f s
  | .lLend f => Sys2Proof.Machine.execLLend f s
  | .lDemote f => Sys2Proof.Machine.execLDemote f s
  | .lExit f => Sys2Proof.Machine.execLExit f s
  | .lBarr f => Sys2Proof.Machine.execLBarr f s
  | .lBwait f => Sys2Proof.Machine.execLBwait f s
  | .lFence f => Sys2Proof.Machine.execLFence f s
  | .lRgn f => Sys2Proof.Machine.execLRgn f s
  | .lTrap f => Sys2Proof.Machine.execLTrap f s
  | .lNop f => Sys2Proof.Machine.execLNop f s
  | .lRegang f => Sys2Proof.Machine.execLRegang f s
  | .lFadd f => Sys2Proof.Machine.execLFadd f s
  | .lFsub f => Sys2Proof.Machine.execLFsub f s
  | .lFmul f => Sys2Proof.Machine.execLFmul f s
  | .lFma f => Sys2Proof.Machine.execLFma f s
  | .lFmin f => Sys2Proof.Machine.execLFmin f s
  | .lFmax f => Sys2Proof.Machine.execLFmax f s
  | .lFrcp f => Sys2Proof.Machine.execLFrcp f s
  | .lFrsqrt f => Sys2Proof.Machine.execLFrsqrt f s
  | .lFsqrt f => Sys2Proof.Machine.execLFsqrt f s
  | .lFdiv f => Sys2Proof.Machine.execLFdiv f s
  | .lFexp2 f => Sys2Proof.Machine.execLFexp2 f s
  | .lFlog2 f => Sys2Proof.Machine.execLFlog2 f s
  | .lFrint f => Sys2Proof.Machine.execLFrint f s
  | .lFcvtI f => Sys2Proof.Machine.execLFcvtI f s
  | .lIcvtF f => Sys2Proof.Machine.execLIcvtF f s
  | .lFscale f => Sys2Proof.Machine.execLFscale f s
  | .lFclass f => Sys2Proof.Machine.execLFclass f s
  | .lHadd2 f => Sys2Proof.Machine.execLHadd2 f s
  | .lHmul2 f => Sys2Proof.Machine.execLHmul2 f s
  | .lHfma2 f => Sys2Proof.Machine.execLHfma2 f s
  | .lCvt f => Sys2Proof.Machine.execLCvt f s
  | .lPack f => Sys2Proof.Machine.execLPack f s
  | .lUnpk f => Sys2Proof.Machine.execLUnpk f s
  | .lNqenc f => Sys2Proof.Machine.execLNqenc f s
  | .lNqdec f => Sys2Proof.Machine.execLNqdec f s
  | .lNqscl f => Sys2Proof.Machine.execLNqscl f s
  | .lRhash f => Sys2Proof.Machine.execLRhash f s
  | .lSrbits f => Sys2Proof.Machine.execLSrbits f s
  | .lXlane f => Sys2Proof.Machine.execLXlane f s
  | .lCanvass f => Sys2Proof.Machine.execLCanvass f s
  | .lRdc f => Sys2Proof.Machine.execLRdc f s
  | .lRdcx f => Sys2Proof.Machine.execLRdcx f s
  | .lScan f => Sys2Proof.Machine.execLScan f s
  | .lVtos f => Sys2Proof.Machine.execLVtos f s
  | .lBcast f => Sys2Proof.Machine.execLBcast f s
  | .lLd f => Sys2Proof.Machine.execLLd f s
  | .lSt f => Sys2Proof.Machine.execLSt f s
  | .lLds f => Sys2Proof.Machine.execLLds f s
  | .lSts f => Sys2Proof.Machine.execLSts f s
  | .lLdb f => Sys2Proof.Machine.execLLdb f s
  | .lLdacq f => Sys2Proof.Machine.execLLdacq f s
  | .lStrel f => Sys2Proof.Machine.execLStrel f s
  | .lLdws f => Sys2Proof.Machine.execLLdws f s
  | .lLdcl f => Sys2Proof.Machine.execLLdcl f s
  | .lStcl f => Sys2Proof.Machine.execLStcl f s
  | .lAtom f => Sys2Proof.Machine.execLAtom f s
  | .lAcas f => Sys2Proof.Machine.execLAcas f s
  | .lApush f => Sys2Proof.Machine.execLApush f s
  | .lCpl f => Sys2Proof.Machine.execLCpl f s
  | .lSpatom f => Sys2Proof.Machine.execLSpatom f s
  | .illegalInstruction word => Sys2Proof.Machine.execIllegalInstruction word s
  | .illegalLaneInstruction w0 w1 w2 => Sys2Proof.Machine.execIllegalLaneInstruction w0 w1 w2 s
  | .packageReset => Sys2Proof.Machine.execPackageReset s
  | .powerFailure => Sys2Proof.Machine.execPowerFailure s
  | .hostLinkTraining width rate flit cxlIo cxlCache cxlMem ide => Sys2Proof.Machine.execHostLinkTraining width rate flit cxlIo cxlCache cxlMem ide s
  | .hostBar2Request off rw => Sys2Proof.Machine.execHostBar2Request off rw s
  | .hostCxlMemRequest x rw => Sys2Proof.Machine.execHostCxlMemRequest x rw s
  | .hostCxlCacheSnoop pa bytes => Sys2Proof.Machine.execHostCxlCacheSnoop pa bytes s
  | .globalPersistentFlush => Sys2Proof.Machine.execGlobalPersistentFlush s
  | .gpfComplete => Sys2Proof.Machine.execGpfComplete s
  | .hwinWrite v => Sys2Proof.Machine.execHwinWrite v s
  | .loadFirmware => Sys2Proof.Machine.execLoadFirmware s
  | .attest => Sys2Proof.Machine.execAttest s
  | .setContextWorld => Sys2Proof.Machine.execSetContextWorld s
  | .setWindow => Sys2Proof.Machine.execSetWindow s
  | .retry => Sys2Proof.Machine.execRetry s
  | .continue => Sys2Proof.Machine.execContinue s
  | .kill => Sys2Proof.Machine.execKill s
  | .deliver => Sys2Proof.Machine.execDeliver s
  | .mailboxRequestEnd => Sys2Proof.Machine.execMailboxRequestEnd s
  | .contextEnable c => Sys2Proof.Machine.execContextEnable c s
  | .contextDisable c => Sys2Proof.Machine.execContextDisable c s
  | .genbump c => Sys2Proof.Machine.execGenbump c s
  | .genbumpCoreAdopt c core => Sys2Proof.Machine.execGenbumpCoreAdopt c core s
  | .genbumpCoreReport c core => Sys2Proof.Machine.execGenbumpCoreReport c core s
  | .genbumpPhase2 c => Sys2Proof.Machine.execGenbumpPhase2 c s
  | .tailWrite c q v => Sys2Proof.Machine.execTailWrite c q v s
  | .cqheadWrite c v => Sys2Proof.Machine.execCqheadWrite c v s
  | .cqerrClear c => Sys2Proof.Machine.execCqerrClear c s
  | .evsetWrite c v => Sys2Proof.Machine.execEvsetWrite c v s
  | .evclrWrite c v => Sys2Proof.Machine.execEvclrWrite c v s
  | .arm => Sys2Proof.Machine.execArm s
  | .stepload x => Sys2Proof.Machine.execStepload x s
  | .optload x => Sys2Proof.Machine.execOptload x s
  | .recoveryGo => Sys2Proof.Machine.execRecoveryGo s
  | .registerWrite r v => Sys2Proof.Machine.execRegisterWrite r v s
  | .queueSlotRead c q => Sys2Proof.Machine.execQueueSlotRead c q s
  | .kernelQueueTake c => Sys2Proof.Machine.execKernelQueueTake c s
  | .launchStart c q => Sys2Proof.Machine.execLaunchStart c q s
  | .ageingStep launch => Sys2Proof.Machine.execAgeingStep launch s
  | .clusterPlace launch die col row => Sys2Proof.Machine.execClusterPlace launch die col row s
  | .placementReservation launch => Sys2Proof.Machine.execPlacementReservation launch s
  | .preempt launch victim cluster => Sys2Proof.Machine.execPreempt launch victim cluster s
  | .preemptSave launch cluster => Sys2Proof.Machine.execPreemptSave launch cluster s
  | .clusterResume launch cluster die col row => Sys2Proof.Machine.execClusterResume launch cluster die col row s
  | .dieRenumber die => Sys2Proof.Machine.execDieRenumber die s
  | .launchComplete launch => Sys2Proof.Machine.execLaunchComplete launch s
  | .groupRetire gid => Sys2Proof.Machine.execGroupRetire gid s
  | .producerLand id => Sys2Proof.Machine.execProducerLand id s
  | .quarantineLeave gid => Sys2Proof.Machine.execQuarantineLeave gid s
  | .l1WriteBack core line evict => Sys2Proof.Machine.execL1WriteBack core line evict s
  | .pageWalk core c ea => Sys2Proof.Machine.execPageWalk core c ea s
  | .lateFault id lane => Sys2Proof.Machine.execLateFault id lane s
  | .staleGenerationReject id lane => Sys2Proof.Machine.execStaleGenerationReject id lane s
  | .staleGenerationReissue gid => Sys2Proof.Machine.execStaleGenerationReissue gid s
  | .barrierHang gid => Sys2Proof.Machine.execBarrierHang gid s
  | .roundHang gid => Sys2Proof.Machine.execRoundHang gid s
  | .yieldExpiry gid => Sys2Proof.Machine.execYieldExpiry gid s
  | .regangTimeout gid pc depth => Sys2Proof.Machine.execRegangTimeout gid pc depth s
  | .gfreeRelease gid => Sys2Proof.Machine.execGfreeRelease gid s
  | .releaseComplete id => Sys2Proof.Machine.execReleaseComplete id s
  | .rgnCheckpoint gid => Sys2Proof.Machine.execRgnCheckpoint gid s
  | .strike core => Sys2Proof.Machine.execStrike core s
  | .strikeReplay gid => Sys2Proof.Machine.execStrikeReplay gid s
  | .weightStoreRefresh die => Sys2Proof.Machine.execWeightStoreRefresh die s
  | .weightStoreBankReturn die => Sys2Proof.Machine.execWeightStoreBankReturn die s
  | .ncuOperation op => Sys2Proof.Machine.execNcuOperation op s
  | .activeMessage id => Sys2Proof.Machine.execActiveMessage id s
  | .clusterScratchpadArrival id lane => Sys2Proof.Machine.execClusterScratchpadArrival id lane s
  | .remoteAccessArrival id => Sys2Proof.Machine.execRemoteAccessArrival id s
  | .wbqAccept granule => Sys2Proof.Machine.execWbqAccept granule s
  | .laneBlockStart gid => Sys2Proof.Machine.execLaneBlockStart gid s
  | .mldStart gid => Sys2Proof.Machine.execMldStart gid s
  | .mldPairStart gid => Sys2Proof.Machine.execMldPairStart gid s
  | .mmulStart gid => Sys2Proof.Machine.execMmulStart gid s
  | .mmtStart gid => Sys2Proof.Machine.execMmtStart gid s
  | .matrixAccumulation id m o => Sys2Proof.Machine.execMatrixAccumulation id m o s
  | .batchComplete gid => Sys2Proof.Machine.execBatchComplete gid s
  | .mrelStart gid => Sys2Proof.Machine.execMrelStart gid s
  | .ofenceStart gid => Sys2Proof.Machine.execOfenceStart gid s
  | .ofenceComplete gid => Sys2Proof.Machine.execOfenceComplete gid s
  | .cptStart gid => Sys2Proof.Machine.execCptStart gid s
  | .cptIdxStart gid => Sys2Proof.Machine.execCptIdxStart gid s
  | .cptWsStart gid => Sys2Proof.Machine.execCptWsStart gid s
  | .cptPStart gid => Sys2Proof.Machine.execCptPStart gid s
  | .copyElementLand id j ii e fetch => Sys2Proof.Machine.execCopyElementLand id j ii e fetch s
  | .copyComplete id => Sys2Proof.Machine.execCopyComplete id s
  | .pbarStart gid => Sys2Proof.Machine.execPbarStart gid s
  | .pbarComplete gid => Sys2Proof.Machine.execPbarComplete gid s
  | .barrierInitialise id => Sys2Proof.Machine.execBarrierInitialise id s
  | .barrierArm id => Sys2Proof.Machine.execBarrierArm id s
  | .laneArrival id => Sys2Proof.Machine.execLaneArrival id s
  | .groupArrival id => Sys2Proof.Machine.execGroupArrival id s
  | .barrierCredit id => Sys2Proof.Machine.execBarrierCredit id s
  | .xmarStart gid => Sys2Proof.Machine.execXmarStart gid s
  | .xmarPieceArrival id src index => Sys2Proof.Machine.execXmarPieceArrival id src index s
  | .xredStart gid => Sys2Proof.Machine.execXredStart gid s
  | .xnormStart gid => Sys2Proof.Machine.execXnormStart gid s
  | .xnormResult id => Sys2Proof.Machine.execXnormResult id s
  | .xnormCommit id => Sys2Proof.Machine.execXnormCommit id s
  | .xbarStart gid => Sys2Proof.Machine.execXbarStart gid s
  | .collectiveComplete id => Sys2Proof.Machine.execCollectiveComplete id s
  | .roundAdvance c region => Sys2Proof.Machine.execRoundAdvance c region s
  | .roundAdopt c region die slice => Sys2Proof.Machine.execRoundAdopt c region die slice s
  | .roundAdvanceCommit c region => Sys2Proof.Machine.execRoundAdvanceCommit c region s
  | .ldbHeldServe id lane => Sys2Proof.Machine.execLdbHeldServe id lane s
  | .flitReceive port good msg => Sys2Proof.Machine.execFlitReceive port good msg s
  | .fabricLaneFailure port => Sys2Proof.Machine.execFabricLaneFailure port s
  | .fabricPortStateChange port lanes up peer pport => Sys2Proof.Machine.execFabricPortStateChange port lanes up peer pport s
  | .packageLost how => Sys2Proof.Machine.execPackageLost how s
  | .lehrCaptureStart line => Sys2Proof.Machine.execLehrCaptureStart line s
  | .lehrDrain => Sys2Proof.Machine.execLehrDrain s
  | .drainedMessage => Sys2Proof.Machine.execDrainedMessage s
  | .lehrComplete => Sys2Proof.Machine.execLehrComplete s
  | .culletEncode stripe => Sys2Proof.Machine.execCulletEncode stripe s
  | .culletProtect => Sys2Proof.Machine.execCulletProtect s
  | .recoveryServe => Sys2Proof.Machine.execRecoveryServe s
  | .stripeRebuild stripe fragments => Sys2Proof.Machine.execStripeRebuild stripe fragments s
  | .rebuildDone => Sys2Proof.Machine.execRebuildDone s
  | .registerEccError target => Sys2Proof.Machine.execRegisterEccError target s
  | .patrolScrub word => Sys2Proof.Machine.execPatrolScrub word s
  | .coreRetire core => Sys2Proof.Machine.execCoreRetire core s
  | .l2SliceFailure die slice => Sys2Proof.Machine.execL2SliceFailure die slice s
  | .slice480Switch die => Sys2Proof.Machine.execSlice480Switch die s
  | .pseudoChannelFailure stack lines => Sys2Proof.Machine.execPseudoChannelFailure stack lines s
  | .dieLoss die => Sys2Proof.Machine.execDieLoss die s
  | .retirementTableUpdate => Sys2Proof.Machine.execRetirementTableUpdate s

end Sys2Proof.Machine
end

