-- ==== Sys2Proof/Machine/Issue.lean ====
section
/-!
DEFINITION. Turns of a core: S-issue (R107) and lane issue (R108, R109), over fetching, decoding and `exec`; and the machine that
is about to fetch a given instruction.
-/
namespace Sys2Proof.Machine

/-- The constructors that are steps of devices, of the host or of nature, not instructions of a stream. -/
def isStreamInstr (i : Instr) : Bool :=
  (encodeS i).isSome || i.lane.isSome ||
  (match i with
   | .illegalInstruction _ | .illegalLaneInstruction _ _ _ => true
   | _ => false)

/-- The instruction of an S word as it comes to issue (R98). -/
def instrOfWord (w : Word) : Instr := (decodeS w.toNat).getD (.illegalInstruction w)

/-- The instruction of three L words as it is fetched (R105). -/
def instrOfWords (w0 w1 w2 : Word) : Instr := (decodeL w0.toNat w1.toNat w2.toNat).getD (.illegalLaneInstruction w0 w1 w2)

/-! ## S-issue -/

/-- After a `yield` the next word is not ready until another group issues or 64 cycles pass (R155). -/
def Group.yields (g : Group) (now : Nat) : Bool :=
  match g.yieldFrom with
  | some c => now < c + 64
  | none => false

/-- The core has issued an S word of `gid` in this cycle; the other groups' yields end (R155). -/
def State.noteS (s : State) (k : CoreKey) (gid : Nat) : State :=
  { (s.modCore k fun x => { x with sCycle := some s.cycle }) with
    cur := none
    groups := s.groups.map fun p =>
      if p.1 = gid then p
      else match aget s.teams p.2.team with
        | some t => if t.core = k then (p.1, { p.2 with yieldFrom := none }) else p
        | none => p }

/-- A strike or a stop lets the S word that has begun go on until it is performed (R386 step 3): a struck group keeps no other hold. -/
def State.mayEnd (s : State) (g : Group) : Bool := g.striking && g.hold.isSome && !g.done && g.park.isNone && !s.stopping g

/-- The next word of a group tried at the S-issue: `inl` when it issued, `inr` when the slot goes to the next group. -/
def State.tryS (s : State) (k : CoreKey) (keep : Bool) (gid : Nat) : Except State Out :=
  match s.who gid with
  | none => .error s
  | some w =>
    let g := w.g
    if g.sExited || !(s.mayIssue g || s.mayEnd g) || g.yields s.cycle || g.inRgn true then .error s
    else match g.late, g.inHandler || g.inWord with
      | c :: rest, false => .ok (.next ((s.setGroup gid { g with late := rest }).takeCause gid c false))
      | _, _ =>
        match s.fetchWord k w.ctx keep g.spc with
        | .wait => .error (s.askRemote gid k w.ctx g.spc)
        | .bad code addr => .ok (.next ((s.noteWorld code).takeCause gid { code := code, pc := g.spc, addr := addr } true))
        | .word word =>
          let s1 := s.keepIf keep k w.ctx g.spc word
          match exec (instrOfWord word) { s1 with cur := some { gid := gid, keep := keep } } with
          | .next s2 =>
            match s2.cur with
            | some { stalled := true, .. } => .error { s2 with cur := none }
            | _ => .ok (.next (s2.noteS k gid))
          | o => .ok o

/-- The groups whose turn does not come note what their next word waits for, as it stood at the issue (R89, R451). They are only asked; nothing
else that the trial does stands. -/
def State.noteWaitsS (t s : State) (k : CoreKey) (keep : Bool) (rest : List (Nat × Group)) : State :=
  rest.foldl (fun st p => match s.tryS k keep p.1 with
    | .ok _ => st
    | .error s1 => match (aget s1.groups p.1).bind fun g => aget g.waits sWaitKey with
      | some x => if x.seen = s.cycle then st.modGroup p.1 fun g => { g with waits := aset g.waits sWaitKey x } else st
      | none => st) t

/-- The groups tried in the order of R107 until one issues. -/
def State.tryAllS (s : State) (k : CoreKey) (keep : Bool) : List (Nat × Group) → Out
  | [] => .next s
  | p :: rest =>
    match s.tryS k keep p.1 with
    | .ok (.next t) => .next (t.noteWaitsS s k keep rest)
    | .ok o => o
    | .error s1 => s1.tryAllS k keep rest

/-- A core's S-issue: at most one S word a cycle (R107). -/
def State.sTurn (s : State) (k : CoreKey) (keep : Bool) : Out :=
  if (s.core k).sCycle = some s.cycle then .next s else s.tryAllS k keep (s.groupsOn k)

/-! ## Lane issue -/

/-- The words of the lane instruction at offset `pc` (R96, R181): three 32-bit fetches from LBASE + 12·pc, one
fetch address (R181). -/
def State.fetchLane (s : State) (w : Who) (k : CoreKey) (keep : Bool) (pc : Word) : Fetched × Word × Word × Word :=
  let va := fun i => dw (w.lrec.lbase.toNat + 12 * pc.toNat + 4 * i)
  match s.fetchWord k w.ctx keep (va 0), s.fetchWord k w.ctx keep (va 1), s.fetchWord k w.ctx keep (va 2) with
  | .word w0, .word w1, .word w2 => (.word w0, w0, w1, w2)
  | .bad code _, _, _ => (.bad code (va 0), 0, 0, 0)
  | .word _, .bad code _, _ => (.bad code (va 0), 0, 0, 0)
  | .word _, .word _, .bad code _ => (.bad code (va 0), 0, 0, 0)
  | _, _, _ => (.wait, 0, 0, 0)

/-- A sub-gang of a group tried at the lane issue. -/
def State.tryGang (s : State) (k : CoreKey) (keep : Bool) (w : Who) (pc : Word) (depth : Nat) : Except State Out :=
  match s.fetchLane w k keep pc with
  | (.wait, _, _, _) =>
    let missing := (List.range 3).find? fun i => s.fetchWord k w.ctx keep (dw (w.lrec.lbase.toNat + 12 * pc.toNat + 4 * i)) == .wait
    .error (s.askRemote w.gid k w.ctx (dw (w.lrec.lbase.toNat + 12 * pc.toNat + 4 * missing.getD 0)))
  | (.bad code addr, _, _, _) =>
    let slices := w.g.gang pc depth
    .ok ((s.noteWorld code).laneTrap { who := w, pc := pc, depth := depth, slices := slices, lanes := w.g.gangLanes slices, act := [] } code 0 addr)
  | (.word _, w0, w1, w2) =>
    let va := fun i => dw (w.lrec.lbase.toNat + 12 * pc.toNat + 4 * i)
    let s1 := ((s.keepIf keep k w.ctx (va 0) w0).keepIf keep k w.ctx (va 1) w1).keepIf keep k w.ctx (va 2) w2
    match exec (instrOfWords w0 w1 w2) { s1 with cur := some { gid := w.gid, sub := some (pc, depth), keep := keep } } with
    | .next s2 =>
      match s2.cur with
      | some { stalled := true, .. } => .error { s2 with cur := none }
      | _ => .ok (.next { s2 with cur := none })
    | o => .ok o

/-- A sub-gang is ready: tried now, it would issue (R108). -/
def State.gangReady (s : State) (k : CoreKey) (keep : Bool) (w : Who) (pc : Word) (depth : Nat) : Bool :=
  match s.tryGang k keep w pc depth with
  | .ok _ => true
  | .error _ => false

/-- The group with what a sub-gang notes that cannot issue now: its waits (R89, R202, R451) and the end of a `regang` that it has reached
(R186). The sub-gang is only asked; nothing else that its trial does stands. -/
def State.noteGang (s : State) (k : CoreKey) (keep : Bool) (w : Who) (g : Group) (at_ : Word × Nat) : Group :=
  match s.tryGang k keep w at_.1 at_.2 with
  | .ok _ => g
  | .error s1 => match aget s1.groups w.gid with
    | some x =>
      let g1 := match (x.gangRec at_.1 at_.2).regang with
        | some n => g.setGang { g.gangRec at_.1 at_.2 with regang := some n }
        | none => g
      { g1 with waits := (x.waits.filter fun y => y.1 ≠ sWaitKey && y.2.seen = s.cycle).foldl (fun t y => aset t y.1 y.2) g1.waits }
    | none => g

/-- The sub-gangs of the group that were ready and did not issue are passed over once more, the others start again (R109); those that wait
note it. -/
def State.passOver (before after : State) (k : CoreKey) (keep : Bool) (w : Who) (won : Word × Nat) : State :=
  let others := w.g.gangKeys.filter fun x => x ≠ won
  let ready := others.filter fun x => before.gangReady k keep w x.1 x.2
  after.modGroup w.gid fun g =>
    let kept := g.gangs.map fun x => if ready.contains (x.pc, x.depth) then { x with passed := x.passed + 1 } else { x with passed := 0 }
    let new := ready.filter fun x => !g.gangs.any fun y => y.pc = x.1 && y.depth = x.2
    others.foldl (before.noteGang k keep w) { g with gangs := kept ++ new.map fun x => { pc := x.1, depth := x.2, passed := 1 } }

/-- The sub-gangs of one group tried in order: the first that is ready is the group's choice, and issues if no sub-gang of this cycle has
taken one of its slices (R108, R109). -/
def State.tryGangs (s : State) (k : CoreKey) (keep : Bool) (w : Who) : List (Word × Nat) → Except State Out
  | [] => .error s
  | (pc, d) :: rest =>
    let mask := w.g.gangMask (w.g.gang pc d)
    match s.tryGang k keep w pc d with
    | .error s1 => s1.tryGangs k keep w rest
    | .ok (.next s1) =>
      if mask &&& (s.core k).laneSlices ≠ 0 then .error s
      else
        let s2 := if 1 < w.g.gangKeys.length then s.passOver s1 k keep w (pc, d) else s1
        .ok (.next (s2.joinSet k w.gid mask))
    | .ok o => .ok o

/-- The group is tried at the lane issue: its block runs, nothing holds it, and it has not issued in this cycle. -/
def State.lTried (s : State) (k : CoreKey) (w : Who) : Bool :=
  w.g.runs && s.mayIssue w.g && !w.g.inRgn false && !(s.core k).laneGroups.contains w.gid

/-- The groups whose turn does not come note what their sub-gangs wait for, as it stood at the issue (R89, R202, R451). -/
def State.noteWaitsL (t s : State) (k : CoreKey) (keep : Bool) (rest : List (Nat × Group)) : State :=
  rest.foldl (fun st p => match s.who p.1 with
    | some w => if s.lTried k w then st.modGroup p.1 fun g => w.g.gangKeys.foldl (s.noteGang k keep w) g else st
    | none => st) t

/-- The groups tried in the order of R107 until one issues a lane instruction. -/
def State.tryAllL (s : State) (k : CoreKey) (keep : Bool) : List (Nat × Group) → Out
  | [] => .next s
  | p :: rest =>
    match s.who p.1 with
    | none => s.tryAllL k keep rest
    | some w =>
      if !s.lTried k w then s.tryAllL k keep rest
      else match s.tryGangs k keep w w.g.gangsInOrder with
        | .ok (.next t) => .next (t.noteWaitsL s k keep rest)
        | .ok o => o
        | .error s1 => s1.tryAllL k keep rest

/-- A core's lane issue of one sub-gang; the turns of one cycle together build the issue set of R108. -/
def State.lTurn (s : State) (k : CoreKey) (keep : Bool) : Out :=
  let s1 := if (s.core k).laneCycle = some s.cycle then s
    else s.modCore k fun x => { x with laneCycle := some s.cycle, laneSlices := 0, laneGroups := [] }
  s1.tryAllL k keep (s1.groupsOn k)

/-! ## One entry of the agenda -/

/-- The step that an agenda entry names. An entry that names a stream instruction as a device step does nothing: streams issue only
by the turns of their core. While the package has no power only its reset runs (R2, R349). -/
def State.runEntry (s : State) (e : Entry) : Out :=
  match e.turn with
  | .sIssue k => if s.powered then s.sTurn k e.keep else .next s
  | .lIssue k => if s.powered then s.lTurn k e.keep else .next s
  | .event i =>
    if isStreamInstr i then .next s
    else if s.powered || i == .packageReset then exec i s
    else .next s

/-- The group takes a program trap between two states: it enters its handler, or is parked by one. -/
def Group.traps (g h : Group) : Bool :=
  (!g.inHandler && h.inHandler) || (g.park.isNone && h.park.any fun p => !isSystemCause p.cause.code)

/-- The first group that takes a program trap between two states. -/
def State.trapped (s t : State) : Option Nat :=
  (s.groups.find? fun p => match aget t.groups p.1 with
    | some h => p.2.traps h
    | none => false).map (·.1)

/-- Group `gid` takes a trap of its own stream between two states (R366): a precise S trap, or a lane trap. -/
def State.streamTrap (s t : State) (gid : Nat) (lane : Bool) : Bool :=
  match aget s.groups gid, aget t.groups gid with
  | some g, some h =>
    g.late.isEmpty && g.traps h &&
      (if lane then decide (h.trap.lpc ≠ 0xFFFFFFFF) else decide (h.trap.pc = g.spc) && decide (h.trap.lpc = 0xFFFFFFFF))
  | _, _ => false

/-- The state in which an entry that delivers a trap to a group finds it: the trap that the S word or the lane instruction which its core issues
in this cycle raises goes first (R366). -/
def State.trapFirst (s : State) (e : Entry) (t : State) : Option State :=
  match s.trapped t with
  | none => none
  | some gid =>
    match s.who gid, e.turn with
    | some w, .event _ | some w, .lIssue _ =>
      (match s.sTurn w.core e.keep with
       | .next u => if s.streamTrap u gid false then some u else none
       | _ => none) <|>
      (match e.turn, s.lTurn w.core e.keep with
       | .event _, .next u => if s.streamTrap u gid true then some u else none
       | _, _ => none)
    | _, _ => none

/-- One entry of the agenda: of the traps that a group would take in one cycle the first in the order of R366 is delivered. -/
def State.runTurn (s : State) (e : Entry) : Out :=
  match s.runEntry e with
  | .next t => (match s.trapFirst e t with
    | some u => u.runEntry e
    | none => .next t)
  | o => o

/-! ## A machine about to fetch an instruction (log 9) -/

/-- Little-endian bytes placed in memory. -/
def placeBytes (m : List Host.Cell) (a n v : Nat) : List Host.Cell := cellsWrite m a ((leBytes n v).map some)

/-- The core that runs the placed program: die 0, column 0, row 0. -/
def homeCore : CoreKey := { die := 0, col := 0, row := 0 }

/-- A launch record of one 16-lane team with 256 lane registers, at virtual address 0. -/
def loadRecord : LaunchRec :=
  { w := [(6, dw (0xFFFFFFFF * 2 ^ 32)), (8, dw (1 + 2 ^ 32 + 2 ^ 48)), (9, dw (16 + 2 ^ 16 + 2 ^ 32 + 2 ^ 48 + 2 ^ 56)),
      (10, dw (256 * 2 ^ 32)), (11, 4096)] }

/-- The placed team. -/
def loadTeam (launch cluster gid seed : Nat) : Team :=
  { launch := launch, cluster := cluster, member := 0, x := 0, y := 0, z := 0, core := homeCore, col := 0, row := 0
    base := 0, size := 4096, live := 16, groups := [gid], seed := seed }

/-- The state with an instruction placed where the next step fetches it (log 9): page tables and code in HBM4E, one launch of one
group resident on a core, the agenda naming that core's issue. Up to 32 bits it is an S word; else W0, W1 and W2 of a lane block that
has just started. -/
def loadWord (s : State) (nbits w : Nat) : State :=
  let id := s.nextId
  let gid := id + 3
  let team := loadTeam id (id + 1) gid s.fresh
  let g := startGroup loadRecord (id + 2) team 0 0 0 s.cycle (s.fresh + 4096)
  let code := if nbits ≤ 32 then placeBytes s.mem 0x20000 4 w else placeBytes s.mem 0x20000 12 w
  let m1 := placeBytes code 0x10000 8 0x11001
  let m2 := placeBytes m1 0x11000 8 0x12001
  let m3 := placeBytes m2 0x12000 8 0x13001
  let m4 := placeBytes m3 0x13000 8 0x14001
  let m5 := placeBytes m4 0x14000 8 0x2000F
  let blk : Cmd := { kind := .lrun, guard := none, pc := 0, released := true }
  let gl := if nbits ≤ 32 then g else
    { g with
      block := some { cmd := id + 4, start := 0 }, lq := [id + 4]
      slices := (List.range 4).map fun i => (i, [{ pc := 0, depth := 0, mask := 15 }]) }
  { s with
    mem := m5
    ctxs := aset s.ctxs 0 { s.ctx 0 with en := true, ptroot := 0x10000 }
    launches := aset s.launches id { ctx := 0, queue := 0, slot := 0, lrec := loadRecord, ageFrom := s.cycle, started := true, placed := 1 }
    clusters := aset s.clusters (id + 1) { launch := id, ord := 0, die := 0, col := 0, row := 0, teams := [id + 2], placedAt := s.cycle }
    teams := aset s.teams (id + 2) team
    groups := aset s.groups gid gl
    cmds := if nbits ≤ 32 then s.cmds else aset s.cmds (id + 4) blk
    fresh := s.fresh + 8192
    nextId := id + 5
    agenda := [{ turn := if nbits ≤ 32 then .sIssue homeCore else .lIssue homeCore }] }

end Sys2Proof.Machine
end

