-- ==== Sys2Proof/Machine/Step.lean ====
section
/-!
DEFINITION. One step of the package: the first entry of the agenda, after its cycles have passed; with an empty agenda a cycle
passes and nothing else happens (log 1).
-/
namespace Sys2Proof.Machine

/-- One step. -/
def step (s : State) : Host.Outcome State Fault Refusal :=
  match s.agenda with
  | [] => .next { s with cycle := s.cycle + 1 }
  | e :: rest => State.runTurn { s with agenda := rest, cycle := s.cycle + e.dt } e

/-- The state with an instruction stored where the next step fetches it (log 9). -/
def State.withFetchWord (s : State) (nbits w : Nat) : State := loadWord s nbits w

end Sys2Proof.Machine
end

