-- ==== Sys2Proof/Safety.lean ====
section
/-!
DEFINITION. What a safe run is, and when an instruction stands ready to issue, in the terms that statements use: a step that
answers a next state, the memory in its canonical form, an S word whose registers are full, a sub-gang whose registers are full.
-/
namespace Sys2Proof

/-- The step answers a next state: no fault, no refusal. -/
def safeStep (s : Machine.State) : Bool :=
  match Machine.step s with
  | .next _ => true
  | _ => false

/-- `n` steps answer next states. -/
def safeRun : Nat → Machine.State → Bool
  | 0, _ => true
  | n + 1, s =>
    match Machine.step s with
    | .next t => safeRun n t
    | _ => false

/-- The destination of the S words that write one scalar register and do nothing else (R136, R138, R139). -/
def Instr.scalarDst : Instr → Option SReg
  | .add _ d _ _ | .sub _ d _ _ | .mul _ d _ _ | .mulhI _ d _ _ | .mulhN _ d _ _ | .divI _ d _ _ | .divN _ d _ _
  | .remI _ d _ _ | .remN _ d _ _ | .and _ d _ _ | .or _ d _ _ | .xor _ d _ _ | .andn _ d _ _ | .shl _ d _ _ | .shr _ d _ _
  | .sra _ d _ _ | .minI _ d _ _ | .maxI _ d _ _ | .minN _ d _ _ | .maxN _ d _ _ | .sltI _ d _ _ | .sltN _ d _ _
  | .seq _ d _ _ | .clz _ d _ | .popc _ d _ | .addi d _ _ | .andi d _ _ | .ori d _ _ | .xori d _ _ | .shli d _ _ | .shri d _ _
  | .srai d _ _ | .rotli d _ _ | .lui d _ | .lhi d _ | .slti d _ _ | .fadd d _ _ | .fsub d _ _ | .fmul d _ _ | .fmac d _ _
  | .fmin d _ _ | .fmax d _ _ | .fsqrt d _ | .fdiv d _ _ | .fcvtI d _ | .icvtF d _ | .flt d _ _ | .feq d _ _ => some d
  | _ => none

namespace Machine

/-- Memory and the modules of the persistence tier are in canonical form. -/
def State.memOk (s : State) : Bool := Memory.wf s.mem && Memory.wf s.modules

/-- The group of `w` issues an S word, and every register of `need` is full (R87). -/
structure SReady (s : State) (w : Who) (need : List SReg) : Prop where
  cur : s.cur = some { gid := w.gid }
  who : s.who w.gid = some w
  full : ∀ r ∈ need, w.g.sfull r = true

/-- A sub-gang issues a lane instruction of fields `f` that needs `n` (R87, R103, R108, R162, R169): it has lanes, its active lanes are those
whose guard holds, no fault of it waits for the answers of its lanes (R237), every register is full and allocated. -/
structure LaneReady (s : State) (f : LF) (n : Need) (c : LaneCtx) : Prop where
  cur : s.cur = some { gid := c.who.gid, sub := some (c.pc, c.depth) }
  who : s.who c.who.gid = some c.who
  slices : c.slices = c.who.g.gang c.pc c.depth
  lanes : c.lanes = c.who.g.gangLanes c.slices
  act : c.act = c.lanes.filter fun l => guardHolds f.guard (c.who.g.lane l)
  some_lane : c.lanes ≠ []
  unpended : (c.who.g.gangRec c.pc c.depth).pend = none
  preds : s.predPending c.who.gid c.lanes = false
  allocated : ∀ k ∈ n.dst ++ n.keep ++ n.a ++ n.b ++ n.c, k < c.who.lrec.regsAlloc
  legal : n.illegal c = false
  gathered : n.gather = true → c.gathered = true
  dst_full : ∀ k ∈ n.dst ++ n.keep, c.who.g.vfull k = true
  dst_ready : ∀ d ∈ n.sdst, s.dstReady c.who.gid c.who.g d = true
  src_full : ∀ k ∈ n.a ++ n.b ++ n.c, c.who.g.vfull k = true
  scalars : ∀ r ∈ scalarSrc f.bsel f.b ++ scalarSrc f.csel f.c, c.who.g.sfull r = true

/-- The outcome is a next state, and `p` holds of it. -/
def Leads (o : Out) (p : State → Prop) : Prop := ∃ t, o = .next t ∧ p t

/-- What no lane instruction of the sub-gang `c` changes in its group, `g` before and `h` after: scalar registers with their full/empty bits,
the S-stream's place, guards, queues but the L-queue, traps, and every lane that is not active. -/
structure GroupKept (c : LaneCtx) (g h : Group) : Prop where
  sregs : h.sregs = g.sregs
  sfe : h.sfe = g.sfe
  spc : h.spc = g.spc
  mods : h.mods = g.mods
  guards : h.guards = g.guards
  trap : h.trap = g.trap
  mq : h.mq = g.mq
  cq : h.cq = g.cq
  quar : h.quar = g.quar
  idle : ∀ l, l ∉ c.act → h.lane l = g.lane l

/-- What no lane instruction without a memory access changes outside its group: memory, the scratchpads, the other groups, the messages and
requests in flight, the context blocks. -/
structure LaneKept (s t : State) (gid : Nat) : Prop where
  mem : ∀ a, cellRead t.mem a = cellRead s.mem a
  modules : t.modules = s.modules
  teams : t.teams = s.teams
  others : ∀ j, j ≠ gid → aget t.groups j = aget s.groups j
  net : t.net = s.net
  ctxs : t.ctxs = s.ctxs
  launches : t.launches = s.launches

/-- The sticky flags and the full/empty bits of lane registers stand. -/
structure FlagsKept (g h : Group) : Prop where
  ovfl : h.ovfl = g.ovfl
  nval : h.nval = g.nval
  vfe : h.vfe = g.vfe

/-- The outcome `o` is a next state in which every active lane of `c` is what `p` says of the lane before and after, and in which
everything that `LaneKept`, `GroupKept` and `FlagsKept` name stands. -/
def RunsLanes (s : State) (c : LaneCtx) (o : Out) (p : Nat → Lane → Lane → Prop) : Prop :=
  ∃ t h, o = .next t ∧ aget t.groups c.who.gid = some h ∧ LaneKept s t c.who.gid ∧ t.reqs = s.reqs ∧ t.cores = s.cores ∧
    GroupKept c c.who.g h ∧ FlagsKept c.who.g h ∧ ∀ l ∈ c.act, p l (c.who.g.lane l) (h.lane l)

/-- The lane `y` is `x` with v[d] = `v`, its other registers, predicates and life state kept. -/
def PutReg (d : Nat) (v : Word) (x y : Lane) : Prop :=
  y.get d = v ∧ (∀ k, k ≠ d → y.get k = x.get k) ∧ y.preds = x.preds ∧ y.life = x.life ∧ y.atEnd = x.atEnd

/-- The lane `y` is `x` with the pair v[d], v[d+1] = `v` (low half in v[d]). -/
def PutPair (d : Nat) (v : DWord) (x y : Lane) : Prop :=
  y.getPair d = v ∧ (∀ k, k ≠ d → k ≠ d + 1 → y.get k = x.get k) ∧ y.preds = x.preds ∧ y.life = x.life ∧ y.atEnd = x.atEnd

/-- The lane `y` is `x` with p[k] = `b`. -/
def PutPred (k : Nat) (b : Bool) (x y : Lane) : Prop :=
  y.pget k = b ∧ (∀ j, j ≠ k → j < 24 → y.pget j = x.pget j) ∧ y.regs = x.regs ∧ y.life = x.life ∧ y.atEnd = x.atEnd

/-- The lane is as before. -/
def SameLane (x y : Lane) : Prop := y = x

end Machine
end Sys2Proof
end

