-- ==== Sys2Proof/Certificates/Slice0/Obligations.lean ====
section
/-!
DEFINITION. The statements about the OX9 that the provers are asked for.
-/
open Sys2Proof Sys2Proof.Machine

/-! ## The machine as a whole -/

/-- One step over an entry of the agenda whose own outcome is `o`: where it delivers a program trap to a group whose own stream, tried at the entry's
instant, raises one that R366 puts before it, that one is delivered first. -/
def InTrapOrder (u : State) (e : Entry) (o : Out) : Out :=
  match o with
  | .next x => (match u.trapFirst e x with
    | some y => y.runEntry e
    | none => .next x)
  | o => o

/-- R22, R98, R107: the S-issue of a core tries its groups in the order of R107; the first of them, when its stream runs and its word at its PC is fetched as `word`, executes the instruction that the word decodes to, or the illegal-instruction pseudo-instruction of a word that decodes to none; a stalled word leaves the
slot to the next group.

R96, R105, R107, R108, R181: the lane issue of a core, once its slices are free in this cycle, executes for the first group, when it has one sub-gang, the instruction that the three words at LBASE + 12·LPC decode to, or the illegal pseudo-instruction; a stalled one leaves the slot to the next group. The groups whose turn does not come note what they wait for (R89).

R366: an entry in which no group takes a program trap stands as it is.

An agenda entry that names a step of a device, of the host or of nature executes it; one that names a stream instruction, and every entry but the package's reset without power, only passes its cycles; with an empty agenda one cycle passes (log 1). -/
def Obligations.StepsRunWhatTheyDecode : Prop :=
  (∀ (s : State) (w : Who) (k : CoreKey) (rest : List Entry) (more : List (Nat × Group)) (word : Word) (dt : Nat),
    let u := { s with agenda := rest, cycle := s.cycle + dt }
    s.agenda = { dt := dt, turn := .sIssue k } :: rest → s.powered = true → (u.core k).sCycle ≠ some u.cycle → u.groupsOn k = (w.gid, w.g) :: more → u.who w.gid = some w →
    w.g.sExited = false → u.mayIssue w.g = true → w.g.yields u.cycle = false → w.g.inRgn true = false → w.g.late = [] → u.fetchWord k w.ctx false w.g.spc = .word word →
    let i := match decodeS word.toNat with
      | some i => i
      | none => .illegalInstruction word
    let o := exec i { u with cur := some { gid := w.gid } }
    (∀ t, o = .next t → (∀ c, t.cur = some c → c.stalled = false) → step s = .next ((t.noteS k w.gid).noteWaitsS u k false more)) ∧
    (∀ t c, o = .next t → t.cur = some c → c.stalled = true → step s = { t with cur := none }.tryAllS k false more) ∧ (∀ f, o = .fault f → step s = .fault f) ∧ (∀ r, o = .refused r → step s = .refused r)) ∧
  (∀ (s : State) (w : Who) (k : CoreKey) (rest : List Entry) (more : List (Nat × Group)) (w0 w1 w2 : Word) (dt depth : Nat) (lpc : Word) (b : Block),
    let u := { s with agenda := rest, cycle := s.cycle + dt }
    let e : Entry := { dt := dt, turn := .lIssue k }
    let v := u.modCore k fun x => { x with laneCycle := some u.cycle, laneSlices := 0, laneGroups := [] }
    s.agenda = e :: rest → s.powered = true → (u.core k).laneCycle ≠ some u.cycle → v.groupsOn k = (w.gid, w.g) :: more → v.who w.gid = some w →
    w.g.block = some b → b.stopped = false → v.mayIssue w.g = true → w.g.inRgn false = false → w.g.gangsInOrder = [(lpc, depth)] → w.g.gangKeys = [(lpc, depth)] →
    v.fetchLane w k false lpc = (.word w0, w0, w1, w2) →
    let i := match decodeL w0.toNat w1.toNat w2.toNat with
      | some i => i
      | none => .illegalLaneInstruction w0 w1 w2
    let o := exec i { v with cur := some { gid := w.gid, sub := some (lpc, depth) } }
    (∀ t, o = .next t → (∀ c, t.cur = some c → c.stalled = false) →
      step s = InTrapOrder u e (.next (({ t with cur := none }.joinSet k w.gid (w.g.gangMask (w.g.gang lpc depth))).noteWaitsL v k false more))) ∧
    (∀ t c, o = .next t → t.cur = some c → c.stalled = true → step s = InTrapOrder u e ({ t with cur := none }.tryAllL k false more)) ∧ (∀ f, o = .fault f → step s = .fault f) ∧ (∀ r, o = .refused r → step s = .refused r)) ∧
  (∀ (s : State) (i : Instr) (rest : List Entry) (dt : Nat),
    let u := { s with agenda := rest, cycle := s.cycle + dt }
    let e : Entry := { dt := dt, turn := .event i }
    (s.agenda = e :: rest →
      (isStreamInstr i = false → (s.powered = true ∨ i = .packageReset) → step s = InTrapOrder u e (exec i u)) ∧
      (isStreamInstr i = true → step s = InTrapOrder u e (.next u)) ∧ (s.powered = false → i ≠ .packageReset → step s = InTrapOrder u e (.next u))) ∧
    (s.agenda = [] → step s = .next { s with cycle := s.cycle + 1 })) ∧
  (∀ (u x : State) (e : Entry), u.trapped x = none → InTrapOrder u e (.next x) = .next x)

/-- R95 to R99: words written from the encodings decode to the instructions that they stand for, and words with a nonzero reserved bit, an undefined op or a bad field decode to none. -/
def Obligations.DecodingOfSomeWords : Prop :=
  decodeS 0x0430_8700 = some (.add false 3 2 7) ∧ decodeS 0x0430_8780 = some (.add true 3 2 7) ∧ decodeS 0x0830_BFFF = some (.addi 3 2 0x3FFF) ∧ decodeS 0x1C1A_BCDE = some (.lui 1 0xABCDE) ∧
  decodeS 0x4410_8C05 = none ∧ decodeS 0x5104_1804 = some (.br .ltI 2 3 4) ∧ decodeS 0x57FF_FFFF = some (.jmp 0x3FFFFFF) ∧ decodeS 0x6000_0010 = some (.lrun (.slot 0) 0x10) ∧ decodeS 0x6200_0010 = none ∧
  decodeS 0x8000_0003 = some .exit ∧ decodeS 0x8000_0103 = none ∧ decodeS 0xFC00_0000 = none ∧ decodeS 0x0000_0000 = none ∧
  decodeL 0x007E_0200 0x0304_0500 0 = some (.lAdd { guard := .always, feA := false, feB := false, feC := false, ty := .i32, bsel := .vec, csel := .vec, mod5 := 0, d := 3, a := 4, b := 5, c := 0, w2 := 0 }) ∧ decodeL 0x007E_0200 0x0304_0500 1 = none ∧ decodeL 0x007F_0200 0x0304_0500 0 = none ∧
  decodeL 0x603E_0685 0x0006_0409 0x0030_0000 ≠ none

/-- R95 to R98: the word of every S instruction that the encodings permit decodes to it, whatever its registers, immediate, guard, scope, mode and size; the word has 32 bits.

R98 turned round: a 32-bit word that decodes is the word of what it decodes to, so no bit of it is ignored. -/
def Obligations.ScalarWordsDecodeBackAndForth : Prop :=
  (∀ (i : Instr) (w : Nat), i.wf = true → encodeS i = some w → w < 2 ^ 32 ∧ decodeS w = some i ∧ decodeTableWord 32 w = some i) ∧
  (∀ (i : Instr) (w : Nat), w < 2 ^ 32 → decodeS w = some i → i.wf = true ∧ encodeS i = some w)

/-- R99 to R105: the words W0, W1 and W2 of every lane instruction that the encodings permit decode to it, with every operand at every value, and a triple of 32-bit words that decodes is the encoding of what it decodes to. -/
def Obligations.LaneWordsDecodeBackAndForth : Prop :=
  (∀ (i : Instr) (w0 w1 w2 : Nat), i.wf = true → encodeL i = some (w0, w1, w2) → w0 < 2 ^ 32 ∧ w1 < 2 ^ 32 ∧ w2 < 2 ^ 32 ∧ decodeL w0 w1 w2 = some i ∧
    decodeTableWord 96 (w0 + w1 * 2 ^ 32 + w2 * 2 ^ 64) = some i) ∧
  (∀ (i : Instr) (w0 w1 w2 : Nat), w0 < 2 ^ 32 → w1 < 2 ^ 32 → w2 < 2 ^ 32 → decodeL w0 w1 w2 = some i → i.wf = true ∧ encodeL i = some (w0, w1, w2))

/-- Every step keeps memory, and what the tier's modules hold, in the canonical form: addresses rising, no byte listed that an unlisted address reads as. -/
def Obligations.EveryStepKeepsMemoryCanonical : Prop :=
  ∀ (s t : State), s.memOk = true → step s = .next t → t.memOk = true

/-- R2, R32, R36, R43, R54, R63, R402: the package after reset: every context disabled, no launch, team or group, no event pending, the tables of retirement empty, the full HBM4E size, memory with nothing listed and canonical; the arithmetic clock stands at 0 (the values of the boot block and of link training are log 7). -/
def Obligations.ResetState : Prop :=
  State.reset.memOk = true ∧ State.reset.mem = [] ∧ State.reset.groups = [] ∧ State.reset.teams = [] ∧ State.reset.launches = [] ∧ State.reset.net = [] ∧ State.reset.cycle = 0 ∧ State.reset.powered = true ∧
  (∀ c, (State.reset.ctx c).en = false ∧ (State.reset.ctx c).ev = 0 ∧ (State.reset.ctx c).kq = []) ∧ State.reset.hbmSize = 2 ^ 40 ∧ State.reset.cfgPending = 0 ∧
  (∀ d, d < 16 → (State.reset.die d).inService = true ∧ (State.reset.die d).width = 15) ∧ (∀ k, (State.reset.core k).dead = false ∧ (State.reset.core k).array = none)

/-! ## Scalar arithmetic -/

/-- The answer of an S word that writes `v` to s[d] and goes on at the next word. -/
def scalarResult (s : State) (w : Who) (d : SReg) (v : DWord) : Out := .next (s.setGroup w.gid (w.g.sput d v).next)

/-- `n` is the number of leading zeros of `x`: the bits above are zero, the next one is one. -/
def IsLeadingZeros {k : Nat} (x : BitVec k) (n : Nat) : Prop :=
  n ≤ k ∧ (∀ i, k - n ≤ i → i < k → x.getLsbD i = false) ∧ (n < k → x.getLsbD (k - 1 - n) = true)

/-- R136: the result of every two-source ALU instruction, in the 64-bit form and in the 32-bit form, whose result is sign-extended.

R136: `clz` and `popc` count the leading zeros and the ones of the operand; and no ALU instruction sets a flag or traps (R137). -/
def Obligations.ScalarAlu : Prop :=
  (∀ (s : State) (w : Who) (f : Bool) (d a b : SReg), SReady s w [a, b, d] →
    let x := w.g.sget a
    let y := w.g.sget b
    let both := fun (op64 : DWord → DWord → DWord) (op32 : Word → Word → Word) =>
      scalarResult s w d (if f then (op32 (x.setWidth 32) (y.setWidth 32)).signExtend 64 else op64 x y)
    exec (.add f d a b) s = both (fun x y => x + y) (fun x y => x + y) ∧
    exec (.sub f d a b) s = both (fun x y => x - y) (fun x y => x - y) ∧
    exec (.mul f d a b) s = both (fun x y => x * y) (fun x y => x * y) ∧
    exec (.mulhI f d a b) s = both (fun x y => BitVec.ofInt 64 (x.toInt * y.toInt / 2 ^ 64)) (fun x y => BitVec.ofInt 32 (x.toInt * y.toInt / 2 ^ 32)) ∧
    exec (.mulhN f d a b) s = both (fun x y => BitVec.ofNat 64 (x.toNat * y.toNat / 2 ^ 64)) (fun x y => BitVec.ofNat 32 (x.toNat * y.toNat / 2 ^ 32)) ∧
    exec (.divI f d a b) s = both (fun x y => if y = 0 then BitVec.allOnes 64 else x.sdiv y) (fun x y => if y = 0 then BitVec.allOnes 32 else x.sdiv y) ∧
    exec (.divN f d a b) s = both (fun x y => if y = 0 then BitVec.allOnes 64 else x / y) (fun x y => if y = 0 then BitVec.allOnes 32 else x / y) ∧
    exec (.remI f d a b) s = both (fun x y => if y = 0 then x else x.srem y) (fun x y => if y = 0 then x else x.srem y) ∧
    exec (.remN f d a b) s = both (fun x y => if y = 0 then x else x % y) (fun x y => if y = 0 then x else x % y) ∧
    exec (.and f d a b) s = both (fun x y => x &&& y) (fun x y => x &&& y) ∧
    exec (.or f d a b) s = both (fun x y => x ||| y) (fun x y => x ||| y) ∧
    exec (.xor f d a b) s = both (fun x y => x ^^^ y) (fun x y => x ^^^ y) ∧
    exec (.andn f d a b) s = both (fun x y => x &&& ~~~y) (fun x y => x &&& ~~~y) ∧
    exec (.shl f d a b) s = both (fun x y => x <<< (y.toNat % 64)) (fun x y => x <<< (y.toNat % 32)) ∧
    exec (.shr f d a b) s = both (fun x y => x >>> (y.toNat % 64)) (fun x y => x >>> (y.toNat % 32)) ∧
    exec (.sra f d a b) s = both (fun x y => x.sshiftRight (y.toNat % 64)) (fun x y => x.sshiftRight (y.toNat % 32)) ∧
    exec (.minI f d a b) s = both (fun x y => if x.slt y then x else y) (fun x y => if x.slt y then x else y) ∧
    exec (.maxI f d a b) s = both (fun x y => if x.slt y then y else x) (fun x y => if x.slt y then y else x) ∧
    exec (.minN f d a b) s = both (fun x y => if x < y then x else y) (fun x y => if x < y then x else y) ∧
    exec (.maxN f d a b) s = both (fun x y => if x < y then y else x) (fun x y => if x < y then y else x) ∧
    exec (.sltI f d a b) s = both (fun x y => if x.slt y then 1 else 0) (fun x y => if x.slt y then 1 else 0) ∧
    exec (.sltN f d a b) s = both (fun x y => if x < y then 1 else 0) (fun x y => if x < y then 1 else 0) ∧
    exec (.seq f d a b) s = both (fun x y => if x = y then 1 else 0) (fun x y => if x = y then 1 else 0)) ∧
  (∀ (s : State) (w : Who) (d a : SReg), SReady s w [a, d] →
    let x := w.g.sget a
    let ones := fun (k : Nat) (y : BitVec k) => ((List.range k).map fun i => (y.getLsbD i).toNat).sum
    (∃ n, IsLeadingZeros x n ∧ exec (.clz false d a) s = scalarResult s w d (BitVec.ofNat 64 n)) ∧
    (∃ n, IsLeadingZeros (x.setWidth 32) n ∧ exec (.clz true d a) s = scalarResult s w d (BitVec.ofNat 64 n)) ∧
    exec (.popc false d a) s = scalarResult s w d (BitVec.ofNat 64 (ones 64 x)) ∧
    exec (.popc true d a) s = scalarResult s w d (BitVec.ofNat 64 (ones 32 (x.setWidth 32))))

/-- R138: the immediate instructions, with the immediate sign-extended from its field; `lui` shifts it by 12, `lhi` keeps the low 44 bits of s[d]. -/
def Obligations.ScalarImmediates : Prop :=
  ∀ (s : State) (w : Who) (d a : SReg) (imm : BitVec 14) (sh : BitVec 6) (up : BitVec 20), SReady s w [a, d] →
    let x := w.g.sget a
    let v := imm.signExtend 64
    exec (.addi d a imm) s = scalarResult s w d (x + v) ∧
    exec (.andi d a imm) s = scalarResult s w d (x &&& v) ∧
    exec (.ori d a imm) s = scalarResult s w d (x ||| v) ∧
    exec (.xori d a imm) s = scalarResult s w d (x ^^^ v) ∧
    exec (.shli d a sh) s = scalarResult s w d (x <<< sh.toNat) ∧
    exec (.shri d a sh) s = scalarResult s w d (x >>> sh.toNat) ∧
    exec (.srai d a sh) s = scalarResult s w d (x.sshiftRight sh.toNat) ∧
    exec (.rotli d a sh) s = scalarResult s w d (x.rotateLeft sh.toNat) ∧
    exec (.slti d a imm) s = scalarResult s w d (if x.slt v then 1 else 0) ∧
    exec (.lui d up) s = scalarResult s w d (up.signExtend 64 <<< 12) ∧
    exec (.lhi d up) s = scalarResult s w d (up ++ (w.g.sget d).setWidth 44)

/-- An FP32 value is a NaN. -/
def isNan32 (x : Word) : Bool := x &&& 0x7F800000 == 0x7F800000 && x &&& 0x007FFFFF != 0

/-- R139: the scalar FP32 instructions take bits [31:0], round to nearest even, write bits [63:32] as zero; a NaN operand gives the
canonical NaN, and comparisons with a NaN give 0. -/
def Obligations.ScalarFp : Prop :=
  ∀ (s : State) (w : Who) (d a b : SReg), SReady s w [a, b, d] →
    let x := (w.g.sget a).setWidth 32
    let y := (w.g.sget b).setWidth 32
    let z := (w.g.sget d).setWidth 32
    let out := fun (v : Word) => scalarResult s w d (v.setWidth 64)
    exec (.fadd d a b) s = out (round32 .rne (Fp.add false (f32 x) (f32 y))) ∧
    exec (.fsub d a b) s = out (round32 .rne (Fp.add false (f32 x) (f32 y).neg)) ∧
    exec (.fmul d a b) s = out (round32 .rne (Fp.mul (f32 x) (f32 y))) ∧
    exec (.fdiv d a b) s = out (round32 .rne (Fp.div (f32 x) (f32 y))) ∧
    exec (.fmac d a b) s = out (round32 .rne (Fp.add false (f32 z) (Fp.mul (f32 x) (f32 y)))) ∧
    exec (.fsqrt d a) s = out (round32 .rne (f32 x).sqrt) ∧
    exec (.fmin d a b) s = out (BitVec.ofNat 32 (minNum fmtF32 x.toNat y.toNat)) ∧
    exec (.fmax d a b) s = out (BitVec.ofNat 32 (maxNum fmtF32 x.toNat y.toNat)) ∧
    exec (.fcvtI d a) s = scalarResult s w d (BitVec.ofInt 64 (toIntClamp .rne (-2 ^ 63) (2 ^ 63 - 1) (f32 x))) ∧
    exec (.icvtF d a) s = out (round32 .rne (fpOfInt (w.g.sget a).toInt)) ∧
    exec (.flt d a b) s = scalarResult s w d (if (f32 x).lt (f32 y) then 1 else 0) ∧
    exec (.feq d a b) s = scalarResult s w d (if (f32 x).eq (f32 y) then 1 else 0)

/-- The frame of the scalar instructions that write one register: in any next state only s[d] of the issuing group changes among the
scalar registers; no flag, guard, MOD register, trap register or lane changes, nor memory, nor another group (R133, R137, R139). -/
def Obligations.ScalarFrame : Prop :=
  ∀ (i : Instr) (d : SReg) (s t : State) (c : Cur) (g : Group),
    i.scalarDst = some d → s.cur = some c → aget s.groups c.gid = some g → exec i s = .next t →
    (∀ a, cellRead t.mem a = cellRead s.mem a) ∧ t.teams = s.teams ∧ t.ctxs = s.ctxs ∧ t.cores = s.cores ∧ t.net = s.net ∧
    (∀ j, j ≠ c.gid → aget t.groups j = aget s.groups j) ∧
    ∃ h, aget t.groups c.gid = some h ∧ (∀ r, r ≠ d → h.sget r = g.sget r) ∧ h.ovfl = g.ovfl ∧ h.nval = g.nval ∧
      h.guards = g.guards ∧ h.mods = g.mods ∧ h.trap = g.trap ∧ h.lanes = g.lanes ∧ h.vfe = g.vfe ∧ h.quar = g.quar

/-- R111: an FP32 instruction of either stream whose operand is a NaN gives the canonical NaN 0x7FC0_0000: addition, multiplication, division and
square root under every rounding mode.

R113: a value that FP32 represents rounds to itself under every rounding code, so a result that is exact is never changed. -/
def Obligations.NumbersRoundAsStated : Prop :=
  (∀ (md : Rnd) (down : Bool) (x y : Word), isNan32 x = true →
    round32 md (Fp.add down (f32 x) (f32 y)) = 0x7FC00000 ∧ round32 md (Fp.add down (f32 y) (f32 x)) = 0x7FC00000 ∧
    round32 md (Fp.mul (f32 x) (f32 y)) = 0x7FC00000 ∧ round32 md (Fp.mul (f32 y) (f32 x)) = 0x7FC00000 ∧
    round32 md (Fp.div (f32 x) (f32 y)) = 0x7FC00000 ∧ round32 md (Fp.div (f32 y) (f32 x)) = 0x7FC00000 ∧
    round32 md (f32 x).sqrt = 0x7FC00000 ∧ round32 md (f32 x).rsqrt = 0x7FC00000) ∧
  (∀ (md : Rnd) (x : Word), isNan32 x = false → round32 md (f32 x) = x)

/-! ## Scalar control flow -/

/-- The condition of a branch, from the table of R145. -/
def BranchTaken (c : BrCond) (x y : DWord) : Prop :=
  match c with
  | .eq => x = y
  | .ne => x ≠ y
  | .ltI => x.toInt < y.toInt
  | .geI => y.toInt ≤ x.toInt
  | .ltN => x.toNat < y.toNat
  | .geN => y.toNat ≤ x.toNat

/-- R145: `br` compares 64-bit values and sets PC := PC + 4·off11 when its condition holds, else goes on at PC + 4; `jmp` sets
PC := PC + 4·off26; `call` first sets s63 := PC + 4. -/
def Obligations.BranchesJumpsCalls : Prop :=
  ∀ (s : State) (w : Who) (cond : BrCond) (a b : SReg) (off11 : BitVec 11) (off26 : BitVec 26),
    let pc := w.g.spc
    (SReady s w [a, b] → BranchTaken cond (w.g.sget a) (w.g.sget b) →
      exec (.br cond a b off11) s = .next (s.setGroup w.gid (w.g.goto (pc + 4 * off11.signExtend 64)))) ∧
    (SReady s w [a, b] → ¬ BranchTaken cond (w.g.sget a) (w.g.sget b) →
      exec (.br cond a b off11) s = .next (s.setGroup w.gid (w.g.goto (pc + 4)))) ∧
    (SReady s w [] → exec (.jmp off26) s = .next (s.setGroup w.gid (w.g.goto (pc + 4 * off26.signExtend 64)))) ∧
    (SReady s w [63] →
      exec (.call off26) s = .next (s.setGroup w.gid ((w.g.sput 63 (pc + 4)).goto (pc + 4 * off26.signExtend 64))))

/-- The dispatch table entry that index `ix` names (R21): the word fetched at SDTAB + 4·ix. -/
def SEntry (s : State) (w : Who) (ix : Nat) (e : Word) : Prop :=
  s.fetchWord w.core w.ctx false (BitVec.ofNat 64 (w.lrec.sdtab.toNat + 4 * ix)) = .word e

/-- R146: `jr` and `ret` jump to the address in s[a] and s63 with bits [1:0] taken as 0; `dcall` and `djmp` check s[a][31:0] against SDLEN and jump to
SBASE + 4 · the entry, `dcall` with the return address in s63; an index at or above SDLEN takes the dispatch-range trap, with the index in TRAPADDR. -/
def Obligations.RegisterJumpsAndDispatch : Prop :=
  ∀ (s : State) (w : Who) (a : SReg) (e : Word),
    let ix := (w.g.sget a).toNat % 2 ^ 32
    let target := BitVec.ofNat 64 (w.lrec.sbase.toNat + 4 * e.toNat)
    let ranged := { code := 0x03, pc := w.g.spc, addr := BitVec.ofNat 64 ix : Cause }
    (SReady s w [a] → exec (.jr a) s = .next (s.setGroup w.gid (w.g.goto (w.g.sget a &&& ~~~3)))) ∧
    (SReady s w [63] → exec .ret s = .next (s.setGroup w.gid (w.g.goto (w.g.sget 63 &&& ~~~3)))) ∧
    (SReady s w [a, 63] → ix < w.lrec.sdlen → SEntry s w ix e →
      exec (.dcall a) s = .next (s.setGroup w.gid ((w.g.sput 63 (w.g.spc + 4)).goto target))) ∧
    (SReady s w [a] → ix < w.lrec.sdlen → SEntry s w ix e → exec (.djmp a) s = .next (s.setGroup w.gid (w.g.goto target))) ∧
    (SReady s w [a, 63] → w.lrec.sdlen ≤ ix → exec (.dcall a) s = .next (s.takeCause w.gid ranged true)) ∧
    (SReady s w [a] → w.lrec.sdlen ≤ ix → exec (.djmp a) s = .next (s.takeCause w.gid ranged true))

/-! ## Traps -/

/-- The group can take a program trap into its handler (R366, R28): it is neither finished, parked, struck nor in its handler, its S-stream has
not ended, and the launch has a handler. -/
structure Delivers (w : Who) : Prop where
  running : w.g.done = false
  unparked : w.g.park = none
  unstruck : w.g.striking = false
  outside : w.g.inHandler = false
  streaming : w.g.sExited = false
  handler : w.lrec.trapvec ≠ 0xFFFFFFFF

/-- The group after a program trap of an S word (R366): TRAPCAUSE holds the code alone, TRAPPC the word's address, TRAPLPC all ones, TRAPADDR the
address given, TRAPRP the word's address; the group is in its handler at SBASE + 4·TRAPVEC, and a running block is stopped. -/
def EntersHandler (g h : Group) (r : LaunchRec) (code : BitVec 8) (addr : DWord) : Prop :=
  h.trap.cause = code.setWidth 64 ∧ h.trap.pc = g.spc ∧ h.trap.lpc = 0xFFFFFFFF ∧ h.trap.addr = addr ∧ h.trap.rp = g.spc ∧
    h.trap.donemask = g.trap.donemask ∧ h.inHandler = true ∧ h.spc = BitVec.ofNat 64 (r.sbase.toNat + 4 * r.trapvec) ∧
    (∀ b, h.block = some b → b.stopped = true) ∧ h.sregs = g.sregs ∧ h.lanes = g.lanes ∧ h.guards = g.guards ∧ h.sfe = g.sfe

/-- R153, R98, R154: `trap` raises the software trap with s[a] in TRAPADDR, an illegal S word the illegal-instruction trap, and so does an `eret` outside
the handler; each enters the handler, with no other effect.

R369, R28: a trap raised in the handler, or in a launch without one, parks the group: the trap registers are written with SYS set, the cause is kept
for the host, the group issues no more, and its context-fault record is written, with interrupt source 5 pending, or held behind a completion queue that cannot take it (R46, R62).

R154, R368: `eret` in the handler with nothing rejected leaves it at the resume point and lets a stopped block go on; `eret sA` leaves it at s[a] with bits
[1:0] zero, ends the stopped block, makes every lane at-end and clears DONEMASK. -/
def Obligations.TrapsAndReturns : Prop :=
  (∀ (s : State) (w : Who) (a : SReg) (word : Word), Delivers w →
    let enters := fun (o : Out) (code : BitVec 8) (addr : DWord) =>
      ∃ h, o = .next (s.setGroup w.gid h) ∧ EntersHandler w.g h w.lrec code addr
    (SReady s w [a] → enters (exec (.trap a) s) 0x0C (w.g.sget a)) ∧
    (SReady s w [] → enters (exec (.illegalInstruction word) s) 0x01 0) ∧
    (SReady s w [] → enters (exec .eret s) 0x01 0) ∧
    (SReady s w [a] → enters (exec (.eretTo a) s) 0x01 0)) ∧
  (∀ (s : State) (w : Who) (a : SReg), SReady s w [a] → w.g.done = false → w.g.park = none → w.g.striking = false →
    (w.g.inHandler = true ∨ w.lrec.trapvec = 0xFFFFFFFF) →
    Leads (exec (.trap a) s) fun t =>
      ((∃ e, aget t.ints 5 = some e ∧ e.pend = true) ∨
        ∃ r ∈ (t.ctx w.ctx).held, r.typ = 3 ∧ r.status = 0x0C ∧ r.slot = w.launch.slot ∧ r.ctag = w.lrec.ctag) ∧
      ∃ h p, aget t.groups w.gid = some h ∧ h.park = some p ∧ p.cause.code = 0x0C ∧ p.nest = w.g.inHandler ∧
        h.trap.pc = w.g.spc ∧ h.trap.addr = w.g.sget a ∧ h.trap.cause.getLsbD 17 = true ∧ h.spc = w.g.spc ∧ h.sregs = w.g.sregs ∧
        t.mayIssue h = false) ∧
  (∀ (s : State) (w : Who) (a : SReg), w.g.inHandler = true → w.g.kept = none →
    (SReady s w [] → w.g.rejected = [] → (∀ x ∈ s.reqs, x.2.gid ≠ w.gid) → Leads (exec .eret s) fun t =>
      ∃ h, aget t.groups w.gid = some h ∧
        h.inHandler = false ∧ h.spc = w.g.trap.rp ∧ (∀ b, h.block = some b → b.stopped = false) ∧ h.sregs = w.g.sregs ∧
        h.trap = w.g.trap ∧ h.lanes = w.g.lanes) ∧
    (SReady s w [a] → Leads (exec (.eretTo a) s) fun t => ∃ h, aget t.groups w.gid = some h ∧
        h.inHandler = false ∧ h.spc = w.g.sget a &&& ~~~3 ∧ h.block = none ∧ h.trap.donemask = 0 ∧ h.sregs = w.g.sregs ∧
        (w.g.block ≠ none → ∀ l, (h.lane l).life = (w.g.lane l).life ∧ ((aget h.lanes l).isSome → (h.lane l).atEnd = true))))

/-! ## CSRs, guards, the rest of the system instructions -/

/-- R83, R150: `csrr` of a fast CSR writes its value: the trap registers, OVFL and NVAL, the MOD registers, CGSEED, HANGLIM, CYCLE, GEN, and the core's
floors; a slow CSR marks the destination empty and becomes a producer; an absent one raises the illegal-instruction trap. -/
def Obligations.CsrReads : Prop :=
  ∀ (s : State) (w : Who) (d : SReg), SReady s w [d] →
    let reads := fun (num : BitVec 14) (v : DWord) => exec (.csrr d num) s = scalarResult s w d v
    reads 0x001 w.g.trap.cause ∧ reads 0x002 w.g.trap.pc ∧ reads 0x003 w.g.trap.lpc ∧ reads 0x004 w.g.trap.addr ∧
    reads 0x005 w.g.trap.donemask ∧ reads 0x006 w.g.trap.rp ∧
    reads 0x008 (if w.g.ovfl.read s.cycle then 1 else 0) ∧ reads 0x009 (if w.g.nval.read s.cycle then 1 else 0) ∧
    (∀ k : BitVec 3, reads (0x010 + k.setWidth 14) (w.g.modReg k.toNat)) ∧
    reads 0x020 ((s.core w.core).cgRead s.cycle) ∧ reads 0x021 (s.ctx w.ctx).hanglim ∧ reads 0x022 (BitVec.ofNat 64 s.cycle) ∧
    reads 0x023 ((s.genStamp w.core w.ctx).setWidth 64) ∧
    (∀ i : BitVec 12, reads (0x1000 + i.setWidth 14) (((s.core w.core).floor w.ctx i.toNat).setWidth 64)) ∧
    (∀ num : BitVec 14, num = 0x030 ∨ (0x040 ≤ num ∧ num ≤ 0x044) → Leads (exec (.csrr d num) s) fun t =>
      aget t.groups w.gid = some (w.g.sempty d).next ∧
        ∃ q, aget t.reqs s.nextId = some q ∧ q.gid = w.gid ∧ q.dst = .slowCsr d num.toNat) ∧
    exec (.csrr d 0x007) s = .next (s.takeCause w.gid { code := 0x01, pc := w.g.spc } true)

/-- R88, R84, R120, R151: the writable CSRs. SEMPTY marks empty the registers of its mask, never s0; CGSEED replaces the generator after the cycle's steps;
bit 0 clears OVFL and NVAL; MOD takes a base and a nonzero length, and a zero length traps.

R120: a flag that an instruction sets in a cycle survives a clear of the same cycle, and reads set from the next cycle on; a clear of a later cycle stands. -/
def Obligations.CsrWritesAndStickyFlags : Prop :=
  (∀ (s : State) (w : Who) (a : SReg) (m : BitVec 3), SReady s w [a] →
    let v := w.g.sget a
    let answers := fun (i : Instr) (p : Group → Prop) => ∃ h, exec i s = .next (s.setGroup w.gid h) ∧ p h ∧
      h.spc = w.g.spc + 4 ∧ h.sregs = w.g.sregs ∧ h.lanes = w.g.lanes ∧ h.trap = w.g.trap
    answers (.csrwSempty a) (fun h => (∀ r : SReg, r ≠ 0 → h.sfull r = (w.g.sfull r && !v.getLsbD r.toNat)) ∧ h.sfull 0 = true ∧
      h.mods = w.g.mods ∧ h.ovfl = w.g.ovfl ∧ h.nval = w.g.nval) ∧
    answers (.csrwOvfl a) (fun h => h.sfe = w.g.sfe ∧ h.mods = w.g.mods ∧ h.nval = w.g.nval ∧
      h.ovfl = if v.getLsbD 0 then w.g.ovfl.clear s.cycle else w.g.ovfl) ∧
    answers (.csrwNval a) (fun h => h.sfe = w.g.sfe ∧ h.mods = w.g.mods ∧ h.ovfl = w.g.ovfl ∧
      h.nval = if v.getLsbD 0 then w.g.nval.clear s.cycle else w.g.nval) ∧
    (v.toNat / 2 ^ 32 ≠ 0 → answers (.csrwMod m a) fun h => h.sfe = w.g.sfe ∧ h.ovfl = w.g.ovfl ∧ h.nval = w.g.nval ∧
      h.modReg m.toNat = v ∧ ∀ k, k ≠ m.toNat → h.modReg k = w.g.modReg k) ∧
    (v.toNat / 2 ^ 32 = 0 → exec (.csrwMod m a) s = .next (s.takeCause w.gid { code := 0x01, pc := w.g.spc } true)) ∧
    Leads (exec (.csrwCgseed a) s) fun t => aget t.groups w.gid = some w.g.next ∧
      (t.core w.core).cgRead s.cycle = (s.core w.core).cgRead s.cycle ∧ ((t.core w.core).cgSettle (s.cycle + 1)).cg = v ∧
      (∀ k, coreIx k ≠ coreIx w.core → t.core k = s.core k)) ∧
  (∀ (f : Flag) (now later : Nat), now < later →
    ((f.set now).clear now).read later = true ∧ (f.set now).read later = true ∧ ((f.set now).clear later).read later = false ∧
    ((f.set now).clear later).read (later + 1) = false ∧ ({} : Flag).read now = false)

/-- R92, R149: `gset` and `gnot` resolve an unresolved slot by whether s[a] is zero, and trap on a resolved one; `gfree` of a slot that no queued command
names makes it unresolved, and of an unresolved slot does nothing.

R148, R91: an `lrun` with room in the L-queue appends a lane block of its offset under its guard, without waiting for it; with four commands in the
queue and none of their guards held it waits.

R155, R156, R159: `nop` only goes on; `yield` also notes the cycle from which other groups go first; `exit` ends the S-stream and takes every unresolved
guard slot as false, the resolved ones standing. -/
def Obligations.GuardsBlocksAndTheRest : Prop :=
  (∀ (s : State) (w : Who) (a : SReg) (n : BitVec 4),
    let slot := aget w.g.guards n.toNat
    let set := fun (b : Bool) => .next (s.setGroup w.gid { w.g with guards := aset w.g.guards n.toNat b }.next)
    let trap := .next (s.takeCause w.gid { code := 0x01, pc := w.g.spc } true)
    (SReady s w [a] → slot = none → exec (.gset n a) s = set (w.g.sget a != 0)) ∧
    (SReady s w [a] → slot = none → exec (.gnot n a) s = set (w.g.sget a == 0)) ∧
    (SReady s w [a] → slot.isSome → exec (.gset n a) s = trap ∧ exec (.gnot n a) s = trap) ∧
    (SReady s w [] → slot = none → exec (.gfree n) s = .next (s.setGroup w.gid w.g.next)) ∧
    (SReady s w [] → slot.isSome → s.slotNamed w.g n.toNat = false →
      exec (.gfree n) s = .next (s.setGroup w.gid { w.g with guards := adel w.g.guards n.toNat }.next))) ∧
  (∀ (s : State) (w : Who) (g : GuardSel) (off : BitVec 21), SReady s w [] → s.getPending w.gid = false →
    (s.canEnqueue w 0 = true → Leads (exec (.lrun g off) s) fun t =>
      aget t.groups w.gid = some { w.g.next with lq := w.g.lq ++ [s.nextId] } ∧
      ∃ c, aget t.cmds s.nextId = some c ∧ c.kind = .lrun ∧ c.args = [off.setWidth 64] ∧ c.pc = w.g.spc ∧ c.started = false ∧
        c.guard = (match g with
          | .slot n => some n.toNat
          | .none => none)) ∧
    (w.g.lq.length = 4 → s.headDeadlocked w.g w.g.lq = false → exec (.lrun g off) s = s.sStall w.gid w.g .none 0) ∧
    (w.g.lq.length = 4 → s.headDeadlocked w.g w.g.lq = true →
      exec (.lrun g off) s = .next (s.takeCause w.gid { code := 0x01, sub := 1, pc := w.g.spc } true))) ∧
  (∀ (s : State) (w : Who), SReady s w [] →
    exec .nop s = .next (s.setGroup w.gid w.g.next) ∧
    exec .yield s = .next (s.setGroup w.gid { w.g.next with yieldFrom := some s.cycle }) ∧
    ∃ h, exec .exit s = .next (s.setGroup w.gid h) ∧ h.sExited = true ∧ h.sregs = w.g.sregs ∧ h.lanes = w.g.lanes ∧ h.lq = w.g.lq ∧
      (∀ n, n < 16 → aget h.guards n = some ((aget w.g.guards n).getD false)))

/-! ## Scalar loads and stores -/

/-- The effective address of a scalar access in a mode, and s[a] after it (R141): offset, post-increment; modulo mode names a scratchpad offset and moves
it within the ring of base MOD[31:0] and length MOD[63:32]. -/
def ScalarAddress (g : Group) (a : SReg) (mode : SMode) (ea : DWord) (after : DWord) : Prop :=
  match mode with
  | .offset disp => ea = g.sget a + disp.signExtend 64 ∧ after = g.sget a
  | .postInc disp => ea = g.sget a ∧ after = g.sget a + disp.signExtend 64
  | .modulo k inc =>
    let base := (g.modReg k.toNat).toNat % 2 ^ 32
    let len := (g.modReg k.toNat).toNat / 2 ^ 32
    let o := (g.sget a).toNat % 2 ^ 32
    ea = BitVec.ofNat 64 o ∧
      after = BitVec.ofNat 64 ((base + ((o + 2 ^ 32 - base) % 2 ^ 32 + inc.toNat) % len) % 2 ^ 32)

/-- R140, R141, R143: a load whose address resolves (`us`) and whose bytes need not wait (`parts`) issues: s[a] is updated by its mode, s[t] is empty, the next
word follows, a request stands for s[t] with the parts of the access, and memory is as before.

R134, R141, R142: a scalar load or store whose address does not resolve takes the fault, with the effective address in TRAPADDR; nothing is updated. R219, R375: where only the
generation stands against it, the word waits and takes no fault. -/
def Obligations.ScalarLoads : Prop :=
  (∀ (s s1 : State) (w : Who) (size : BitVec 2) (t a : SReg) (mode : SMode) (ea after : DWord) (us : List RUnit) (parts : List Part),
    SReady s w [a, t] → s.getPending w.gid = false → ScalarAddress w.g a mode ea after →
    s.sUnits w .read (w.g.saddr a mode) (2 ^ size.toNat) = .ok us → s.loadParts w none 0 ea none true us = some (parts, s1) →
    let loads := fun (i : Instr) (sext : Bool) => Leads (exec i s) fun u =>
      (∃ h, aget u.groups w.gid = some h ∧ h.spc = w.g.spc + 4 ∧ (t ≠ 0 → h.sfull t = false) ∧
        (∀ r : SReg, r ≠ a → h.sget r = w.g.sget r) ∧ (a ≠ 0 → h.sget a = after) ∧
        (∀ r : SReg, r ≠ t → r ≠ a → h.sfull r = w.g.sfull r)) ∧
      (∃ q, aget u.reqs s1.nextId = some q ∧ q.gid = w.gid ∧ q.dst = .scalar t sext (2 ^ size.toNat) ∧ q.pc = w.g.spc ∧
        q.parts.map (fun p => (p.ea, p.place, p.n, p.value)) = parts.map (fun p => (p.ea, p.place, p.n, p.value))) ∧
      (∀ x, cellRead u.mem x = cellRead s.mem x)
    loads (.ld size t a mode) false ∧ loads (.ldx size t a mode) true) ∧
  (∀ (s : State) (w : Who) (size : BitVec 2) (t a : SReg) (mode : SMode) (ea after : DWord) (code : BitVec 8),
    SReady s w [a, t] → s.getPending w.gid = false → ScalarAddress w.g a mode ea after →
    let fault := .next ((s.noteWorld code).takeCause w.gid { code := code, pc := w.g.spc, addr := ea } true)
    let out := if code = 0x07 then s.sStall w.gid w.g .none 0 else fault
    (s.sUnits w .read (w.g.saddr a mode) (2 ^ size.toNat) = .error code →
      exec (.ld size t a mode) s = out ∧ exec (.ldx size t a mode) s = out) ∧
    (w.g.relPend = none → s.sUnits w .write (w.g.saddr a mode) (2 ^ size.toNat) = .error code → exec (.st size t a mode) s = out))

/-- R141, R143, R223: an aligned store in modulo mode writes the low N bytes of s[t], lowest first, at the scratchpad offset in s[a], moves s[a] in its ring, and
changes no other byte of the team's scratchpad, no other team, no memory, and no register but s[a].

R378, R229: a store whose units all lie in memory enters the quarantine as one entry of this cycle, holding for each unit a masked store of its bytes at its place;
at its issue it changes no byte of memory or scratchpad. (A store that a fence has left a release to begins that first: ScalarFences.) -/
def Obligations.ScalarStores : Prop :=
  (∀ (s : State) (w : Who) (size : BitVec 2) (t a : SReg) (k : BitVec 3) (inc : BitVec 7) (ea after : DWord),
    let n := 2 ^ size.toNat
    SReady s w [a, t] → s.getPending w.gid = false → w.g.relPend = none → ScalarAddress w.g a (.modulo k inc) ea after →
    ea.toNat + n ≤ w.lrec.scratch → ea.toNat % n = 0 → s.spBusy w.gid w.g (.scratch w.g.team ea.toNat) n = false →
    Leads (exec (.st size t a (.modulo k inc)) s) fun u =>
      (∃ h, aget u.groups w.gid = some h ∧ h.spc = w.g.spc + 4 ∧ (a ≠ 0 → h.sget a = after) ∧
        (∀ r : SReg, r ≠ a → h.sget r = w.g.sget r) ∧ h.quar = w.g.quar ∧ h.ovfl = w.g.ovfl ∧ h.lanes = w.g.lanes) ∧
      (∃ x, aget u.teams w.g.team = some x ∧ x.spRead ea.toNat n = leBytes n (w.g.sget t).toNat ∧
        ∀ o, o < ea.toNat ∨ ea.toNat + n ≤ o → x.spGet o = w.team.spGet o) ∧
      (∀ j, j ≠ w.g.team → aget u.teams j = aget s.teams j) ∧ (∀ x, cellRead u.mem x = cellRead s.mem x)) ∧
  (∀ (s : State) (w : Who) (size : BitVec 2) (t a : SReg) (mode : SMode) (ea after : DWord) (us : List RUnit),
    let n := 2 ^ size.toNat
    SReady s w [a, t] → s.getPending w.gid = false → w.g.relPend = none → ScalarAddress w.g a mode ea after →
    s.sUnits w .write (w.g.saddr a mode) n = .ok us → us ≠ [] → (∀ u ∈ us, ∀ x o, u.place ≠ .scratch x o) → w.g.region = none →
    Leads (exec (.st size t a mode) s) fun v =>
      (∀ x, cellRead v.mem x = cellRead s.mem x) ∧ v.teams = s.teams ∧ v.net = s.net ∧
      ∃ h q, aget v.groups w.gid = some h ∧ h.spc = w.g.spc + 4 ∧ (a ≠ 0 → h.sget a = after) ∧ (∀ r : SReg, r ≠ a → h.sget r = w.g.sget r) ∧
        h.quar = w.g.quar ++ [q] ∧ q.at_ = s.cycle ∧
        (q.effects.flatMap Effect.msgs).map (fun m => (m.place, m.ea, m.kind)) =
          us.map (fun u => (u.place, ea, MsgKind.store (((leBytes n (w.g.sget t).toNat).drop u.off |>.take u.n).map some) u.place.persist false)))

/-! ## Scalar fences, barriers and events -/

/-- R298, R302, R304: a release fence begins when the S-stream has nothing in quarantine: it holds the stream, and a release of its scope stands for the messages of the core's
rounds up to the one that it closes.

R294, R298: the first store of the S-stream after a release fence begins a release of the fence's scope before it is performed.

R293, R298, R299, R302: a fence whose release has been performed leaves its scope to the stream's next write; it, and an acquire fence whose earlier reads have been performed, goes on at the next word; the acquire at
`.clu` or wider leaves in the core's L1 no clean word of the context outside the round regions. -/
def Obligations.ScalarFences : Prop :=
  (∀ (s : State) (w : Who) (scope : Scope), SReady s w [] → w.g.hold = none → w.g.sQuarEmpty = true →
    let begins := fun (o : Out) => Leads o fun t => ∃ g hd id r, aget t.groups w.gid = some g ∧ g.hold = some hd ∧ hd.stage = 1 ∧ hd.ids = [id] ∧
      hd.pc = w.g.spc ∧ g.spc = w.g.spc ∧ aget t.rels id = some r ∧ r.gid = w.gid ∧ r.scope = scope ∧ r.core = w.core ∧
      (t.core w.core).rho = r.rho + 1
    begins (exec (.fenceRel scope) s) ∧ begins (exec (.fenceAr scope) s) ∧
    ∀ (size : BitVec 2) (t a : SReg) (mode : SMode), SReady s w [a, t] → s.getPending w.gid = false → w.g.relPend = some scope →
      begins (exec (.st size t a mode) s)) ∧
  (∀ (s : State) (w : Who) (scope : Scope) (h : SHold), SReady s w [] →
    let acquired := fun (g : Group) (t : State) => t.groups = (s.setGroup w.gid g.next).groups ∧ t.mem = s.mem ∧
      (scopeWide scope = true → ∀ x ∈ (t.core w.core).l1, x.ctx = w.ctx → x.region = none → ∀ y ∈ x.words, y.2.dirty = true) ∧
      (scopeWide scope = false → t.cores = s.cores)
    (w.g.hold = some h → h.stage = 1 → (∀ i ∈ h.ids, aget s.rels i = none) →
      exec (.fenceRel scope) s = .next (s.setGroup w.gid (w.g.leaveRelease scope).next) ∧
      Leads (exec (.fenceAr scope) s) (acquired (w.g.leaveRelease scope))) ∧
    (s.sReadsDone w.gid = true → Leads (exec (.fenceAcq scope) s) (acquired w.g)) ∧
    (∃ x, (w.g.leaveRelease scope).relPend = some x ∧ scopeRank scope ≤ scopeRank x))

/-- The S word of `w` enters the quarantine with one update of the barrier at (team, offset) `p`. -/
def EntersWithUpdate (s : State) (w : Who) (o : Out) (p : Nat × Nat) (k : MsgKind) : Prop :=
  ∃ h q m, o = .next { s.setGroup w.gid h with nextId := s.nextId + 1 } ∧ h.spc = w.g.spc + 4 ∧ h.sregs = w.g.sregs ∧ h.sfe = w.g.sfe ∧
    h.quar = w.g.quar ++ [q] ∧ q.at_ = s.cycle ∧ q.effects.flatMap Effect.msgs = [m] ∧ m.kind = k ∧ m.place = .scratch p.1 p.2

/-- R286, R289: `bwait` goes on when phase s[b] has passed, by (PHASE − n − 1) mod 2^32 < 2^31, and else waits as a barrier wait; `btest` writes 1 or 0 by the same test. -/
def Obligations.BarrierTests : Prop :=
  ∀ (s : State) (w : Who) (d a b : SReg) (p : Nat × Nat) (t : Team), s.getPending w.gid = false → s.sBar w a = some p →
    aget s.teams p.1 = some t → s.spBusy w.gid w.g (.scratch p.1 p.2) 32 = false →
    t.spPoisoned p.2 4 = false → t.spPoisoned (p.2 + 12) 4 = false →
    let phase := leNat (t.spRead p.2 4)
    let n := (w.g.sget b).toNat % 2 ^ 32
    let passed := (phase + 2 ^ 33 - n - 1) % 2 ^ 32 < 2 ^ 31
    (SReady s w [a, b] → passed → Leads (exec (.bwait a b) s) fun u => aget u.groups w.gid = some w.g.next ∧ u.mem = s.mem) ∧
    (SReady s w [a, b] → ¬ passed → exec (.bwait a b) s = s.sStall w.gid w.g .barrier (w.g.sget a)) ∧
    (SReady s w [a, b, d] → passed → Leads (exec (.btest d a b) s) fun u => aget u.groups w.gid = some (w.g.sput d 1).next) ∧
    (SReady s w [a, b, d] → ¬ passed → exec (.btest d a b) s = scalarResult s w d 0)

/-- R289, R290: `binit`, `bexp` and `barr` whose address names a live barrier place of the cluster enter the quarantine with one update for it, and the stream goes on; a `binit`
value with a reserved bit or SCOPE 7 raises the illegal-instruction trap, a bad address the translation fault.

R160, R157, R59: `evset` whose release has been performed ORs s[a] into window N of EVVAL in one step and goes on. `klaunch` whose release has been performed
writes 1 when the kernel queue holds 64 entries; when its record has been read and the queue still has room it appends the record under SLOT = the depth found, and writes 0; when others have filled the queue
meanwhile it writes 1 (log 88).

R158, R380: an S `rgn` of a launch with RGN = 1 holds both streams, first for the group's producers, then for the strike-free count; with RGN = 0 it is illegal. -/
def Obligations.BarrierWordsEventsAndRegions : Prop :=
  (∀ (s : State) (w : Who) (a b : SReg) (p : Nat × Nat), s.getPending w.gid = false → w.g.relPend = none → w.g.region = none →
    let v := w.g.sget b
    let fault := fun (code : BitVec 8) (addr : DWord) => .next (s.takeCause w.gid { code := code, pc := w.g.spc, addr := addr } true)
    let badValue := v.toNat / 2 ^ 36 ≠ 0 ∨ v.toNat / 2 ^ 32 % 8 = 7
    (SReady s w [a, b] → s.sBar w a = some p → ¬ badValue → EntersWithUpdate s w (exec (.binit a b) s) p (.barInit v)) ∧
    (SReady s w [a, b] → badValue → exec (.binit a b) s = fault 0x01 0) ∧
    (SReady s w [a, b] → s.sBar w a = some p → EntersWithUpdate s w (exec (.bexp a b) s) p (.barArm v)) ∧
    (SReady s w [a, 0] → s.sBar w a = some p → EntersWithUpdate s w (exec (.barr 0 a) s) p (.barGroup none none)) ∧
    (SReady s w [a, b] → s.sBar w a = none → ¬ badValue → exec (.binit a b) s = fault 0x06 (w.g.sget a) ∧ exec (.bexp a b) s = fault 0x06 (w.g.sget a))) ∧
  (∀ (s : State) (w : Who) (n : BitVec 2) (d a : SReg) (h : SHold), w.g.hold = some h → (∀ i ∈ h.ids, aget s.rels i = none) →
    (SReady s w [a] → h.stage = 4 → Leads (exec (.evset n a) s) fun t =>
      aget t.groups w.gid = some w.g.next ∧
      (∀ i, i < 256 → (t.ctx w.ctx).ev.getLsbD i =
        ((s.ctx w.ctx).ev.getLsbD i || (decide (64 * n.toNat ≤ i ∧ i < 64 * n.toNat + 64) && (w.g.sget a).getLsbD (i - 64 * n.toNat)))) ∧
      (t.ctx w.ctx).kq = (s.ctx w.ctx).kq) ∧
    (SReady s w [a, d] → h.stage = 4 → 64 ≤ (s.ctx w.ctx).kq.length → w.g.region = none →
      exec (.klaunch d a) s = scalarResult s w d 1) ∧
    (SReady s w [a, d] → h.stage = 3 → w.g.region = none → ∀ i q, h.ids = [i] → aget s.reqs i = some q → q.parts.all Part.settled = true →
      (64 ≤ (s.ctx w.ctx).kq.length → Leads (exec (.klaunch d a) s) fun t => aget t.groups w.gid = some (w.g.sput d 1).next ∧ t.ctxs = s.ctxs) ∧
      ((s.ctx w.ctx).kq.length < 64 → (∀ x ∈ q.parts, x.reject = none) → Leads (exec (.klaunch d a) s) fun t =>
        aget t.groups w.gid = some (w.g.sput d 0).next ∧
        ∃ e, (t.ctx w.ctx).kq = (s.ctx w.ctx).kq ++ [e] ∧ e.slot = h.val.setWidth 32 ∧
          ∀ k, k < 16 → e.lrec.q k = BitVec.ofNat 64 (leNat (((partsBytes q.parts 128).drop (8 * k)).take 8))))) ∧
  (∀ (s : State) (w : Who) (h : SHold), SReady s w [] →
    (w.lrec.rgn = false → exec .rgn s = .next (s.takeCause w.gid { code := 0x01, pc := w.g.spc } true)) ∧
    (w.lrec.rgn = true → w.g.hold = none → Leads (exec .rgn s) fun t => ∃ g, aget t.groups w.gid = some g ∧ g.inRgn false = true ∧ g.spc = w.g.spc) ∧
    (w.lrec.rgn = true → w.g.hold = some h → h.stage = 10 → s.producersLanded w.gid w.g = true → Leads (exec .rgn s) fun t =>
      ∃ g hd, aget t.groups w.gid = some g ∧ g.hold = some hd ∧ hd.stage = 11 ∧ hd.since = s.cycle ∧ g.spc = w.g.spc))

/-! ## Engine commands -/

/-- The command that stands under `id` in the queues `qs` of group `gid`. -/
structure Enqueued (s t : State) (w : Who) (kind : CmdKind) (g : GuardSel) (args : List DWord) (dst : SReg) : Prop where
  command : ∃ id c h, aget t.cmds id = some c ∧ aget t.groups w.gid = some h ∧ c.kind = kind ∧ c.args = args ∧ c.dst = dst ∧ c.pc = w.g.spc ∧
    c.guard = (match g with
      | .slot n => some n.toNat
      | .none => none) ∧ c.started = false ∧
    (∀ q ∈ kind.queues, id ∈ h.queue q) ∧ h.spc = w.g.spc + 4 ∧ (dst ≠ 0 → h.sfull dst = false) ∧
    (∀ r : SReg, h.sget r = w.g.sget r) ∧ h.lanes = w.g.lanes ∧ h.trap = w.g.trap
  memory : ∀ x, cellRead t.mem x = cellRead s.mem x
  scratchpads : t.teams = s.teams

/-- The command issues: its registers are full, its queues have room, its record passes its checks, its destination is free, and the group has no region. -/
structure CommandReady (s : State) (w : Who) (kind : CmdKind) (regs : List SReg) (dst : SReg) : Prop where
  ready : SReady s w regs
  landed : s.getPending w.gid = false
  free : s.dstReady w.gid w.g dst = true
  room : ∀ q ∈ kind.queues, s.canEnqueue w q = true
  region : w.g.region = none

/-- R81, R90, R91: every engine command that can enter its queues is appended to them with the registers it reads as they stand at the issue; the stream goes on, and a status register is empty
until the engine writes it. A record that fails its checks raises the illegal-instruction trap with the number of the first bad register, and enqueues nothing. -/
def Obligations.EngineCommandsAreEnqueued : Prop :=
  ∀ (s : State) (w : Who) (g : GuardSel) (a b : SReg),
    let rec4 := recordRegs a 4
    let rec8 := recordRegs a 8
    let goes := fun (i : Instr) (kind : CmdKind) (regs : List SReg) (dst : SReg) (ok : Option Nat) =>
      CommandReady s w kind regs dst →
        (ok = none → Leads (exec i s) fun t => Enqueued s t w kind g (regs.map w.g.sget) dst) ∧
        (∀ k, ok = some k → exec i s = .next (s.takeCause w.gid { code := 0x01, sub := 4, pc := w.g.spc, addr := BitVec.ofNat 64 k } true))
    goes (.mld g a) .mld rec4 0 (mldBad w (rec4.map w.g.sget)) ∧
    (w.team.member % w.lrec.cluw + 1 < w.lrec.cluw → goes (.mldPair g a) .mldPair rec4 0 (mldBad w (rec4.map w.g.sget))) ∧
    goes (.mmul g a) .mmul (recordRegs a 3) 0 (mmulBad w ((recordRegs a 3).map w.g.sget)) ∧
    goes (.mmt g a) .mmt (recordRegs a 3) 0 (mmulBad w ((recordRegs a 3).map w.g.sget)) ∧
    goes (.mfence g a b) .mfence [a] b (mfenceBad w [w.g.sget a]) ∧
    goes (.mrel g) .mrel [] 0 none ∧
    goes (.ofence g) .ofence [] 0 none ∧
    goes (.cpt g a b) .cpt rec8 b (copyBad .cpt w (rec8.map w.g.sget)) ∧
    goes (.cptIdx g a b) .cptIdx rec8 b (copyBad .cptIdx w (rec8.map w.g.sget)) ∧
    goes (.cptWs g a b) .cptWs rec8 b (copyBad .cptWs w (rec8.map w.g.sget)) ∧
    goes (.cptP g a b) .cptP rec8 b (copyBad .cptP w (rec8.map w.g.sget)) ∧
    goes (.pbar g b) .pbar [] b none ∧
    goes (.xmar g a b) .xmar rec8 b (xmarBad s.self w (rec8.map w.g.sget)) ∧
    goes (.xred g a b) .xred (recordRegs a 5) b (xredBad s.self w ((recordRegs a 5).map w.g.sget)) ∧
    goes (.xnorm g a b) .xnorm (recordRegs a 6) b (xnormBad s.self w ((recordRegs a 6).map w.g.sget)) ∧
    goes (.xbar g a b) .xbar (recordRegs a 2) b (xbarBad s.self w ((recordRegs a 2).map w.g.sget))

/-! ## Rounds -/

/-- R322: `rnd.flr` writes s[d] := F[i] as it stood, sets F[i] to the greater of F[i] and s[b][31:0], completes at once, and leaves every other floor of the core. -/
def Obligations.RoundFloor : Prop :=
  ∀ (s : State) (w : Who) (d a b : SReg), SReady s w [a, b, d] → (w.g.sget a).toNat < 4096 → w.g.region = none →
    let i := (w.g.sget a).toNat
    let old := (s.core w.core).floor w.ctx i
    let n := (w.g.sget b).setWidth 32
    Leads (exec (.rndFlr d a b) s) fun t =>
      aget t.groups w.gid = some (w.g.sput d (old.setWidth 64)).next ∧
      (t.core w.core).floor w.ctx i = (if old < n then n else old) ∧
      (∀ c j, (c, j) ≠ (w.ctx, i) → (t.core w.core).floor c j = (s.core w.core).floor c j) ∧
      t.mem = s.mem ∧ t.reqs = s.reqs ∧ t.teams = s.teams

/-- R313 to R315, R321: `rnd.get` of a region whose record lies on a translated table page completes its issue: it goes on at the next word as a producer of s[d] that acquires at `.dom` as it lands.

R313, R314: `rnd.reg` enters the quarantine and holds the stream until its home has answered (AccessesWhereTheyArrive); where a replay finds it released it completes with its logged answer (R386).

R315, R320: `rnd.adv` that passes its checks holds the stream; it completes once RC has reached the round it waits for, and asks again while RC has not; a replay that finds its arrival released and its round
ended completes at once (R386). A region number of 4,096 or more is illegal. -/
def Obligations.RoundInstructions : Prop :=
  ∀ (s : State) (w : Who) (d a b : SReg) (l : Leaf),
    let i := (w.g.sget a).toNat
    let illegal := .next (s.takeCause w.gid { code := 0x01, pc := w.g.spc, addr := w.g.sget a } true)
    let home := if l.pkg = s.self then Place.home l.pa else .remote l.pkg l.pa
    (SReady s w [a, d] → i < 4096 → s.regionPa w.core w.ctx i = .leaf l → Leads (exec (.rndGet d a) s) fun t =>
      aget t.groups w.gid = some (w.g.sempty d).next ∧ t.mem = s.mem ∧ t.teams = s.teams ∧ t.net = s.net ∧
      ∃ q p, aget t.reqs s.nextId = some q ∧ q.dst = .roundGet d w.ctx i ∧ q.acquire = some .dom ∧ q.gid = w.gid ∧ q.parts = [p] ∧ p.place = home ∧ p.n = 64 ∧ p.ea = regionVa i) ∧
    (SReady s w [a, b, d] → i < 4096 → s.regionPa w.core w.ctx i = .leaf l → w.g.hold = none → w.g.region = none →
      Leads (exec (.rndReg d a b) s) fun t => ∃ g q m, aget t.groups w.gid = some g ∧ g.quar = w.g.quar ++ [q] ∧ q.effects = [.msg m] ∧
        m.kind = .roundReg i (w.g.sget b) d none ∧ m.place = home ∧ (g.hold.map (·.stage)) = some 40 ∧ g.spc = w.g.spc) ∧
    (∀ r, SReady s w [a, b, d] → i < 4096 → s.regionPa w.core w.ctx i = .leaf l → w.g.hold = none → w.g.region = some r → w.g.logFull = false → r.performed 0 (r.sOrd + 1) = true →
      Leads (exec (.rndReg d a b) s) fun t => t.net = s.net ∧ t.mem = s.mem ∧ ∃ g, aget t.groups w.gid = some g ∧ g.spc = w.g.spc + 4 ∧ g.quar = w.g.quar ∧
        (d ≠ 0 → g.sget d = (w.g.logged (r.sOrd + 1)).getD 0) ∧ ∀ k, k ≠ d → g.sget k = w.g.sget k) ∧
    (∀ v, SReady s w [a, b] → i < 4096 → w.g.hold = none → w.g.region = none → s.seenRecord w i = some v → advFault v i (w.g.sget b) = none →
      Leads (exec (.rndAdv a b) s) fun t => ∃ g h, aget t.groups w.gid = some g ∧ g.hold = some h ∧ h.stage = 50 ∧ h.pc = w.g.spc ∧ g.spc = w.g.spc) ∧
    (∀ h x, SReady s w [a, b] → i < 4096 → w.g.hold = some h → 54 ≤ h.stage → s.seenRecord w i = some (.valid x) →
      (h.val.toNat ≤ x.rc.toNat → exec (.rndAdv a b) s = .next (s.setGroup w.gid w.g.next)) ∧
      (x.rc.toNat < h.val.toNat → exec (.rndAdv a b) s = (s.askRecord w i).sStall w.gid w.g .round (regionVa i)) ∧
      (s.regionPa w.core w.ctx i = .leaf l → l.pkg = s.self → s.askRecord w i = s)) ∧
    (∀ h r x, SReady s w [a, b] → i < 4096 → w.g.hold = some h → h.stage = 50 → w.g.lq = [] → w.g.region = some r → r.performed 0 (r.sOrd + 1) = true →
      s.seenRecord w i = some (.valid x) → x.arr.getLsbD ((w.g.sget b).toNat - 1) = false → Leads (exec (.rndAdv a b) s) fun t => t.net = s.net ∧ t.mem = s.mem ∧
        ∃ g, aget t.groups w.gid = some g ∧ g.spc = w.g.spc + 4 ∧ g.hold = none ∧ g.sregs = w.g.sregs) ∧
    (4096 ≤ i → SReady s w [a, b, d] → exec (.rndReg d a b) s = illegal ∧ exec (.rndFlr d a b) s = illegal ∧
      exec (.rndAdv a b) s = illegal ∧ exec (.rndGet d a) s = illegal)

/-! ## Lane arithmetic -/

/-- The registers of a lane instruction that writes v[d] from A, B and C as marked (R99, R103). -/
def needs (f : LF) (d a b c : Bool) : Need := needOf f { d := d, a := a, b := b, c := c } false false false false

/-- v[d] of every active lane becomes `v`. -/
def PutsReg (s : State) (f : LF) (c : LaneCtx) (i : Instr) (v : Nat → Word) : Prop :=
  RunsLanes s c (exec i s) fun l x y => PutReg f.d.toNat (v l) x y

/-- The pair v[d], v[d+1] of every active lane becomes `v`. -/
def PutsPair (s : State) (f : LF) (c : LaneCtx) (i : Instr) (v : Nat → DWord) : Prop :=
  RunsLanes s c (exec i s) fun l x y => PutPair f.d.toNat (v l) x y

/-- Source A of a lane: v[a]. -/
def srcA (f : LF) (c : LaneCtx) (l : Nat) : Word := (c.who.g.lane l).get f.a.toNat

/-- A source of select `sel` and number `r` (R99, R100): a lane register, bits [31:0] of a scalar register, or the immediate. -/
def srcOf (f : LF) (c : LaneCtx) (sel : Sel) (r : VReg) (l : Nat) : Word :=
  match sel with
  | .vec => (c.who.g.lane l).get r.toNat
  | .scalar => (c.who.g.sget (r.setWidth 6)).setWidth 32
  | .imm => f.w2

/-- Element `e` of four 8-bit elements, signed for i8x4. -/
def byteElem (ty : LTy) (w : Word) (e : Nat) : Int :=
  if ty = .i8x4 then (w.extractLsb' (8 * e) 8).toInt else (w.extractLsb' (8 * e) 8).toNat

/-- The value `v` clamped to [lo, hi]. -/
def clamped (lo hi v : Int) : Int := max lo (min hi v)

/-- R172: the lane integer instructions on 32-bit values, for every source select: arithmetic modulo 2^32 without SAT, shifts and rotations by B mod 32, products, division and remainder by
type, counts.

R172, R173: saturating and packed addition and subtraction: under SAT the exact result is clamped to the range of its type; packed elements are computed each by
itself, wrapping without SAT; `abs` of the most negative value wraps to itself without SAT and clamps with it; packed minimum and maximum.

R172: the lane instructions of one source: `abs`, `popc`, `clz`, `brev`. -/
def Obligations.LaneIntegers : Prop :=
  (∀ (s : State) (f : LF) (c : LaneCtx), LaneReady s f (needs f true true true false) c →
    let x := srcA f c
    let y := srcOf f c f.bsel f.b
    let puts := fun (i : Instr) (v : Nat → Word) => PutsReg s f c i v
    ((f.ty = .i32 ∨ f.ty = .n32) → f.mod5 = 0 → puts (.lAdd f) (fun l => x l + y l) ∧ puts (.lSub f) fun l => x l - y l) ∧
    puts (.lMul f) (fun l => x l * y l) ∧
    (f.ty = .i32 → puts (.lMulhi f) fun l => BitVec.ofInt 32 ((x l).toInt * (y l).toInt / 2 ^ 32)) ∧
    (f.ty = .n32 → puts (.lMulhi f) fun l => BitVec.ofNat 32 ((x l).toNat * (y l).toNat / 2 ^ 32)) ∧
    puts (.lAnd f) (fun l => x l &&& y l) ∧ puts (.lOr f) (fun l => x l ||| y l) ∧ puts (.lXor f) (fun l => x l ^^^ y l) ∧
    puts (.lAndn f) (fun l => x l &&& ~~~y l) ∧
    puts (.lShl f) (fun l => x l <<< ((y l).toNat % 32)) ∧
    (f.ty = .i32 → puts (.lShr f) fun l => (x l).sshiftRight ((y l).toNat % 32)) ∧
    (f.ty ≠ .i32 → puts (.lShr f) fun l => x l >>> ((y l).toNat % 32)) ∧
    puts (.lRotl f) (fun l => (x l).rotateLeft ((y l).toNat % 32)) ∧
    (f.ty = .i32 → puts (.lMin f) (fun l => if (x l).sle (y l) then x l else y l) ∧ puts (.lMax f) fun l => if (x l).sle (y l) then y l else x l) ∧
    (f.ty = .n32 → puts (.lMin f) (fun l => if x l ≤ y l then x l else y l) ∧ puts (.lMax f) fun l => if x l ≤ y l then y l else x l) ∧
    (f.ty = .i32 → puts (.lDiv f) (fun l => if y l = 0 then BitVec.allOnes 32 else (x l).sdiv (y l)) ∧
      puts (.lRem f) fun l => if y l = 0 then x l else (x l).srem (y l)) ∧
    (f.ty = .n32 → puts (.lDiv f) (fun l => if y l = 0 then BitVec.allOnes 32 else x l / y l) ∧
      puts (.lRem f) fun l => if y l = 0 then x l else x l % y l)) ∧
  (∀ (s : State) (f : LF) (c : LaneCtx), LaneReady s f (needs f true true true false) c →
    let x := srcA f c
    let y := srcOf f c f.bsel f.b
    let puts := fun (i : Instr) (v : Nat → Word) => PutsReg s f c i v
    let elems := fun (i : Instr) (op : Int → Int → Int) => RunsLanes s c (exec i s) fun l _ z =>
      ∀ e, e < 4 → (z.get f.d.toNat).extractLsb' (8 * e) 8 = BitVec.ofInt 8 (op (byteElem f.ty (x l) e) (byteElem f.ty (y l) e))
    (f.ty = .i32 → f.mod5 = 1 → puts (.lAdd f) (fun l => BitVec.ofInt 32 (clamped (-2 ^ 31) (2 ^ 31 - 1) ((x l).toInt + (y l).toInt))) ∧
      puts (.lSub f) fun l => BitVec.ofInt 32 (clamped (-2 ^ 31) (2 ^ 31 - 1) ((x l).toInt - (y l).toInt))) ∧
    (f.ty = .n32 → f.mod5 = 1 → puts (.lAdd f) (fun l => BitVec.ofInt 32 (clamped 0 (2 ^ 32 - 1) ((x l).toNat + (y l).toNat))) ∧
      puts (.lSub f) fun l => BitVec.ofInt 32 (clamped 0 (2 ^ 32 - 1) ((x l).toNat - (y l).toNat))) ∧
    ((f.ty = .i8x4 ∨ f.ty = .n8x4) → f.mod5 = 0 → elems (.lAdd f) (fun p q => p + q) ∧ elems (.lSub f) fun p q => p - q) ∧
    (f.ty = .i8x4 → f.mod5 = 1 → elems (.lAdd f) (fun p q => clamped (-128) 127 (p + q)) ∧ elems (.lSub f) fun p q => clamped (-128) 127 (p - q)) ∧
    (f.ty = .n8x4 → f.mod5 = 1 → elems (.lAdd f) (fun p q => clamped 0 255 (p + q)) ∧ elems (.lSub f) fun p q => clamped 0 255 (p - q)) ∧
    ((f.ty = .i8x4 ∨ f.ty = .n8x4) → elems (.lMin f) min ∧ elems (.lMax f) max)) ∧
  (∀ (s : State) (f : LF) (c : LaneCtx), LaneReady s f (needs f true true false false) c →
    let x := srcA f c
    (f.ty = .i32 → f.mod5 = 0 → PutsReg s f c (.lAbs f) fun l => if (x l).slt 0 then -(x l) else x l) ∧
    (f.ty = .i32 → f.mod5 = 1 → PutsReg s f c (.lAbs f) fun l => if x l = 0x80000000 then 0x7FFFFFFF else if (x l).slt 0 then -(x l) else x l) ∧
    PutsReg s f c (.lPopc f) (fun l => BitVec.ofNat 32 ((List.range 32).map fun i => ((x l).getLsbD i).toNat).sum) ∧
    (RunsLanes s c (exec (.lClz f) s) fun l _ z => ∃ n, IsLeadingZeros (x l) n ∧ z.get f.d.toNat = BitVec.ofNat 32 n) ∧
    (RunsLanes s c (exec (.lBrev f) s) fun l _ z => ∀ i, i < 32 → (z.get f.d.toNat).getLsbD i = (x l).getLsbD (31 - i)))

/-- R172, R174, R175: `mad` gives A·B + C modulo 2^32; `bfe` and `bfi` take pos = B mod 32 and len = min(C mod 64, 32 − pos): `bfe` writes that field of A extended by type, `bfi` replaces
the field of v[d] by the low bits of A. -/
def Obligations.LaneFieldsAndMad : Prop :=
  ∀ (s : State) (f : LF) (c : LaneCtx), LaneReady s f (needs f true true true true) c →
    let x := srcA f c
    let y := srcOf f c f.bsel f.b
    let z := srcOf f c f.csel f.c
    let pos := fun l => (y l).toNat % 32
    let len := fun l => min ((z l).toNat % 64) (32 - pos l)
    PutsReg s f c (.lMad f) (fun l => x l * y l + z l) ∧
    (f.ty = .n32 → RunsLanes s c (exec (.lBfe f) s) fun l _ u => ∀ i, i < 32 →
      (u.get f.d.toNat).getLsbD i = (decide (i < len l) && (x l).getLsbD (pos l + i))) ∧
    (f.ty = .i32 → RunsLanes s c (exec (.lBfe f) s) fun l _ u => ∀ i, i < 32 →
      (u.get f.d.toNat).getLsbD i = (decide (len l ≠ 0) && (x l).getLsbD (pos l + min i (len l - 1)))) ∧
    (RunsLanes s c (exec (.lBfi f) s) fun l v u => ∀ i, i < 32 →
      (u.get f.d.toNat).getLsbD i = if pos l ≤ i ∧ i < pos l + len l then (x l).getLsbD (i - pos l) else (v.get f.d.toNat).getLsbD i)

/-- The 64-bit extension of a word by type. -/
def wide (ty : LTy) (x : Word) : DWord := if ty = .i32 then x.signExtend 64 else x.setWidth 64

/-- A 64-bit source: a pair, a whole scalar register, or the sign-extended immediate (R176). -/
def srcOf64 (f : LF) (c : LaneCtx) (sel : Sel) (r : VReg) (l : Nat) : DWord :=
  match sel with
  | .vec => (c.who.g.lane l).get (r.toNat + 1) ++ (c.who.g.lane l).get r.toNat
  | .scalar => c.who.g.sget (r.setWidth 6)
  | .imm => f.w2.signExtend 64

/-- R174: `madw` adds the 64-bit product of A and B, extended by type, to the pair C; an immediate C is extended as A is. `dp4` adds to C the four products of the elements of A and B,
wrapping, or clamped under SAT.

R176, R177: `mov` writes B, 32 bits or a pair; `sel` writes A where p[K] is 1 and B elsewhere; `sreg` writes the lane's index, the width, the slice, the depth, the demoted bit, the masks of lanes
that have not exited, the cycle, the group, the team-linear index and LIVE. -/
def Obligations.LaneWideProductsAndMoves : Prop :=
  (∀ (s : State) (f : LF) (c : LaneCtx),
    let x := srcA f c
    let y := srcOf f c f.bsel f.b
    let sum := fun l => byteElem f.ty (x l) 0 * byteElem f.ty (y l) 0 + byteElem f.ty (x l) 1 * byteElem f.ty (y l) 1 +
      byteElem f.ty (x l) 2 * byteElem f.ty (y l) 2 + byteElem f.ty (x l) 3 * byteElem f.ty (y l) 3
    (LaneReady s f (needOf f { d := true, a := true, b := true, c := true } true false false true) c →
      PutsPair s f c (.lMadw f) fun l => wide f.ty (x l) * wide f.ty (y l) + if f.csel = .imm then wide f.ty f.w2 else srcOf64 f c f.csel f.c l) ∧
    (LaneReady s f (needs f true true true true) c →
      let z := srcOf f c f.csel f.c
      (f.ty = .i8x4 → f.mod5 = 0 → PutsReg s f c (.lDp4 f) fun l => BitVec.ofInt 32 ((z l).toInt + sum l)) ∧
      (f.ty = .n8x4 → f.mod5 = 0 → PutsReg s f c (.lDp4 f) fun l => BitVec.ofInt 32 ((z l).toNat + sum l)) ∧
      (f.ty = .i8x4 → f.mod5 = 1 → PutsReg s f c (.lDp4 f) fun l => BitVec.ofInt 32 (clamped (-2 ^ 31) (2 ^ 31 - 1) ((z l).toInt + sum l))) ∧
      (f.ty = .n8x4 → f.mod5 = 1 → PutsReg s f c (.lDp4 f) fun l => BitVec.ofInt 32 (clamped 0 (2 ^ 32 - 1) ((z l).toNat + sum l))))) ∧
  (∀ (s : State) (f : LF) (c : LaneCtx),
    let k := f.w2.toNat / 2 ^ 5 % 32
    let p := fun l => (c.who.g.lane l).pget k
    (f.ty ≠ .b64 → LaneReady s f (needs f true false true false) c → PutsReg s f c (.lMov f) fun l => srcOf f c f.bsel f.b l) ∧
    (f.ty = .b64 → LaneReady s f (needOf f { d := true, b := true } true false true false) c →
      PutsPair s f c (.lMov f) fun l => srcOf64 f c f.bsel f.b l) ∧
    (f.ty ≠ .b64 → LaneReady s f (needs f true true true false) c →
      PutsReg s f c (.lSel f) fun l => if p l then srcA f c l else srcOf f c f.bsel f.b l) ∧
    (f.ty = .b64 → LaneReady s f (needOf f { d := true, a := true, b := true } true true true false) c →
      PutsPair s f c (.lSel f) fun l => if p l then srcOf64 f c .vec f.a l else srcOf64 f c f.bsel f.b l) ∧
    (LaneReady s f (needs f true false false false) c →
      let gets := fun (code : Nat) (v : Nat → Word) => f.mod5.toNat = code → PutsReg s f c (.lSreg f) v
      gets 0 (fun l => BitVec.ofNat 32 l) ∧ gets 1 (fun _ => BitVec.ofNat 32 c.who.g.width) ∧ gets 2 (fun l => BitVec.ofNat 32 (l / 4)) ∧
      gets 3 (fun _ => BitVec.ofNat 32 c.depth) ∧ gets 4 (fun l => if (c.who.g.lane l).life = .demoted then 1 else 0) ∧
      gets 7 (fun _ => BitVec.ofNat 32 s.cycle) ∧ gets 8 (fun _ => BitVec.ofNat 32 c.who.g.idx) ∧
      gets 9 (fun l => BitVec.ofNat 32 (c.who.g.idx * c.who.g.width + l)) ∧ gets 10 (fun _ => BitVec.ofNat 32 c.who.team.live) ∧
      (f.mod5.toNat = 5 → RunsLanes s c (exec (.lSreg f) s) fun _ _ u => ∀ j, j < 32 → (u.get f.d.toNat).getLsbD j = decide ((c.who.g.lane j).life ≠ .exited)) ∧
      (f.mod5.toNat = 6 → RunsLanes s c (exec (.lSreg f) s) fun _ _ u => ∀ j, j < 32 → (u.get f.d.toNat).getLsbD j = decide ((c.who.g.lane (32 + j)).life ≠ .exited))))

/-! ## Predicates -/

/-- p[k] of every active lane becomes `b`. -/
def PutsPred (s : State) (c : LaneCtx) (i : Instr) (k : Nat) (b : Nat → Bool) : Prop :=
  RunsLanes s c (exec i s) fun l x y => PutPred k (b l) x y

/-- The table of conditions of R179 on two values of a type: NaN compares unordered. -/
def Compares (ty : LTy) (cond : Nat) (a b : Word) : Bool :=
  if ty = .f32 then
    let nan := isNan32 a || isNan32 b
    match cond with
    | 0 => (f32 a).eq (f32 b)
    | 1 => !(f32 a).eq (f32 b)
    | 2 => (f32 a).lt (f32 b)
    | 3 => (f32 a).lt (f32 b) || (f32 a).eq (f32 b)
    | 4 => !nan && !((f32 a).lt (f32 b)) && !((f32 a).eq (f32 b))
    | 5 => !nan && !((f32 a).lt (f32 b))
    | 6 => nan
    | _ => !nan
  else
    let le := if ty = .i32 then a.sle b else a.ule b
    match cond with
    | 0 => a == b
    | 1 => a != b
    | 2 => le && a != b
    | 3 => le
    | 4 => !le
    | 5 => !le || a == b
    | 6 => false
    | _ => true

/-- R178 to R180: `cmp` compares A and B by type and condition and combines with p[C]; `pand`, `por`, `pxor` combine two predicates, each optionally negated; `pnot` negates; `pset` writes a
constant; `ptov` reads one predicate or all 24, `vtop` writes one or all 24. Lanes whose guard fails keep their predicates. -/
def Obligations.LanePredicates : Prop :=
  ∀ (s : State) (f : LF) (c : LaneCtx),
    let fld := fun (lo : Nat) => f.w2.toNat / 2 ^ lo % 32
    let k := fld 0
    let p := fun (lo l : Nat) => (c.who.g.lane l).pget (fld lo)
    let n0 := fun (l : Nat) => xor (p 5 l) (f.mod5.getLsbD 0)
    let n1 := fun (l : Nat) => xor (p 10 l) (f.mod5.getLsbD 1)
    (k < 24 → LaneReady s f (needs f false true true false) c → PutsPred s c (.lCmp f) k fun l =>
      let v := Compares f.ty (f.mod5.toNat % 8) (srcA f c l) (srcOf f c f.bsel f.b l)
      match f.mod5.toNat / 8 with
      | 0 => v
      | 1 => v && p 5 l
      | 2 => v || p 5 l
      | _ => xor v (p 5 l)) ∧
    (k < 24 → LaneReady s f {} c →
      PutsPred s c (.lPand f) k (fun l => n0 l && n1 l) ∧ PutsPred s c (.lPor f) k (fun l => n0 l || n1 l) ∧
      PutsPred s c (.lPxor f) k (fun l => xor (n0 l) (n1 l)) ∧ PutsPred s c (.lPnot f) k (fun l => !p 5 l) ∧
      PutsPred s c (.lPset f) k fun _ => f.mod5.getLsbD 0) ∧
    (LaneReady s f (needs f true false false false) c →
      (f.mod5 = 0 → PutsReg s f c (.lPtov f) fun l => if p 5 l then 1 else 0) ∧
      (f.mod5 = 1 → PutsReg s f c (.lPtov f) fun l => (c.who.g.lane l).preds.setWidth 32)) ∧
    (LaneReady s f (needs f false true false false) c →
      (k < 24 → f.mod5 = 0 → PutsPred s c (.lVtop f) k fun l => srcA f c l != 0) ∧
      (f.mod5 = 1 → RunsLanes s c (exec (.lVtop f) s) fun l x y => y.preds = (srcA f c l).setWidth 24 ∧ y.regs = x.regs ∧ y.life = x.life))

/-! ## Lane floating point and conversions -/

/-- The outcome of a converting instruction (R118, R120, R123): lanes by `p`; OVFL and NVAL set in this cycle when `ovfl` and `nval` hold, else as they stood; the core's generator has stepped once when `step` holds, else
no core changes. -/
def Converts (s : State) (step : Bool) (c : LaneCtx) (o : Out) (ovfl nval : Bool) (p : Nat → Lane → Lane → Prop) : Prop :=
  ∃ t h, o = .next t ∧ aget t.groups c.who.gid = some h ∧ LaneKept s t c.who.gid ∧ t.reqs = s.reqs ∧ GroupKept c c.who.g h ∧
    h.vfe = c.who.g.vfe ∧ h.ovfl = (if ovfl then c.who.g.ovfl.set s.cycle else c.who.g.ovfl) ∧
    h.nval = (if nval then c.who.g.nval.set s.cycle else c.who.g.nval) ∧
    t.cores = (if step then (s.setCore c.who.core ((s.core c.who.core).cgStepAt s.cycle)).cores else s.cores) ∧
    ∀ l ∈ c.act, p l (c.who.g.lane l) (h.lane l)

/-- The random word of the issue (R123): the generator's new state under code 4. -/
def issueWord (s : State) (f : LF) (c : LaneCtx) : DWord :=
  if f.mod5.toNat % 8 = 4 then ((s.core c.who.core).cgStepAt s.cycle).cg else 0

/-- The class of an FP32 value, as the number of its bit in the mask of R192. -/
def IsClass (x : Word) (k : Nat) : Prop :=
  let mag := x.toNat % 2 ^ 31
  let neg := x.getLsbD 31 = true
  (k = 0 ∧ neg ∧ mag = 0x7F800000) ∨ (k = 1 ∧ neg ∧ 0x800000 ≤ mag ∧ mag < 0x7F800000) ∨ (k = 2 ∧ neg ∧ 0 < mag ∧ mag < 0x800000) ∨
  (k = 3 ∧ neg ∧ mag = 0) ∨ (k = 4 ∧ ¬ neg ∧ mag = 0) ∨ (k = 5 ∧ ¬ neg ∧ 0 < mag ∧ mag < 0x800000) ∨
  (k = 6 ∧ ¬ neg ∧ 0x800000 ≤ mag ∧ mag < 0x7F800000) ∨ (k = 7 ∧ ¬ neg ∧ mag = 0x7F800000) ∨
  (k = 8 ∧ 0x7F800000 < mag ∧ x.getLsbD 22 = false) ∨ (k = 9 ∧ 0x7F800000 < mag ∧ x.getLsbD 22 = true)

/-- R192: `fclass.f32` writes to v[d] of every active lane a mask with exactly one bit set, that of the class of A after its modifiers; bits [31:10] are zero. -/
def Obligations.FloatClass : Prop :=
  ∀ (s : State) (f : LF) (c : LaneCtx), LaneReady s f (needs f true true false false) c →
    RunsLanes s c (exec (.lFclass f) s) fun l u w => ∃ k, k < 10 ∧ IsClass (modA f (srcA f c l)) k ∧
      (∀ j, IsClass (modA f (srcA f c l)) j → j = k) ∧ PutReg f.d.toNat (BitVec.ofNat 32 (2 ^ k)) u w

/-- R190: the FP32 instructions round the exact result of their row once, under the code of mod5[2:0] (code 4 with the lane's own random word), after the sign modifiers; they set no flag.

R190, R191: `fmin` and `fmax` are minimumNumber and maximumNumber; `frint` rounds to an integral value and keeps infinities, zeros and the sign; `fcvt.i` rounds and clamps to its type, NaN to 0;
`icvt.f` rounds an integer of its type; `fscale` multiplies by a power of two.

R193: packed BF16 arithmetic computes elements 0 and 1 each by itself from BF16 values after the modifiers, rounds once with its own draw, saturates under SAT, and sets OVFL when an element of an active lane
overflows. -/
def Obligations.LaneFloatingPoint : Prop :=
  (∀ (s : State) (f : LF) (c : LaneCtx),
    let rm := fun l => rndOf f (issueWord s f c) l 0 none
    let x := fun l => f32 (modA f (srcA f c l))
    let y := fun l => f32 (modB f (srcOf f c f.bsel f.b l))
    let z := fun l => f32 (modC f (srcOf f c f.csel f.c l))
    let down := decide (f.mod5.toNat % 8 = 2)
    let gives := fun (i : Instr) (v : Nat → Fp) => Converts s (f.mod5.toNat % 8 == 4) c (exec i s) false false fun l u w => PutReg f.d.toNat (round32 (rm l) (v l)) u w
    (LaneReady s f (needs f true true true false) c →
      gives (.lFadd f) (fun l => Fp.add down (x l) (y l)) ∧ gives (.lFsub f) (fun l => Fp.add down (x l) (y l).neg) ∧
      gives (.lFmul f) (fun l => Fp.mul (x l) (y l)) ∧ gives (.lFdiv f) fun l => Fp.div (x l) (y l)) ∧
    (LaneReady s f (needs f true true true true) c → gives (.lFma f) fun l => Fp.add down (Fp.mul (x l) (y l)) (z l)) ∧
    (LaneReady s f (needs f true true false false) c →
      gives (.lFrcp f) (fun l => Fp.div (.fin false 1 0) (x l)) ∧ gives (.lFrsqrt f) (fun l => (x l).rsqrt) ∧
      gives (.lFsqrt f) (fun l => (x l).sqrt) ∧ gives (.lFexp2 f) (fun l => (x l).exp2) ∧ gives (.lFlog2 f) fun l => (x l).log2)) ∧
  (∀ (s : State) (f : LF) (c : LaneCtx),
    let rm := rndOf f 0 0 0 none
    let x := fun l => modA f (srcA f c l)
    let y := fun l => modB f (srcOf f c f.bsel f.b l)
    (LaneReady s f (needs f true true true false) c →
      PutsReg s f c (.lFmin f) (fun l => BitVec.ofNat 32 (minNum fmtF32 (x l).toNat (y l).toNat)) ∧
      PutsReg s f c (.lFmax f) (fun l => BitVec.ofNat 32 (maxNum fmtF32 (x l).toNat (y l).toNat)) ∧
      PutsReg s f c (.lFscale f) fun l => round32 rm (match f32 (x l) with
        | .fin n m e => .fin n m (e + max (-512) (min 512 (srcOf f c f.bsel f.b l).toInt))
        | v => v)) ∧
    (LaneReady s f (needs f true true false false) c → f.mod5.toNat % 8 < 4 →
      PutsReg s f c (.lFrint f) (fun l => round32 rm (match f32 (x l) with
        | .fin n m e => .fin n (roundInt rm n m e) 0
        | v => v)) ∧
      (f.ty = .i32 → PutsReg s f c (.lFcvtI f) fun l => BitVec.ofInt 32 (toIntClamp rm (-2 ^ 31) (2 ^ 31 - 1) (f32 (x l)))) ∧
      (f.ty = .n32 → PutsReg s f c (.lFcvtI f) fun l => BitVec.ofInt 32 (toIntClamp rm 0 (2 ^ 32 - 1) (f32 (x l)))) ∧
      (f.ty = .i32 → PutsReg s f c (.lIcvtF f) fun l => round32 rm (fpOfInt (srcA f c l).toInt)) ∧
      (f.ty = .n32 → PutsReg s f c (.lIcvtF f) fun l => round32 rm (fpOfInt (srcA f c l).toNat)))) ∧
  (∀ (s : State) (f : LF) (c : LaneCtx),
    let x := fun l => modA f (srcA f c l)
    let y := fun l => modB f (srcOf f c f.bsel f.b l)
    let z := fun l => modC f (srcOf f c f.csel f.c l)
    let val := fun (v : Word) (e : Nat) => fmtBf16.decode (v.toNat / 2 ^ (16 * e) % 2 ^ 16)
    let elem := fun (op : Nat → Nat → Fp) (l e : Nat) => fmtBf16.narrow (rndOf f (issueWord s f c) l e none) (f.mod5.getLsbD 3) (op l e)
    let gives := fun (i : Instr) (op : Nat → Nat → Fp) =>
      Converts s (f.mod5.toNat % 8 == 4) c (exec i s) (c.act.any fun l => (elem op l 0).2 || (elem op l 1).2) false fun l u w =>
        PutReg f.d.toNat (BitVec.ofNat 32 ((elem op l 0).1 + (elem op l 1).1 * 65536)) u w
    (LaneReady s f (needs f true true true false) c →
      gives (.lHadd2 f) (fun l e => Fp.add false (val (x l) e) (val (y l) e)) ∧ gives (.lHmul2 f) fun l e => Fp.mul (val (x l) e) (val (y l) e)) ∧
    (LaneReady s f (needs f true true true true) c →
      gives (.lHfma2 f) fun l e => Fp.add false (Fp.mul (val (x l) e) (val (y l) e)) (val (z l) e)))

/-- R119, R194: `cvt` from f32 to bf16x2 writes element e of v[d], keeps the other, and sets OVFL on overflow; the widening `cvt` from bf16x2 to f32 is exact and sets no flag.

R195, R196: `pack` without SAT writes elements 2q and 2q + 1 of v[d] from the low bits of A and B and keeps the others; `unpk` writes element e of A, sign-extended for i8x4 and zero-extended otherwise.

R197 to R199: `nqscl` gives the block scale, `nqenc` one code with NVAL, `nqdec` the value; `rhash` writes the hash of key (B, C) and counter (v[a], v[a+1]) as a pair; `srbits` rounds an f32 with the random
bits of B and keeps the other elements. -/
def Obligations.LaneConversionsAndPacking : Prop :=
  (∀ (s : State) (f : LF) (c : LaneCtx), LaneReady s f (needs f true true false false) c → f.bsel = .vec → f.csel = .vec →
    let e := f.w2.toNat % 4
    let src := f.w2.toNat / 2 ^ 13 % 16
    let v := fun l => f32 (srcA f c l)
    let r := fun l => fmtBf16.narrow (rndOf f (issueWord s f c) l e (discarded fmtF32 fmtBf16 (v l))) (f.mod5.getLsbD 3) (v l)
    (f.ty = .bf16x2 → src = 3 → e ≤ 1 → Converts s (f.mod5.toNat % 8 == 4) c (exec (.lCvt f) s) (c.act.any fun l => (r l).2) false fun l u w =>
      ∀ j, j < 2 → (w.get f.d.toNat).extractLsb' (16 * j) 16 = if j = e then BitVec.ofNat 16 (r l).1 else (u.get f.d.toNat).extractLsb' (16 * j) 16) ∧
    (f.ty = .f32 → src = 4 → e ≤ 1 → f.mod5 = 0 → Converts s (f.mod5.toNat % 8 == 4) c (exec (.lCvt f) s) false false fun l u w =>
      isNan32 (((srcA f c l).extractLsb' (16 * e) 16) ++ (0 : BitVec 16)) = false →
        PutReg f.d.toNat (((srcA f c l).extractLsb' (16 * e) 16) ++ (0 : BitVec 16)) u w)) ∧
  (∀ (s : State) (f : LF) (c : LaneCtx),
    let k := if f.ty = .bf16x2 then 16 else if f.ty = .nq4x8 then 4 else 8
    let packed : Prop := f.ty = .bf16x2 ∨ f.ty = .f8e4x4 ∨ f.ty = .f8e5x4 ∨ f.ty = .nq4x8 ∨ f.ty = .i8x4 ∨ f.ty = .n8x4
    (LaneReady s f (needs f true true true false) c → packed → f.mod5.toNat < 4 → 2 * f.mod5.toNat < f.ty.elems →
      RunsLanes s c (exec (.lPack f) s) fun l u w => ∀ j, j < 32 →
        (w.get f.d.toNat).getLsbD j =
          if j / k = 2 * f.mod5.toNat then (srcA f c l).getLsbD (j % k)
          else if j / k = 2 * f.mod5.toNat + 1 then (srcOf f c f.bsel f.b l).getLsbD (j % k) else (u.get f.d.toNat).getLsbD j) ∧
    (LaneReady s f (needs f true true false false) c → packed → f.mod5.toNat < f.ty.elems →
      RunsLanes s c (exec (.lUnpk f) s) fun l _ w => ∀ j, j < 32 →
        (w.get f.d.toNat).getLsbD j =
          if j < k then (srcA f c l).getLsbD (k * f.mod5.toNat + j) else (decide (f.ty = .i8x4) && (srcA f c l).getLsbD (k * f.mod5.toNat + 7)))) ∧
  (∀ (s : State) (f : LF) (c : LaneCtx),
    let x := srcA f c
    let y := srcOf f c f.bsel f.b
    let z := srcOf f c f.csel f.c
    let fl := fun (o : Out) (nval : Nat → Bool) (p : Nat → Lane → Lane → Prop) => Converts s false c o false (c.act.any nval) p
    (LaneReady s f (needs f true true true false) c → f.mod5 = 0 →
      fl (exec (.lNqscl f) s) (fun l => (nqScale (x l &&& 0x7FFFFFFF) (y l)).2) fun l u w =>
        PutReg f.d.toNat (BitVec.ofNat 32 (nqScale (x l &&& 0x7FFFFFFF) (y l)).1) u w) ∧
    (LaneReady s f (needs f true true true true) c →
      (PutsReg s f c (.lNqdec f) fun l => nqDecode ((x l).toNat / 2 ^ (4 * (f.mod5.toNat % 8)) % 16) ((y l).toNat % 256) (z l)) ∧
      fl (exec (.lNqenc f) s) (fun l => (nqEncode (x l) ((y l).toNat % 256) (z l)).2) fun l u w => ∀ j, j < 8 →
        (w.get f.d.toNat).extractLsb' (4 * j) 4 = if j = f.mod5.toNat % 8 then BitVec.ofNat 4 (nqEncode (x l) ((y l).toNat % 256) (z l)).1
          else (u.get f.d.toNat).extractLsb' (4 * j) 4) ∧
    (LaneReady s f (needOf f { d := true, a := true, b := true, c := true } true true false false) c →
      PutsPair s f c (.lRhash f) fun l =>
        let r := rhash (y l) (z l) ((c.who.g.lane l).get f.a.toNat) ((c.who.g.lane l).get (f.a.toNat + 1))
        r.2 ++ r.1) ∧
    (LaneReady s f (needs f true true true false) c → f.ty = .bf16x2 → f.mod5.toNat % 4 < 2 → f.bsel = .vec → f.csel = .vec →
      let r := fun l => fmtBf16.narrow (.sr (y l ++ (0 : Word)) (f.w2.toNat / 2 ^ 8 % 32) (discarded fmtF32 fmtBf16 (f32 (x l)))) (f.mod5.getLsbD 3) (f32 (x l))
      Converts s false c (exec (.lSrbits f) s) (c.act.any fun l => (r l).2) false fun l u w => ∀ j, j < 2 →
        (w.get f.d.toNat).extractLsb' (16 * j) 16 = if j = f.mod5.toNat % 4 then BitVec.ofNat 16 (r l).1 else (u.get f.d.toNat).extractLsb' (16 * j) 16))

/-! ## Lane control flow -/

/-- The lanes of the sub-gang move (R167): every active lane goes to `to_ l` (none: it leaves the block), every other lane of the sub-gang to the next instruction at its depth; the lanes' state is as `p`
says; when no slice holds a state any more, the block ends and has no slices (R170). -/
def MovesLanes (s : State) (c : LaneCtx) (o : Out) (to_ : Nat → Option (Word × Nat)) (p : Nat → Lane → Lane → Prop) : Prop :=
  ∃ t h, o = .next t ∧ aget t.groups c.who.gid = some h ∧ GroupKept c c.who.g h ∧ FlagsKept c.who.g h ∧ t.net = s.net ∧
    (∀ a, cellRead t.mem a = cellRead s.mem a) ∧ (∀ l ∈ c.act, p l (c.who.g.lane l) (h.lane l)) ∧
    let nxt := fun l => if l ∈ c.act then to_ l else some (c.pc + 1, c.depth)
    h.slices = (if (c.who.g.slices.all fun q => (if c.slices.contains q.1 then moveSlice q.1 nxt q.2 else q.2).isEmpty) then []
      else c.who.g.slices.map fun q => (q.1, if c.slices.contains q.1 then moveSlice q.1 nxt q.2 else q.2))

/-- The lane trap of the sub-gang with no effect but the trap (R164), for a group that can deliver and whose S-stream is between words: TRAPLPC is its offset, LANE is set, the block stops, and no lane or
register changes. -/
def LaneTraps (s : State) (c : LaneCtx) (o : Out) (code : BitVec 8) (addr : DWord) : Prop :=
  Delivers c.who → c.who.g.inWord = false → ∃ t h, o = .next t ∧ aget t.groups c.who.gid = some h ∧
    h.trap.cause = code.setWidth 64 ||| 0x10000 ∧ h.trap.lpc = c.pc.setWidth 64 ∧ h.trap.addr = addr ∧ h.inHandler = true ∧
    h.spc = BitVec.ofNat 64 (c.who.lrec.sbase.toNat + 4 * c.who.lrec.trapvec) ∧ (∀ b, h.block = some b → b.stopped = true) ∧
    h.lanes = c.who.g.lanes ∧ h.sregs = c.who.g.sregs ∧ h.slices = c.who.g.slices ∧ t.mem = s.mem

/-- R181 to R184, R166 to R168: `bra`, `call`, `ret`, `lend`, `demote`, `exit` and `nop` act on the performing lanes only: `call` writes the return offset and deepens, `ret` rises, `lend` makes lanes at-end,
`demote` demotes live lanes, `exit` ends lanes and lowers the team's LIVE by their number; a `call` at depth 63 and a `ret` at depth 0 take the divergence-overflow trap.

R182, R21: `dcall` and `djmp` with every performing index below LDLEN and the entries fetched go to the entries, `dcall` a depth deeper with the return offset in v[d]; an index at or above LDLEN takes the dispatch-range trap with that
index, of the lowest such lane.

R185, R105, R103, R186: `trap` raises the software trap with v[a] of the lowest performing lane, and does nothing when no lane performs; a lane word that is no instruction, and a register at or above the allocation, raise the
illegal-instruction trap; `regang` goes on when the group's slices stand together or its n cycles have passed, and an L `rgn` of a launch with RGN = 1 in one sub-gang, with no S word under way, holds both streams, first for the group's producers, then for the strike-free count (R380). -/
def Obligations.LaneControl : Prop :=
  (∀ (s : State) (f : LF) (c : LaneCtx),
    let target := c.pc + f.w2
    let link := fun (_ : Nat) (x y : Lane) => PutReg f.d.toNat (c.pc + 1) x y
    let same := fun (_ : Nat) (x y : Lane) => SameLane x y
    (LaneReady s f {} c →
      MovesLanes s c (exec (.lBra f) s) (fun _ => some (target, c.depth)) same ∧
      MovesLanes s c (exec (.lNop f) s) (fun _ => some (c.pc + 1, c.depth)) same ∧
      MovesLanes s c (exec (.lLend f) s) (fun _ => none) (fun _ x y => y = { x with atEnd := true }) ∧
      MovesLanes s c (exec (.lDemote f) s) (fun _ => some (c.pc + 1, c.depth)) (fun _ x y =>
        y = { x with life := if x.life = .live then .demoted else x.life }) ∧
      MovesLanes s c (exec (.lExit f) s) (fun _ => none) (fun _ x y => y = { x with life := .exited }) ∧
      (c.who.team.liveBars = [] → Leads (exec (.lExit f) s) fun t => ∃ x, aget t.teams c.who.g.team = some x ∧
        x.live = c.who.team.live - c.act.length ∧ x.sp = c.who.team.sp ∧ x.groups = c.who.team.groups)) ∧
    (LaneReady s f { dst := [f.d.toNat] } c → c.depth < 63 →
      MovesLanes s c (exec (.lCall f) s) (fun _ => some (target, c.depth + 1)) link) ∧
    (LaneReady s f { a := [f.a.toNat] } c → 0 < c.depth →
      MovesLanes s c (exec (.lRet f) s) (fun l => some (srcA f c l, c.depth - 1)) same) ∧
    (LaneReady s f { dst := [f.d.toNat] } c → c.depth = 63 → c.act ≠ [] → LaneTraps s c (exec (.lCall f) s) 0x04 0) ∧
    (LaneReady s f { a := [f.a.toNat] } c → c.depth = 0 → c.act ≠ [] → LaneTraps s c (exec (.lRet f) s) 0x04 0)) ∧
  (∀ (s : State) (f : LF) (c : LaneCtx) (e : Nat → Word),
    let ix := fun l => (srcA f c l).toNat
    let entry := fun l => s.fetchWord c.who.core c.who.ctx false (BitVec.ofNat 64 (c.who.lrec.ldtab.toNat + 4 * ix l)) = .word (e l)
    (LaneReady s f { dst := [f.d.toNat], a := [f.a.toNat] } c → c.depth < 63 → (∀ l ∈ c.act, ix l < c.who.lrec.ldlen ∧ entry l) →
      MovesLanes s c (exec (.lDcall f) s) (fun l => some (e l, c.depth + 1)) (fun _ x y => PutReg f.d.toNat (c.pc + 1) x y)) ∧
    (LaneReady s f { a := [f.a.toNat] } c → (∀ l ∈ c.act, ix l < c.who.lrec.ldlen ∧ entry l) →
      MovesLanes s c (exec (.lDjmp f) s) (fun l => some (e l, c.depth)) (fun _ x y => SameLane x y)) ∧
    (∀ l rest, c.act = l :: rest → c.who.lrec.ldlen ≤ ix l →
      (LaneReady s f { dst := [f.d.toNat], a := [f.a.toNat] } c → LaneTraps s c (exec (.lDcall f) s) 0x03 (BitVec.ofNat 64 (ix l))) ∧
      (LaneReady s f { a := [f.a.toNat] } c → LaneTraps s c (exec (.lDjmp f) s) 0x03 (BitVec.ofNat 64 (ix l))))) ∧
  (∀ (s : State) (f : LF) (c : LaneCtx) (w0 w1 w2 : Word),
    (∀ l rest, c.act = l :: rest → LaneReady s f { a := [f.a.toNat] } c → LaneTraps s c (exec (.lTrap f) s) 0x0C ((srcA f c l).setWidth 64)) ∧
    (c.act = [] → LaneReady s f { a := [f.a.toNat] } c → MovesLanes s c (exec (.lTrap f) s) (fun _ => none) fun _ x y => SameLane x y) ∧
    (LaneReady s lfNone {} c → LaneTraps s c (exec (.illegalLaneInstruction w0 w1 w2) s) 0x01 0) ∧
    (LaneReady s f {} c → c.who.lrec.regsAlloc ≤ f.d.toNat →
      LaneTraps s c (exec (.lCall f) s) 0x01 0) ∧
    (LaneReady s f {} c → (c.gathered = true ∨ ∃ n, (c.who.g.gangRec c.pc c.depth).regang = some n ∧ n ≤ s.cycle) →
      MovesLanes s c (exec (.lRegang f) s) (fun _ => some (c.pc + 1, c.depth)) fun _ x y => SameLane x y) ∧
    (LaneReady s f {} c → c.gathered = false → (c.who.g.gangRec c.pc c.depth).regang = none → f.w2 ≠ 0 → Leads (exec (.lRegang f) s) fun t =>
      ∃ g, aget t.groups c.who.gid = some g ∧ (g.gangRec c.pc c.depth).regang = some (s.cycle + f.w2.toNat) ∧ g.slices = c.who.g.slices) ∧
    (LaneReady s f {} c → c.who.lrec.rgn = false → LaneTraps s c (exec (.lRgn f) s) 0x01 0) ∧
    (LaneReady s f {} c → c.who.lrec.rgn = true → c.gathered = false → LaneTraps s c (exec (.lRgn f) s) 0x04 0) ∧
    (LaneReady s f {} c → c.who.lrec.rgn = true → c.gathered = true → c.who.g.inWord = false → c.who.g.lrgn = none → Leads (exec (.lRgn f) s) fun t =>
      ∃ g h, aget t.groups c.who.gid = some g ∧ g.inRgn true = true ∧ g.lrgn = some h ∧ h.stage = 0 ∧ g.slices = c.who.g.slices ∧ g.spc = c.who.g.spc) ∧
    (∀ h, LaneReady s f {} c → c.who.lrec.rgn = true → c.gathered = true → c.who.g.inWord = false → c.who.g.lrgn = some h → h.stage = 0 → s.producersLanded c.who.gid c.who.g = true →
      Leads (exec (.lRgn f) s) fun t => ∃ g k, aget t.groups c.who.gid = some g ∧ g.lrgn = some k ∧ k.stage = 1 ∧ k.since = s.cycle ∧ g.slices = c.who.g.slices ∧ g.spc = c.who.g.spc))

/-- R291 to R293, R298, R299: a lane `barr` enters the quarantine with one arrival for each barrier that its performing lanes name, of their number, and goes on; a `bwait` whose phases have all passed goes on, and one with a lane whose phase has
not passed waits at that lane's barrier; a lane fence goes on when its release has been performed for its lanes, an acquire fence when their reads have been.

R294: a release fence leaves its scope to the next write of each of its lanes, with the scope that stood already the wider of both. -/
def Obligations.LaneBarriersAndFences : Prop :=
  ∀ (s : State) (f : LF) (c : LaneCtx), s.laneAcqPending c.who.gid c.act = false →
    let moves := fun (i : Instr) (p : Nat → Lane → Lane → Prop) => MovesLanes s c (exec i s) (fun _ => some (c.pc + 1, c.depth)) p
    let goesOn := fun (i : Instr) => moves i fun _ x y => SameLane x y
    (∀ bs, LaneReady s f (needs f false false true false) c → s.laneBars c f c.act = .ok bs → c.who.g.region = none → c.act ≠ [] →
      Leads (exec (.lBarr f) s) fun t => ∃ h q, aget t.groups c.who.gid = some h ∧ h.quar = c.who.g.quar ++ [q] ∧ q.at_ = s.cycle ∧ q.lanes = c.act ∧
        h.lanes = c.who.g.lanes ∧ h.sregs = c.who.g.sregs ∧ t.mem = s.mem ∧ t.teams = s.teams ∧
        (q.effects.flatMap Effect.msgs).map (fun m => (m.place, m.kind)) =
          (bs.map (·.2)).eraseDups.map fun p => (Place.scratch p.1 p.2, MsgKind.barLanes (bs.filter fun x => x.2 = p).length)) ∧
    (∀ bs, LaneReady s f (needs f false false true true) c → s.laneBars c f c.act = .ok bs → s.laneWaits c f bs = none → goesOn (.lBwait f)) ∧
    (∀ bs l, LaneReady s f (needs f false false true true) c → s.laneBars c f c.act = .ok bs → s.laneWaits c f bs = some l →
      exec (.lBwait f) s = s.lStall c .barrier ((srcOf f c f.bsel f.b l).setWidth 64)) ∧
    (LaneReady s f {} c → c.act ≠ [] → f.mod5.toNat / 8 ≠ 1 → ∀ id, (c.who.g.gangRec c.pc c.depth).rel = some (id, c.act) → aget s.rels id = none →
      moves (.lFence f) fun _ x y => y = { x with relPend := y.relPend } ∧ ∃ sc, y.relPend = some sc ∧ scopeRank (scopeOfL f) ≤ scopeRank sc ∧
        (sc = scopeOfL f ∨ x.relPend = some sc)) ∧
    (LaneReady s f {} c → f.mod5.toNat / 8 = 1 → s.laneReadsDone c.who.gid c.act = true → goesOn (.lFence f)) ∧
    (LaneReady s f {} c → c.act = [] → goesOn (.lFence f))

/-! ## Cross-lane instructions -/

/-- A cross-lane instruction that writes s[d] issues as a producer of the value `v` (R202, R86): s[d] is empty, a request stands for it that lands `v`, and that sets OVFL as it lands when `ovfl` holds (R120); no register, flag, lane, memory or scratchpad changes. -/
def ProducesScalar (s : State) (c : LaneCtx) (o : Out) (d : SReg) (ovfl : Bool) (v : DWord) : Prop :=
  ∃ t h q, o = .next t ∧ aget t.groups c.who.gid = some h ∧ aget t.reqs s.nextId = some q ∧ q.gid = c.who.gid ∧ q.lane = true ∧ q.dst = .value d v ∧
    (d ≠ 0 → h.sfull d = false) ∧ (∀ r : SReg, r ≠ d → h.sfull r = c.who.g.sfull r) ∧ h.sregs = c.who.g.sregs ∧ h.vfe = c.who.g.vfe ∧
    (∀ l, h.lane l = c.who.g.lane l) ∧ q.ovfl = ovfl ∧ h.ovfl = c.who.g.ovfl ∧ h.nval = c.who.g.nval ∧
    (∀ x, cellRead t.mem x = cellRead s.mem x) ∧ t.teams = s.teams ∧ t.net = s.net

/-- What a scalar destination needs besides the sources (R202): it is free, and the group's slices stand together. -/
def gathers (f : LF) (n : Need) : Need := { n with sdst := [f.d.setWidth 6], gather := true }

/-- One step of a reduction (R205): FP32 sums round RNE, integer sums wrap, min and max of f32 are minimumNumber and maximumNumber; bf16x2 is computed by element. -/
def reductionStep (op : Nat) (ty : LTy) (a b : Word) : Word :=
  if ty = .bf16x2 then (redStep op ty a b).1
  else if op = 0 then (if ty = .f32 then round32 .rne (Fp.add false (f32 a) (f32 b)) else a + b)
  else if op = 1 then
    (if ty = .f32 then BitVec.ofNat 32 (minNum fmtF32 a.toNat b.toNat)
     else if ty = .i32 then (if a.toInt ≤ b.toInt then a else b) else (if a.toNat ≤ b.toNat then a else b))
  else if op = 2 then
    (if ty = .f32 then BitVec.ofNat 32 (maxNum fmtF32 a.toNat b.toNat)
     else if ty = .i32 then (if a.toInt ≤ b.toInt then b else a) else (if a.toNat ≤ b.toNat then b else a))
  else if op = 3 then a &&& b else if op = 4 then a ||| b else a ^^^ b

/-- The identities of R205. -/
def reductionIdentity (op : Nat) (ty : LTy) : Word :=
  if ty = .f32 then (if op = 0 then 0x80000000 else if op = 1 then 0x7F800000 else 0xFF800000)
  else if ty = .bf16x2 then (if op = 0 then 0x80008000 else if op = 1 then 0x7F807F80 else 0xFF80FF80)
  else if ty = .i32 then (if op = 1 then 0x7FFFFFFF else if op = 2 then 0x80000000 else 0)
  else if op = 1 ∨ op = 3 then 0xFFFFFFFF else 0

/-- The fixed pairwise tree of R131: `k` levels over the positions from `i · 2^k` on, the lower index on the left. -/
def treeOf (op : Word → Word → Word) (x : Nat → Word) : Nat → Nat → Word
  | 0, i => x i
  | k + 1, i => op (treeOf op x k (2 * i)) (treeOf op x k (2 * i + 1))

/-- The operations that a type takes in `rdc` (R205). -/
def reductionLegal (op : Nat) (ty : LTy) : Prop :=
  (op ≤ 2 ∧ (ty = .i32 ∨ ty = .n32 ∨ ty = .f32 ∨ ty = .bf16x2)) ∨ (3 ≤ op ∧ op ≤ 5 ∧ ty = .b32)

/-- A pair of value and index beats another (R206), for an integer type. -/
def beatsInt (ty : LTy) (mx : Bool) (a b : Word × Word) : Prop :=
  let v := fun (x : Word) => if ty = .i32 then x.toInt else (x.toNat : Int)
  (if mx then v b.1 < v a.1 else v a.1 < v b.1) ∨ (v a.1 = v b.1 ∧ a.2.toNat < b.2.toNat)

/-- R203, R204, R208, R209: `xlane` gives each active lane the A of its source lane within its segment, or its own; `canvass` gathers a predicate over the active lanes; `bcast` and `vtos` take the A of the lowest active lane or of
lane B mod 64, and a lane that is not active gives the lane's own value in `bcast` and 0 in `vtos`.

R131, R201, R202, R205 to R207: `rdc` reduces the active lanes' A with the identity for every other position, in the pairwise tree, to v[d] of every active lane or to s[d], and bf16x2 sets OVFL when a step overflows; `rdcx` of integers gives
a pair that stands among the contributions and identities and that none of them beats, and of f32 the pair left by the positions in turn, a NaN written canonical; `scan` gives each active lane the left fold of the positions up to its own, exclusive of it under mod5[3]. -/
def Obligations.LaneExchangesAndReductions : Prop :=
  (∀ (s : State) (f : LF) (c : LaneCtx),
    let mode := f.mod5.toNat % 4
    let k := f.mod5.toNat / 4
    let seg := if k = 0 then c.who.g.width else 2 ^ k
    let base := fun l => l - l % seg
    let n := fun l => (srcOf f c f.bsel f.b l).toNat
    let src := fun l => if mode = 0 then base l + n l % seg else if mode = 1 then l - n l else if mode = 2 then l + n l else l ^^^ (n l % seg)
    let valid := fun l => mode = 0 ∨ mode = 3 ∨ (mode = 1 ∧ base l + n l ≤ l) ∨ (mode = 2 ∧ l + n l < base l + seg)
    let from_ := fun l => if valid l ∧ src l ∈ c.act then src l else l
    let fits := fun (m : Need) => { m with illegal := fun c => c.who.g.width < 2 ^ (f.mod5.toNat / 4) }
    let holds := fun l => xor ((c.who.g.lane l).pget (f.w2.toNat / 32 % 32)) (f.mod5.getLsbD 2)
    let named := if f.mod5.getLsbD 0 then c.act.head? else if n 0 % 64 ∈ c.act then some (n 0 % 64) else none
    let own := fun l => named.getD l
    let useB := !f.mod5.getLsbD 0
    (f.ty ≠ .b64 → LaneReady s f (fits (needs f true true true false)) c → PutsReg s f c (.lXlane f) fun l => srcA f c (from_ l)) ∧
    (f.ty = .b64 → LaneReady s f (fits (needOf f { d := true, a := true, b := true } true true false false)) c →
      PutsPair s f c (.lXlane f) fun l => srcOf64 f c .vec f.a (from_ l)) ∧
    (LaneReady s f {} c → mode < 3 → f.w2.toNat % 32 < 24 → PutsPred s c (.lCanvass f) (f.w2.toNat % 32) fun _ =>
      if mode = 0 then c.act.all holds else if mode = 1 then c.act.any holds else c.act.all holds || c.act.all fun l => !holds l) ∧
    (f.ty ≠ .b64 → LaneReady s f (needs f true false false false) c → mode = 3 → f.mod5.getLsbD 3 = false →
      ∃ v : Word, (∀ j, j < 32 → v.getLsbD j = (decide (j ∈ c.act) && holds j)) ∧ PutsReg s f c (.lCanvass f) fun _ => v) ∧
    (f.ty = .b64 → LaneReady s f (needOf f { d := true } true false false false) c → mode = 3 → f.mod5.getLsbD 3 = false →
      ∃ v : DWord, (∀ j, j < 64 → v.getLsbD j = (decide (j ∈ c.act) && holds j)) ∧ PutsPair s f c (.lCanvass f) fun _ => v) ∧
    (LaneReady s f (needs f true false false false) c → mode = 3 → f.mod5.getLsbD 3 = true →
      PutsReg s f c (.lCanvass f) fun _ => BitVec.ofNat 32 (c.act.filter holds).length) ∧
    (f.ty ≠ .b64 → LaneReady s f (needOf f { d := true, a := true, b := useB } false false false false) c → PutsReg s f c (.lBcast f) fun l => srcA f c (own l)) ∧
    (f.ty = .b64 → LaneReady s f (needOf f { d := true, a := true, b := useB } true true false false) c →
      PutsPair s f c (.lBcast f) fun l => srcOf64 f c .vec f.a (own l)) ∧
    (f.ty ≠ .b64 → LaneReady s f (gathers f (needOf f { a := true, b := useB } false false false false)) c →
      ProducesScalar s c (exec (.lVtos f) s) (f.d.setWidth 6) false (match named with
        | some j => wide f.ty (srcA f c j)
        | none => 0)) ∧
    (f.ty = .b64 → LaneReady s f (gathers f (needOf f { a := true, b := useB } false true false false)) c →
      ProducesScalar s c (exec (.lVtos f) s) (f.d.setWidth 6) false (match named with
        | some j => srcOf64 f c .vec f.a j
        | none => 0))) ∧
  (∀ (s : State) (f : LF) (c : LaneCtx) (levels : Nat), c.who.g.width = 2 ^ levels → levels ≤ 6 →
    let op := f.mod5.toNat % 8
    let id := reductionIdentity op f.ty
    let x := fun l => if l ∈ c.act then srcA f c l else id
    let total := treeOf (reductionStep op f.ty) x levels 0
    let ovf := decide (f.ty = .bf16x2) && (reduce op f.ty ((List.range c.who.g.width).map x)).2
    let mx := f.mod5.getLsbD 0
    let useB := f.mod5.getLsbD 1
    let pair := fun l => if l ∈ c.act then (srcA f c l, if useB then srcOf f c f.bsel f.b l else BitVec.ofNat 32 l)
      else (reductionIdentity (if mx then 2 else 1) f.ty, (0xFFFFFFFF : Word))
    let best := fun (v : DWord) => ∃ b, v = b.2 ++ b.1 ∧ (∃ i, i < c.who.g.width ∧ b = pair i) ∧ ∀ i, i < c.who.g.width → ¬ beatsInt f.ty mx (pair i) b
    let last := (List.range (c.who.g.width - 1)).foldl (fun b i => if rdcxBeats f.ty mx (pair (i + 1)) b then pair (i + 1) else b) (pair 0)
    let folded := last.2 ++ (if (f32 last.1).isNan then (0x7FC00000 : Word) else last.1)
    let d : SReg := f.d.setWidth 6
    (reductionLegal op f.ty → f.mod5.getLsbD 3 = false → LaneReady s f (needs f true true false false) c →
      Converts s false c (exec (.lRdc f) s) ovf false fun _ u w => PutReg f.d.toNat total u w) ∧
    (reductionLegal op f.ty → f.mod5.getLsbD 3 = true → LaneReady s f (gathers f (needs f false true false false)) c →
      ProducesScalar s c (exec (.lRdc f) s) d ovf (wide f.ty total)) ∧
    (f.ty = .i32 ∨ f.ty = .n32 → f.mod5.getLsbD 3 = false → LaneReady s f (needOf f { d := true, a := true, b := useB } true false false false) c →
      ∃ v, best v ∧ PutsPair s f c (.lRdcx f) fun _ => v) ∧
    (f.ty = .i32 ∨ f.ty = .n32 → f.mod5.getLsbD 3 = true → LaneReady s f (gathers f (needOf f { a := true, b := useB } false false false false)) c →
      ∃ v, best v ∧ ProducesScalar s c (exec (.lRdcx f) s) d false v) ∧
    (f.ty = .f32 → f.mod5.getLsbD 3 = false → LaneReady s f (needOf f { d := true, a := true, b := useB } true false false false) c →
      PutsPair s f c (.lRdcx f) fun _ => folded) ∧
    (f.ty = .f32 → f.mod5.getLsbD 3 = true → LaneReady s f (gathers f (needOf f { a := true, b := useB } false false false false)) c →
      ProducesScalar s c (exec (.lRdcx f) s) d false folded) ∧
    (f.ty = .f32 → (∀ l ∈ c.act, (f32 (srcA f c l)).isNan = true) → (∃ l, l < c.who.g.width ∧ l ∉ c.act) →
      folded = (0xFFFFFFFF : Word) ++ reductionIdentity (if mx then 2 else 1) .f32) ∧
    (reductionLegal op f.ty → f.ty ≠ .bf16x2 → (∀ l ∈ c.act, l < c.who.g.width) → LaneReady s f (needs f true true false false) c →
      PutsReg s f c (.lScan f) fun l =>
        (List.range (if f.mod5.getLsbD 3 then l else l + 1)).foldl (fun acc j => reductionStep op f.ty acc (x j)) id))

/-! ## Lane memory instructions -/

/-- The effective address of a lane (R233): the base B, the index A scaled by 2^(SCALE − 1) when SCALE is not 0, and the signed displacement in the low `lo` bits of W2. -/
def laneAddress (f : LF) (c : LaneCtx) (lo l : Nat) : DWord :=
  let k := f.w2.toNat / 2 ^ lo % 8
  srcOf64 f c f.bsel f.b l + (if k = 0 then 0 else (srcA f c l).signExtend 64 <<< (k - 1)) + (f.w2.setWidth lo).signExtend 64

/-- The value of source C at `n` bytes, lowest first. -/
def laneBytes (f : LF) (c : LaneCtx) (n l : Nat) : List Byte :=
  leBytes n (if n = 8 then (srcOf64 f c f.csel f.c l).toNat else (srcOf f c f.csel f.c l).toNat)

/-- What a lane memory instruction needs: the index and the base, and C at `n` bytes where it has one. -/
def addressNeeds (f : LF) (n : Nat) (withC : Bool) : Need :=
  { addrNeed f 20 with c := if withC then srcRegs f.csel f.c (n = 8) else [] }

/-- A lane load has issued (R86, R165): a request stands for v[d] with these parts and a zero for every demoted active lane; v[d] is empty, unless no lane takes part; active lanes change as `moves` says, and no other lane, no other register's full bit, no scalar register and no byte of memory changes. -/
def LaneLoadIssued (s : State) (c : LaneCtx) (o : Out) (id : Nat) (d : VReg) (n : Nat) (dst : ReqDst) (acq : Option Scope) (now : Bool)
    (parts : List Part) (moves : Nat → Lane → Lane → Prop) : Prop :=
  ∃ t h q, o = .next t ∧ aget t.groups c.who.gid = some h ∧ aget t.reqs id = some q ∧ q.gid = c.who.gid ∧ q.lane = true ∧ q.dst = dst ∧
    q.acquire = acq ∧ q.now = now ∧ q.zeros = c.demoted ∧
    q.parts.map (fun p => (p.lane, p.ea, p.place, p.n, p.value)) = parts.map (fun p => (p.lane, p.ea, p.place, p.n, p.value)) ∧
    (∀ k, (k = d.toNat ∨ (n = 8 ∧ k = d.toNat + 1)) → k < 256 → h.vfull k = (decide (parts = [] ∧ c.demoted = []) && c.who.g.vfull k)) ∧
    (∀ k, k ≠ d.toNat → ¬ (n = 8 ∧ k = d.toNat + 1) → h.vfull k = c.who.g.vfull k) ∧
    h.sregs = c.who.g.sregs ∧ h.quar = c.who.g.quar ∧ h.trap = c.who.g.trap ∧ (∀ x, cellRead t.mem x = cellRead s.mem x) ∧
    (∀ l ∈ c.act, moves l (c.who.g.lane l) (h.lane l)) ∧ (∀ l, l ∉ c.act → h.lane l = c.who.g.lane l) ∧
    (∀ j, j ≠ c.who.gid → aget t.groups j = aget s.groups j)

/-- The window offset of a lane's scratchpad access and v[a] after it (R240), in the mode of mod5[1:0]. -/
def windowAddress (f : LF) (c : LaneCtx) (l : Nat) : Nat × Word :=
  let a := srcA f c l
  let moved := a + (f.w2.setWidth 20).signExtend 32
  match f.mod5.toNat % 4 with
  | 0 => (moved.toNat, a)
  | 1 => (a.toNat, moved)
  | _ =>
    let ring := c.who.g.modReg (f.mod5.toNat / 4)
    let base := ring.toNat % 2 ^ 32
    (a.toNat, BitVec.ofNat 32 (base + ((a.toNat + 2 ^ 32 - base) % 2 ^ 32 + f.w2.toNat % 2 ^ 20) % (ring.toNat / 2 ^ 32)))

/-- R240, R241, R223, R236: `lds` within SCRATCH reads the team's own bytes at its offset and moves v[a] by its mode; `sts` leaves each byte of the team's scratchpad as the highest performing lane that writes it says, and every other byte, every
other team and all of memory as they were; an offset beyond SCRATCH takes the translation fault of the lowest such lane and writes nothing; poisoned bytes make `lds` take a lane fault that moves no register (R237); `ldcl` issues a request for the bytes of the cluster member. -/
def Obligations.LaneScratchpad : Prop :=
  ∀ (s s1 : State) (f : LF) (c : LaneCtx) (ps : List Part),
    let n := accSize f
    let off := fun l => (windowAddress f c l).1
    let fits := ∀ l ∈ c.perform, off l + n ≤ c.who.lrec.scratch
    let xs := c.perform.map fun l => { lane := l, ea := BitVec.ofNat 64 (off l), us := c.spUnits (off l) n : LaneAcc }
    let dst := ReqDst.lanes f.d n (f.w2.getLsbD 25) none
    let lds : Need := { dst := regs1 f.d (n = 8), a := [f.a.toNat] }
    let sts : Need := { a := [f.a.toNat], c := srcRegs f.csel f.c (n = 8) }
    let moves := fun (l : Nat) (x y : Lane) => if f.mod5.toNat % 4 = 0 then y = x else PutReg f.a.toNat (windowAddress f c l).2 x y
    let cs := c.perform.map (s.clAcc c f n)
    s.laneAcqPending c.who.gid c.act = false →
    (LaneReady s f lds c → fits → s.laneParts c.who (fun _ => none) false xs = some (ps, s1) → (∀ p ∈ ps, p.reject = none) →
      LaneLoadIssued s c (exec (.lLds f) s) s1.nextId f.d n dst none false ps moves) ∧
    (∀ p code, LaneReady s f lds c → fits → s.laneParts c.who (fun _ => none) false xs = some (ps, s1) → (ps.find? fun x => x.reject.isSome) = some p → p.reject = some code →
      exec (.lLds f) s = s.laneTrap c code 0 p.ea) ∧
    (LaneReady s f sts c → c.fenceScope = none → fits → (∀ l ∈ c.perform, s.spBusy c.who.gid c.who.g (.scratch c.who.g.team (off l)) n = false) →
      Leads (exec (.lSts f) s) fun t =>
        (∃ x, aget t.teams c.who.g.team = some x ∧ ∀ o, x.spGet o =
          match c.perform.reverse.find? fun l => decide (off l ≤ o ∧ o < off l + n) with
          | some l => (laneBytes f c n l).getD (o - off l) 0
          | none => c.who.team.spGet o) ∧
        (∀ j, j ≠ c.who.g.team → aget t.teams j = aget s.teams j) ∧ (∀ x, cellRead t.mem x = cellRead s.mem x) ∧ t.net = s.net ∧
        ∃ h, aget t.groups c.who.gid = some h ∧ h.quar = c.who.g.quar ∧ h.sregs = c.who.g.sregs ∧ (∀ l ∈ c.act, moves l (c.who.g.lane l) (h.lane l)) ∧
          ∀ l, l ∉ c.act → h.lane l = c.who.g.lane l) ∧
    (∀ l before after, c.perform = before ++ l :: after → (∀ j ∈ before, off j + n ≤ c.who.lrec.scratch) → c.who.lrec.scratch < off l + n →
      (LaneReady s f lds c → LaneTraps s c (exec (.lLds f) s) 0x06 (BitVec.ofNat 64 (off l))) ∧
      (LaneReady s f sts c → c.fenceScope = none → LaneTraps s c (exec (.lSts f) s) 0x06 (BitVec.ofNat 64 (off l)))) ∧
    (LaneReady s f lds c → s.clBad c f n = none → s.sentBusy c cs = false →
      LaneLoadIssued s c (exec (.lLdcl f) s) s.nextId f.d n dst none false (cs.flatMap (c.clParts s)) fun _ x y => SameLane x y)

/-- The lanes of `xs` have entered the quarantine as one entry of this cycle (R378), with these messages (lane, place, what each does) in this order; the stream goes on, and no register, lane, byte of memory or of scratchpad changes. -/
def LanesEnter (s : State) (c : LaneCtx) (o : Out) (xs : List LaneAcc) (ms : List (Nat × Place × MsgKind)) : Prop :=
  ∃ t h q, o = .next t ∧ aget t.groups c.who.gid = some h ∧ h.quar = c.who.g.quar ++ [q] ∧ q.at_ = s.cycle ∧ q.lanes = xs.map (·.lane) ∧
    (q.effects.flatMap Effect.msgs).map (fun m => (m.lane, m.place, m.kind)) = ms ∧
    (∀ l, h.lane l = c.who.g.lane l) ∧ h.sregs = c.who.g.sregs ∧ h.sfe = c.who.g.sfe ∧ h.trap = c.who.g.trap ∧ h.spc = c.who.g.spc ∧
    (∀ x, cellRead t.mem x = cellRead s.mem x) ∧ t.teams = s.teams ∧ t.net = s.net

/-- R233, R237 to R239, R318: `ld`, `ldacq`, `ldws` and `ldb` translate and check every performing lane at its effective address before any is performed; when all resolve they issue as producers of v[d] and no lane changes, `ldacq` with
its acquire, `ldb` with its need and, in now mode, its predicate; when one fails the instruction takes that lane's fault and has no effect, and where only the generation stands against one it waits (R375).

R233, R237, R238, R241, R378: a `st`, `strel` or `stcl` whose performing lanes all resolve outside the issuing core's scratchpad enters the quarantine with, for each performing lane in ascending order and each of its units, one store of C's low
bytes at that unit's place; a `strel` releases at its scope before each. Whatever its places, a `st` or `strel` whose performing lanes all resolve completes its issue, writing no memory. (Lanes to which a fence has left a release begin that
first, R294: these statements are of lanes to which none is left.) -/
def Obligations.LaneMemory : Prop :=
  (∀ (s s1 : State) (f : LF) (c : LaneCtx) (xs : List LaneAcc) (ps : List Part),
    let n := accSize f
    let ea := laneAddress f c 20
    let dst := fun (psel : Option (BitVec 5)) => ReqDst.lanes f.d n (f.w2.getLsbD 25) psel
    let load : Need := { addressNeeds f n false with dst := regs1 f.d (n = 8) }
    let same := fun (_ : Nat) (x y : Lane) => SameLane x y
    s.laneAcqPending c.who.gid c.act = false →
    let issues := fun (i : Instr) (kind : AccKind) (aligned plain : Bool) (acq : Option Scope) => LaneReady s f load c →
      (s.resolveLanes c.who kind n aligned ea c.perform = .ok xs → s.laneParts c.who (fun _ => none) plain xs = some (ps, s1) →
        LaneLoadIssued s c (exec i s) s1.nextId f.d n (dst none) acq false ps same) ∧
      (∀ code l, s.resolveLanes c.who kind n aligned ea c.perform = .error (code, l) → isSystemCause code = false →
        if code = 0x07 then exec i s = s.lStall c .none 0 else LaneTraps s c (exec i s) code l)
    issues (.lLd f) .read false true none ∧
    issues (.lLdacq f) .read true true (some (scopeOfL f)) ∧
    issues (.lLdws f) .ldws false false none ∧
    (LaneReady s f { addressNeeds f n true with dst := regs1 f.d (n = 8), c := srcRegs f.csel f.c false } c →
      s.resolveLanes c.who .read n false ea c.perform = .ok xs → s.unreadableFor c xs = none →
      (s.settleFor c xs).laneParts c.who ((s.settleFor c xs).ldbNeed c f xs) true xs = some (ps, s1) →
      LaneLoadIssued s c (exec (.lLdb f) s) s1.nextId f.d n
        (dst (if f.mod5.getLsbD 0 then some (BitVec.ofNat 5 (f.w2.toNat / 2 ^ 26 % 32)) else none)) none (f.mod5.getLsbD 0) ps same)) ∧
  (∀ (s : State) (f : LF) (c : LaneCtx) (xs : List LaneAcc),
    let n := accSize f
    let ea := laneAddress f c 20
    let r := s.sendLanes c.who .write n false ea c.perform
    let piece := fun (x : LaneAcc) (u : RUnit) => ((laneBytes f c n x.lane).drop u.off).take u.n
    let store := fun (x : LaneAcc) (u : RUnit) => (x.lane, u.place, MsgKind.store ((piece x u).map some) u.place.persist false)
    let cl := c.perform.map (s.clAcc c f n)
    let outside := fun (ys : List LaneAcc) => ys ≠ [] ∧ ∀ x ∈ ys, x.us ≠ [] ∧ ∀ u ∈ x.us, ∀ t o, u.place ≠ .scratch t o
    let completes := fun (o : Out) => Leads o fun t => (∀ x, cellRead t.mem x = cellRead s.mem x) ∧ t.net = s.net ∧
      ∃ h, aget t.groups c.who.gid = some h ∧ (∀ l, h.lane l = c.who.g.lane l) ∧ h.sregs = c.who.g.sregs ∧ h.spc = c.who.g.spc ∧ h.trap = c.who.g.trap
    s.laneAcqPending c.who.gid c.act = false → c.who.g.region = none → c.doneBefore = 0 → c.fenceScope = none →
    (LaneReady s f (addressNeeds f n true) c → r.fault = none → s.sentBusy c r.lanes = false → completes (exec (.lSt f) s)) ∧
    (LaneReady s f (addressNeeds f n true) c → s.resolveLanes c.who .write n true ea c.perform = .ok xs → completes (exec (.lStrel f) s)) ∧
    (LaneReady s f (addressNeeds f n true) c → r.fault = none → outside r.lanes →
      LanesEnter s c (exec (.lSt f) s) r.lanes (r.lanes.flatMap fun x => x.us.map (store x))) ∧
    (LaneReady s f (addressNeeds f n true) c → s.resolveLanes c.who .write n true ea c.perform = .ok xs → outside xs →
      (∀ x ∈ xs, ∃ p a, x.us = [{ off := 0, n := n, place := p, attr := a }]) →
      LanesEnter s c (exec (.lStrel f) s) xs (xs.flatMap fun x => x.us.map (store x)) ∧
      Leads (exec (.lStrel f) s) fun t => ∃ h q, aget t.groups c.who.gid = some h ∧ h.quar = c.who.g.quar ++ [q] ∧
        ∀ e ∈ q.effects, ∃ m, e = .releaseThen (some (scopeOfL f)) m 0 0) ∧
    (LaneReady s f { a := [f.a.toNat], c := srcRegs f.csel f.c (n = 8) } c → s.clBad c f n = none → s.sentBusy c cl = false → cl ≠ [] →
      LanesEnter s c (exec (.lStcl f) s) cl (cl.flatMap fun x => x.us.map fun u => (x.lane, u.place, MsgKind.scratchStore (piece x u)))) ∧
    (∀ code l, LaneReady s f (addressNeeds f n true) c → s.resolveLanes c.who .write n true ea c.perform = .error (code, l) → isSystemCause code = false → code ≠ 0x07 →
      LaneTraps s c (exec (.lStrel f) s) code l))

/-- The table of R242: the new value at a location whose value is `old`. -/
def atomicStep (op : Nat) (ty : LTy) (old c : Word) : Word :=
  if op ≤ 5 then reductionStep op ty old c
  else if op = 6 then c
  else if c.toNat ≤ old.toNat then 0 else old + 1

/-- The instruction completes its issue: the lanes of `xs` have entered the quarantine as one entry of this cycle (R378) with these messages (lane, place, what each does), none when there are no lanes; no register of a lane, no scalar register
and no byte of memory or scratchpad changes. -/
def AtomicsEnter (s : State) (c : LaneCtx) (o : Out) (xs : List LaneAcc) (ms : List (Nat × Place × MsgKind)) : Prop :=
  ∃ t h, o = .next t ∧ aget t.groups c.who.gid = some h ∧ (∀ l, h.lane l = c.who.g.lane l) ∧ h.sregs = c.who.g.sregs ∧ h.spc = c.who.g.spc ∧ h.trap = c.who.g.trap ∧
    (∀ x, cellRead t.mem x = cellRead s.mem x) ∧ t.teams = s.teams ∧ t.net = s.net ∧ (xs = [] → h.quar = c.who.g.quar) ∧
    (xs ≠ [] → ∃ q, h.quar = c.who.g.quar ++ [q] ∧ q.at_ = s.cycle ∧ q.lanes = xs.map (·.lane) ∧
      (q.effects.flatMap Effect.msgs).map (fun m => (m.lane, m.place, m.kind)) = ms)

/-- The operation at a place (R243, R246): of a home, or of a scratchpad. -/
def operationAt (p : Place) (op : BitVec 4) (ty : LTy) (cv dv : DWord) (cas : Bool) (q : Option (Nat × Nat)) : MsgKind :=
  match p with
  | .scratch _ _ => .scratchAtomic (if cas then 8 else op) ty cv dv q
  | _ => .atomic op ty cv dv cas q

/-- R242, R244: the new value of a location under each atomic operation: 32-bit operations by the table, wrapping, with the FP32 step rounded once; `inc` returns to 0 at its bound; 64-bit add wraps; a compare and swap writes C exactly when
the old bits are the comparand's.

R243 to R248, R237, R378: an `atom`, `acas`, `apush` or `spatom` of which every performing lane resolves, and a `cpl`, complete their issue: they enter the quarantine in ascending lane order with the operation, C and comparand of each lane for its home or
scratchpad word; `apush` sends one operation for each address, of the left fold of C over the lanes that name it; `cpl` one transfer for each lane, and the credit of each demoted one. -/
def Obligations.LaneAtomics : Prop :=
  (∀ (op : BitVec 4) (ty : LTy) (old c k : Word) (old64 c64 k64 : DWord),
    (op.toNat ≤ 7 → ty ≠ .b64 → (atomNew op ty false (old.setWidth 64) (c.setWidth 64) 0).setWidth 32 = atomicStep op.toNat ty old c) ∧
    atomNew 0 .b64 false old64 c64 0 = old64 + c64 ∧ atomNew 3 .b64 false old64 c64 0 = old64 &&& c64 ∧
    atomNew 4 .b64 false old64 c64 0 = old64 ||| c64 ∧ atomNew 5 .b64 false old64 c64 0 = old64 ^^^ c64 ∧
    atomNew 6 .b64 false old64 c64 0 = c64 ∧ atomNew op .b64 true old64 c64 k64 = (if old64 = k64 then c64 else old64) ∧
    (ty ≠ .b64 → (atomNew op ty true (old.setWidth 64) (c.setWidth 64) (k.setWidth 64)).setWidth 32 = (if old = k then c else old))) ∧
  (∀ (s : State) (f : LF) (c : LaneCtx),
    let n := if f.ty = .b64 then 8 else 4
    let op : BitVec 4 := BitVec.ofNat 4 (f.w2.toNat / 2 ^ 23 % 16)
    let ea := laneAddress f c 20
    let operand := fun l => if f.ty = .b64 then srcOf64 f c f.csel f.c l else (srcOf f c f.csel f.c l).setWidth 64
    let held := fun l => if f.ty = .b64 then (c.who.g.lane l).getPair f.d.toNat else ((c.who.g.lane l).get f.d.toNat).setWidth 64
    let r := s.sendLanes c.who .atomic n true ea c.perform
    let enters := fun (i : Instr) (xs : List LaneAcc) (kind : Nat → Place → MsgKind → Prop) => ∃ ms, AtomicsEnter s c (exec i s) xs ms ∧
      ms.map (fun m => (m.1, m.2.1)) = xs.flatMap (fun x => x.us.map fun u => (x.lane, u.place)) ∧ ∀ m ∈ ms, kind m.1 m.2.1 m.2.2
    let cpl := s.cplSend c f
    let bar := if f.w2.getLsbD 31 then none else some (32 * (f.w2.toNat / 2 ^ 17 % 2 ^ 14))
    let bytes := 4 * 2 ^ (f.w2.toNat / 2 ^ 15 % 4)
    let sameAddress := fun (x : LaneAcc) => (r.lanes.filter fun y => y.ea = x.ea).map (·.lane)
    s.laneAcqPending c.who.gid c.act = false → c.who.g.region = none → c.doneBefore = 0 → c.fenceScope = none →
    (LaneReady s f { addressNeeds f n true with dst := if f.mod5.getLsbD 3 then regs1 f.d (n = 8) else [] } c → r.fault = none →
      enters (.lAtom f) r.lanes fun l p k => ∃ q, k = operationAt p op f.ty (operand l) 0 false q ∧ (q.isSome ↔ f.mod5.getLsbD 3 ∨ f.mod5.getLsbD 4)) ∧
    (LaneReady s f { addressNeeds f n true with dst := regs1 f.d (n = 8) } c → r.fault = none →
      enters (.lAcas f) r.lanes fun l p k => ∃ q, k = operationAt p 0 f.ty (operand l) (held l) true q ∧ q.isSome) ∧
    (f.ty ≠ .b64 → op.toNat ≤ 2 → LaneReady s f { addressNeeds f n true with c := srcRegs f.csel f.c false } c → r.fault = none →
      ∃ ms, AtomicsEnter s c (exec (.lApush f) s) r.lanes ms ∧ (∀ x ∈ r.lanes, x.us ≠ [] → ∃ m ∈ ms, (sameAddress x).head? = some m.1) ∧
        ∀ m ∈ ms, ∃ x ∈ r.lanes, m.1 = x.lane ∧ (sameAddress x).head? = some x.lane ∧ (∃ u ∈ x.us, m.2.1 = u.place) ∧
          m.2.2 = operationAt m.2.1 op f.ty (((sameAddress x).tail.foldl (fun acc k => reductionStep op.toNat f.ty acc (srcOf f c f.csel f.c k))
            (srcOf f c f.csel f.c x.lane)).setWidth 64) 0 false none) ∧
    (LaneReady s f { dst := if f.mod5.getLsbD 3 then regs1 f.d (n = 8) else [], a := [f.a.toNat], c := srcRegs f.csel f.c (n = 8) } c →
      (∀ l ∈ c.perform, (s.spatomPlace c f n l).isSome) →
      enters (.lSpatom f) (c.perform.map (s.spatomAcc c f n)) fun l _ k =>
        ∃ q, k = .scratchAtomic op f.ty (operand l) (if op = 8 then held l else 0) q ∧ (q.isSome ↔ f.mod5.getLsbD 3)) ∧
    (LaneReady s f { addrNeed f 12 with c := srcRegs f.csel f.c false } c → cpl.fault = none → (∀ x ∈ cpl.lanes, x.us ≠ []) →
      Leads (exec (.lCpl f) s) fun t => ∃ h, aget t.groups c.who.gid = some h ∧ (∀ l, h.lane l = c.who.g.lane l) ∧ h.sregs = c.who.g.sregs ∧ h.spc = c.who.g.spc ∧ t.teams = s.teams ∧
        (∀ x, cellRead t.mem x = cellRead s.mem x) ∧ (c.demoted = [] → cpl.lanes = [] → h.quar = c.who.g.quar) ∧
        (c.demoted ≠ [] ∨ cpl.lanes ≠ [] → ∃ q, h.quar = c.who.g.quar ++ [q] ∧ q.at_ = s.cycle ∧ q.lanes = c.demoted ++ cpl.lanes.map (·.lane) ∧
          (∀ x ∈ cpl.lanes, ∃ e ∈ q.effects, ∃ m, e = .perLaneCopy (!f.mod5.getLsbD 3) m c.who.g.team (srcOf f c f.csel f.c x.lane).toNat bytes bar (scopeOfL f) ∧ m.lane = x.lane) ∧
          ∀ e ∈ q.effects,
            (∃ x ∈ cpl.lanes, ∃ u ∈ x.us, ∃ m, e = .perLaneCopy (!f.mod5.getLsbD 3) m c.who.g.team (srcOf f c f.csel f.c x.lane).toNat bytes bar (scopeOfL f) ∧
              m.place = u.place ∧ m.ea = x.ea) ∨
            (∃ l ∈ c.demoted, ∃ o m, bar = some o ∧ e = .msg m ∧ m.kind = .barCredit bytes none ∧ m.place = .scratch c.who.g.team o ∧ m.lane = l))))

/-! ## What the host does -/

/-- The step changes context block `c` by `p` and nothing else of the state. -/
def ChangesCtx (s : State) (o : Out) (c : Nat) (p : Context → Context → Prop) : Prop :=
  ∃ t, o = .next t ∧ p (s.ctx c) (t.ctx c) ∧ (∀ j, j ≠ c → t.ctx j = s.ctx j) ∧ { t with ctxs := s.ctxs } = s

/-- `m'` is the canonical memory `m` with the bytes `bs` written at `pa`. -/
def WrittenAt (m m' : List Host.Cell) (pa : Nat) (bs : List Byte) : Prop :=
  Memory.wf m = true → ∀ a, cellRead m' a = if pa ≤ a ∧ a < pa + bs.length then bs.getD (a - pa) 0 else cellRead m a

/-- R53, R54, R56, R58, R62: the host's writes of a context block. Enabling sets EN; disabling clears it, empties the kernel queue and the eight host queues and leaves no launch of them that has not started; a TAIL write of a disabled context sets
HEAD and TAIL, an admissible one moves TAIL, and one that would give more than the queue's entries stops the queue with QERR; EVSET and EVCLR set and clear bits; a held record is written at its place once CQERR is cleared and there is room.

R219, R218, R22: GENBUMP starts a bump to GEN + 1, after which no TLB entry and no kept word of code of an earlier generation of that value is left, or counts one more while one runs; its second phase, once every live core has reported and no access of the new value from before the bump is in flight, makes the new value the context's generation, and
starts the next bump if one is counted. A core that adopts the value stamps it from then on and holds no line of the context. -/
def Obligations.ContextsAndGenerations : Prop :=
  (∀ (s : State) (c : BitVec 6) (q : BitVec 3) (v : Word) (e : BitVec 256),
    let n := c.toNat
    let h := (s.ctx n).queue q.toNat
    let others := fun (x y : Context) => (∀ j, j ≠ q.toNat → y.queue j = x.queue j) ∧ { y with queues := x.queues, qerr := x.qerr } = x
    ChangesCtx s (exec (.contextEnable c) s) n (fun x y => y = { x with en := true }) ∧
    ((s.ctx n).en = true → Leads (exec (.contextDisable c) s) fun t => (t.ctx n).en = false ∧ (t.ctx n).kq = [] ∧
      (∀ i, i < 8 → ((t.ctx n).queue i).head = ((t.ctx n).queue i).tail) ∧ t.groups = s.groups ∧ t.teams = s.teams ∧
      ∀ l ∈ t.launches, l.2.ctx = n → l.2.queue ≤ 8 → l.2.started = true) ∧
    ((s.ctx n).en = false → ChangesCtx s (exec (.tailWrite c q v) s) n fun x y => others x y ∧ y.qerr = x.qerr ∧
      y.queue q.toNat = { h with head := v, tail := v, part := [] }) ∧
    ((s.ctx n).en = true → h.stopped = false → (v - h.head).toNat ≤ 2 ^ h.log2 → ChangesCtx s (exec (.tailWrite c q v) s) n fun x y =>
      others x y ∧ y.qerr = x.qerr ∧ y.queue q.toNat = { h with tail := v }) ∧
    ((s.ctx n).en = true → h.stopped = false → 2 ^ h.log2 < (v - h.head).toNat → ChangesCtx s (exec (.tailWrite c q v) s) n fun x y =>
      others x y ∧ y.qerr = true ∧ y.queue q.toNat = { h with stopped := true }) ∧
    ChangesCtx s (exec (.evsetWrite c e) s) n (fun x y => { y with ev := x.ev } = x ∧ ∀ i, y.ev.getLsbD i = (x.ev.getLsbD i || e.getLsbD i)) ∧
    ChangesCtx s (exec (.evclrWrite c e) s) n (fun x y => { y with ev := x.ev } = x ∧ ∀ i, i < 256 → y.ev.getLsbD i = (x.ev.getLsbD i && !e.getLsbD i)) ∧
    ((s.ctx n).held = [] → ChangesCtx s (exec (.cqheadWrite c v) s) n (fun x y => y = { x with cqhead := v }) ∧
      ChangesCtx s (exec (.cqerrClear c) s) n fun x y => y = { x with cqerr := false }) ∧
    (∀ r pa, (s.ctx n).held = [r] → (s.ctx n).cqAsk = none → ((s.ctx n).cqtail - (s.ctx n).cqhead).toNat ≠ 2 ^ (s.ctx n).cqlog2 →
      (s.modCtx n fun x => { x with cqerr := false }).deviceAddr n .write
        (BitVec.ofNat 64 ((s.ctx n).cqbase.toNat + 32 * ((s.ctx n).cqtail.toNat % 2 ^ (s.ctx n).cqlog2))) = .ok (.home pa) → pa < tierBase →
      Leads (exec (.cqerrClear c) s) fun t => (t.ctx n).held = [] ∧ (t.ctx n).cqerr = false ∧ (t.ctx n).cqtail = (s.ctx n).cqtail + 1 ∧
        WrittenAt s.mem t.mem pa (r.bytes (s.ctx n).cqlog2 (s.ctx n).cqtail.toNat))) ∧
  (∀ (s : State) (c : BitVec 6) (k : CoreKey),
    let n := c.toNat
    let turns := fun (o : Out) (new : BitVec 12) (p : Context → Context → Prop) => Leads o fun t => p (s.ctx n) (t.ctx n) ∧ (∀ j, j ≠ n → t.ctx j = s.ctx j) ∧
      (∀ x ∈ t.cores, (∀ y ∈ x.2.tlb, ¬ (y.ctx = n ∧ y.gen = new)) ∧ ∀ y ∈ x.2.code, ¬ (y.ctx = n ∧ y.gen = new)) ∧ (∀ x ∈ t.dies, ∀ y ∈ x.2.tlb, ¬ (y.ctx = n ∧ y.gen = new)) ∧
      (∀ j, (t.core j).l1 = (s.core j).l1) ∧ t.mem = s.mem ∧ t.groups = s.groups ∧ t.teams = s.teams ∧ t.net = s.net ∧ t.reqs = s.reqs
    ((s.ctx n).bump = none → turns (exec (.genbump c) s) ((s.ctx n).gen + 1) fun x y => y = { x with bump := some { new := x.gen + 1, start := s.nextId } }) ∧
    ((s.ctx n).bump.isSome → ChangesCtx s (exec (.genbump c) s) n fun x y => y = { x with bumpsPending := x.bumpsPending + 1 }) ∧
    (∀ b, (s.ctx n).bump = some b → (∀ x ∈ s.cores, x.2.dead = true ∨ x.1 ∈ b.reported) → s.oldTagged n b = false →
      ((s.ctx n).bumpsPending = 0 → Leads (exec (.genbumpPhase2 c) s) fun t => t.ctx n = { s.ctx n with gen := b.new, bump := none } ∧ (∀ j, j ≠ n → t.ctx j = s.ctx j) ∧
        t.cores = s.cores ∧ t.dies = s.dies ∧ t.mem = s.mem ∧ t.groups = s.groups ∧ t.net = s.net ∧ t.reqs = s.reqs) ∧
      ((s.ctx n).bumpsPending ≠ 0 → turns (exec (.genbumpPhase2 c) s) (b.new + 1) fun x y =>
        y = { x with gen := b.new, bumpsPending := x.bumpsPending - 1, bump := some { new := b.new + 1, start := s.nextId } })) ∧
    (∀ b, (s.ctx n).bump = some b → coreIx k ∉ b.adopted → Leads (exec (.genbumpCoreAdopt c k) s) fun t =>
      t.genStamp k n = b.new ∧ (t.ctx n).gen = (s.ctx n).gen ∧ (∀ x ∈ (t.core k).l1, x.ctx ≠ n) ∧ t.mem = s.mem ∧ t.groups = s.groups) ∧
    (∀ b, (s.ctx n).bump = some b → coreIx k ∈ b.adopted → coreIx k ∉ b.reported →
      (∀ m ∈ s.net, ¬ (m.2.isWriteBack = true ∧ m.2.core = k ∧ m.2.ctx = n ∧ m.2.gen ≠ b.new)) → Leads (exec (.genbumpCoreReport c k) s) fun t =>
      ((t.ctx n).bump.map (·.reported)) = some (coreIx k :: b.reported) ∧ (t.ctx n).gen = (s.ctx n).gen ∧ t.groups = s.groups))

/-- R13, R42, R44, R46, R53, R54, R356, R414: a host register write acts by the register's access code: a context field is written while EN and ACTIVE are 0 and else ignored, QERR, PEND and DONE clear by a 1, GO starts a request, the snapshot fields are
ignored while BUSY, the recovery fields while EN, a read-only register changes nothing.

R34, R35, R42, R47, R50, R230, R347, R356, R362: a host access through BAR2 or CXL within its range and world reads the bytes at their home or replaces exactly them; one outside the range is aborted, one outside the world counted and aborted, one that a home cannot serve yet waits; a
flush sends an image of every dirty granule of the tier and completes when they have been accepted; STEP and OPTSTEP load only while no team is resident. -/
def Obligations.HostPort : Prop :=
  (∀ (s : State) (c : BitVec 6) (q : BitVec 3) (k : BitVec 3) (v : DWord),
    let n := c.toNat
    let w := fun (r : HostReg) => exec (.registerWrite r v) s
    let idle := (s.ctx n).en = false ∧ s.ctxActive n = false
    (idle → ChangesCtx s (w (.ptroot c)) n (fun x y => y = { x with ptroot := v }) ∧
      ChangesCtx s (w (.qbase c q)) n (fun x y => y.queue q.toNat = { x.queue q.toNat with base := v &&& ~~~0x7F }) ∧
      ChangesCtx s (w (.cqbase c)) n (fun x y => y = { x with cqbase := v &&& ~~~0x1F }) ∧
      (2 ≤ v.toNat % 32 → v.toNat % 32 ≤ 20 → ChangesCtx s (w (.cqlog2 c)) n fun x y => y = { x with cqlog2 := v.toNat % 32 }) ∧
      (1 ≤ v.toNat % 32 → v.toNat % 32 ≤ 16 → ChangesCtx s (w (.qlog2 c q)) n fun x y =>
        y.queue q.toNat = { x.queue q.toNat with log2 := v.toNat % 32 })) ∧
    (¬ idle → w (.ptroot c) = .next s ∧ w (.qbase c q) = .next s ∧ w (.cqbase c) = .next s ∧ w (.cqlog2 c) = .next s ∧ w (.qlog2 c q) = .next s) ∧
    ChangesCtx s (w (.halt c)) n (fun x y => y = { x with halt := v.getLsbD 2 }) ∧
    ChangesCtx s (w (.qerr c)) n (fun x y => y = { x with qerr := x.qerr && !v.getLsbD 3 }) ∧
    ChangesCtx s (w (.cqie c)) n (fun x y => y = { x with cqie := v.getLsbD 9 }) ∧
    ChangesCtx s (w (.cqvec c)) n (fun x y => y = { x with cqvec := v.setWidth 9 }) ∧
    (k.toNat ≤ 5 → v.getLsbD 10 = true → Leads (w (.intPend k)) fun t => (∃ e, aget t.ints k.toNat = some e ∧ e.pend = false) ∧
      ∀ j, j ≠ k.toNat → aget t.ints j = aget s.ints j) ∧
    (s.mbox.busy = false → w .reqLo = .next { s with mbox := { s.mbox with req := setWord128 s.mbox.req 0 v } } ∧
      (v.getLsbD 0 = true → w .go = .next { s with mbox := { s.mbox with busy := true, result := none } })) ∧
    (s.mbox.busy = true → w .reqLo = .next s ∧ w .reqHi = .next s ∧ w .go = .next s) ∧
    (v.getLsbD 2 = true → w .mboxDone = .next { s with mbox := { s.mbox with done := false } }) ∧
    (s.lehr.busy = true → w .liveBase = .next s ∧ w .liveLen = .next s ∧ w .slot0 = .next s ∧ w .sstep = .next s) ∧
    (s.lehr.busy = false → w .liveBase = .next { s with lehr := { s.lehr with liveBase := v.setWidth 52 } } ∧
      w .sstep = .next { s with lehr := { s.lehr with sstep := v } }) ∧
    (s.cullet.en = true → w .member = .next s ∧ w .frag0 = .next s) ∧
    (s.cullet.en = false → w .member = .next { s with cullet := { s.cullet with member := v.setWidth 4 } }) ∧
    w .recEn = .next { s with cullet := { s.cullet with en := v.getLsbD 4 } } ∧ (∀ x, w (.readOnly x) = .next s)) ∧
  (∀ (s : State) (off : BitVec 36) (n x pa width rate : Nat) (bs : List Byte) (v : DWord) (flit cxlIo cxlCache cxlMem ide : Bool),
    let at_ := s.hport.hwin.toNat + off.toNat
    let tier := tierBase + x
    let data := fun (o : Out) (a m : Nat) => Leads o fun t => t.hostOut = s.hostOut ++ [.data (cellsRead s.mem a m) (s.poisonIn a m)] ∧ t.mem = s.mem
    let writes := fun (o : Out) (a : Nat) => Leads o fun t => WrittenAt s.mem t.mem a bs ∧ t.groups = s.groups ∧ t.hostOut = s.hostOut
    Leads (exec (.hwinWrite v) s) (fun t => { t with hport := s.hport } = s ∧ t.hport = { s.hport with hwin := v &&& ~~~0xFFFFFFFFF }) ∧
    (s.streams = [] → s.hbmSize < tierBase → s.worldOk s.hport.secure at_ = true →
      (at_ + n ≤ s.hbmSize → (∀ i, i < n → s.homeBusy (at_ + i) = false) → data (exec (.hostBar2Request off (.read n)) s) at_ n) ∧
      (at_ + n ≤ s.hbmSize → (∃ i, i < n ∧ s.homeBusy (at_ + i) = true) → exec (.hostBar2Request off (.read n)) s = .next s) ∧
      (at_ + bs.length ≤ s.hbmSize → (∀ i, i < bs.length → s.homeBusy (at_ + i) = false) → writes (exec (.hostBar2Request off (.write bs)) s) at_)) ∧
    (s.hbmSize < at_ + n → exec (.hostBar2Request off (.read n)) s = .next { s with hostOut := s.hostOut ++ [.completerAbort] }) ∧
    (at_ + n ≤ s.hbmSize → s.worldOk s.hport.secure at_ = false → s.wfcount ≠ 0xFFFFFFFF → Leads (exec (.hostBar2Request off (.read n)) s) fun t =>
      t.wfcount = s.wfcount + 1 ∧ t.mem = s.mem ∧ ∃ pre, t.hostOut = pre ++ [.completerAbort]) ∧
    (s.streams = [] → s.hport.cxlMem = true → s.worldOk s.hport.secure tier = true →
      (tier + n ≤ tierEnd - s.rsvSize → (∀ i, i < n → s.homeBusy (tier + i) = false) → data (exec (.hostCxlMemRequest x (.read n)) s) tier n) ∧
      (tier + n ≤ tierEnd - s.rsvSize → (∃ i, i < n ∧ s.homeBusy (tier + i) = true) → exec (.hostCxlMemRequest x (.read n)) s = .next s) ∧
      (tier + bs.length ≤ tierEnd - s.rsvSize → (∀ i, i < bs.length → s.homeBusy (tier + i) = false) → s.lehr.busy = false → bs ≠ [] → writes (exec (.hostCxlMemRequest x (.write bs)) s) tier ∧
        Leads (exec (.hostCxlMemRequest x (.write bs)) s) fun t => ∃ ids, t.hport.cxlWait = s.hport.cxlWait ++ [ids] ∧ ids ≠ [] ∧
          (t.images.drop s.images.length).map (·.id) = ids)) ∧
    (s.hport.cxlMem = false → exec (.hostCxlMemRequest x (.read n)) s = .next { s with hostOut := s.hostOut ++ [.completerAbort] }) ∧
    (s.streams = [] → s.hport.cxlCache = true → hostBase ≤ pa → pa < hostEnd → data (exec (.hostCxlCacheSnoop pa none) s) (pa / 64 * 64) 64 ∧
      writes (exec (.hostCxlCacheSnoop pa (some bs)) s) pa) ∧
    (width ∈ [1, 2, 4, 8, 16] → 1 ≤ rate → rate ≤ 6 → (rate = 6 → flit = true) → exec (.hostLinkTraining width rate flit cxlIo cxlCache cxlMem ide) s =
      .next { s with hport := { s.hport with
        width := width, rate := rate, flit := flit, cxlIo := cxlIo, cxlCache := cxlCache, cxlMem := cxlMem, ide := ide } }) ∧
    (s.hport.cxlMem = true → s.hport.gpfBusy = false → Leads (exec .globalPersistentFlush s) fun t => t.hport.gpfBusy = true ∧ t.l2tierDirty = [] ∧
      ∃ new, t.images = s.images ++ new ∧ new.map (·.granule) = s.l2tierDirty ∧ new.map (·.id) = t.hport.gpfWait ∧
        ∀ i ∈ new, i.bytes = cellsRead s.mem (64 * i.granule) 64) ∧
    (s.hport.gpfBusy = true → s.hport.gpfWait = [] → exec .gpfComplete s = .next { s with hport := { s.hport with
      gpfBusy := false, gpfOk := true, gpfCount := if s.hport.gpfCount = 0xFFFFFFFF then 0xFFFFFFFF else s.hport.gpfCount + 1 } }) ∧
    (s.stepsIdle = true → exec (.stepload v) s = .next { s with normbox := { s.normbox with step := v } } ∧
      exec (.optload v) s = .next { s with normbox := { s.normbox with optstep := v } }) ∧
    (s.stepsIdle = false → exec (.stepload v) s = .next s ∧ exec (.optload v) s = .next s))

/-! ## What a core does besides issuing -/

/-- No message in flight goes to another package. -/
def LocalNet (s : State) : Prop := ∀ x ∈ s.net, ∀ pkg pa, x.2.place ≠ .remote pkg pa

/-- Some message in flight is `m`, as its core sent it. -/
def InFlight (t : State) (m : Msg) : Prop := ∃ id x, aget t.net id = some x ∧ x.kind = m.kind ∧ x.place = m.place ∧ x.ea = m.ea ∧ x.gid = m.gid ∧ x.gen = m.gen

/-- The producer of number `id` completes, and writes `v` to s[d] of its group, marked full (R86): the request is gone, OVFL is set when `ovfl` holds (R120), and no other register, no lane, message, scratchpad or byte of memory changes. -/
def Lands (s : State) (id : Nat) (q : Req) (g : Group) (d : SReg) (ovfl : Bool) (v : DWord) : Prop :=
  Leads (exec (.producerLand id) s) fun t => aget t.reqs id = none ∧ t.mem = s.mem ∧ t.teams = s.teams ∧ t.net = s.net ∧
    ∃ h, aget t.groups q.gid = some h ∧ (d ≠ 0 → h.sget d = v ∧ h.sfull d = true) ∧ (∀ r : SReg, r ≠ d → h.sget r = g.sget r ∧ h.sfull r = g.sfull r) ∧
      h.lanes = g.lanes ∧ h.spc = g.spc ∧ h.ovfl = if ovfl then g.ovfl.set s.cycle else g.ovfl

/-- R86, R83, R120, R144, R165, R319, R321: a producer lands once every part has come: an S load writes its bytes, extended, to s[d] and marks it full; a cross-lane value, with its OVFL, and a slow CSR write theirs; `rnd.get` writes RC and raises the core's floor to it; a lane load writes each served
lane's element and 0 in each demoted lane, in now mode with the predicate of staleness, and marks v[d] full; a producer whose parts have not all come does not land.

R170, R93, R155, R186, R92, R89, R202, R320: a lane block at the head of its L-queue starts in every lane that has not exited, at depth 0; one whose slot is false is discarded; a `yield` ends after 64 cycles; a `regang` that has waited its cycles goes on where its sub-gang may join the set of this cycle; a `gfree` ends when no queued command names
the slot; a barrier or round wait of more than HANGLIM cycles takes the hang fault with the address that it waits for. -/
def Obligations.ProducersBlocksAndWaits : Prop :=
  (∀ (s : State) (id : Nat) (q : Req) (g : Group), aget s.reqs id = some q → aget s.groups q.gid = some g → q.faulted = false → g.region = none → q.acquire = none →
    let come := ∀ p ∈ q.parts, p.value.isSome = true
    let writes := fun (d : SReg) (v : DWord) => Lands s id q g d false v
    ((∃ p ∈ q.parts, p.value = none) → exec (.producerLand id) s = .next s) ∧
    (∀ d size bs p, q.dst = .scalar d false size → q.parts = [p] → p.lane = 0 → p.byteOff = 0 → p.n = size → p.value = some bs → bs.length = size →
      writes d (BitVec.ofNat 64 (leNat bs))) ∧
    (∀ d bs p, q.dst = .scalar d true 4 → q.parts = [p] → p.lane = 0 → p.byteOff = 0 → p.n = 4 → p.value = some bs → bs.length = 4 →
      writes d ((BitVec.ofNat 32 (leNat bs)).signExtend 64)) ∧
    (∀ d v, q.dst = .value d v → q.parts = [] → Lands s id q g d q.ovfl v) ∧
    (∀ d, q.parts = [] → (q.dst = .slowCsr d 0x040 → writes d (s.normbox.sq.setWidth 64)) ∧ (q.dst = .slowCsr d 0x041 → writes d (s.normbox.mult.setWidth 64)) ∧
      (q.dst = .slowCsr d 0x042 → writes d (if s.normbox.skip then 1 else 0)) ∧ (q.dst = .slowCsr d 0x043 → writes d s.normbox.optstep) ∧
      (q.dst = .slowCsr d 0x044 → writes d s.normbox.step)) ∧
    (∀ d c i p bs, q.dst = .roundGet d c i → q.parts = [p] → p.byteOff = 0 → p.n = 64 → p.value = some bs → bs.length = 64 →
      let rc := BitVec.ofNat 32 (leNat (bs.drop 24 |>.take 4))
      writes d (rc.setWidth 64) ∧ Leads (exec (.producerLand id) s) fun t => (t.core q.core).floor c i =
        if (s.core q.core).floor c i < rc then rc else (s.core q.core).floor c i) ∧
    (∀ d size psel, q.dst = .lanes d size false psel → size ≠ 8 → come → (∀ l ∈ q.zeros, l ∉ q.served) → q.llog = [] → Leads (exec (.producerLand id) s) fun t =>
      aget t.reqs id = none ∧ t.mem = s.mem ∧ ∃ h, aget t.groups q.gid = some h ∧ h.vfull d.toNat = true ∧ h.sregs = g.sregs ∧
        (∀ l ∈ q.served, (h.lane l).get d.toNat = BitVec.ofNat 32 (leNat (partsBytes (q.parts.filter fun p => p.lane = l) size)) ∧
          (∀ k, k ≠ d.toNat → (h.lane l).get k = (g.lane l).get k) ∧
          (∀ p, psel = some p → p.toNat < 24 → (h.lane l).pget p.toNat = q.parts.any fun y => y.lane = l && y.stale)) ∧
        (∀ l ∈ q.zeros, (h.lane l).get d.toNat = 0) ∧ (∀ l, l ∉ q.served → l ∉ q.zeros → h.lane l = g.lane l))) ∧
  (∀ (s : State) (w : Who) (id : Nat) (c : Cmd), s.who w.gid = some w →
    let off := (c.args.getD 0 0).setWidth 32
    (w.g.block = none → s.mayIssue w.g = true → s.startable w.g 0 .lrun = some (id, c) → (∀ x ∈ s.reqs, x.2.gid ≠ w.gid) →
      (∃ l, l < w.g.width / 4 * 4 ∧ (w.g.lane l).life ≠ .exited) → Leads (exec (.laneBlockStart w.gid) s) fun t =>
      ∃ h, aget t.groups w.gid = some h ∧ h.block = some { cmd := id, start := off } ∧ h.sregs = w.g.sregs ∧ h.spc = w.g.spc ∧
        (∀ i, i < w.g.width / 4 → ∃ st, aget h.slices i = some st ∧ ∀ x ∈ st, x.pc = off ∧ x.depth = 0 ∧ ∀ j, j < 4 →
          (x.mask.getLsbD j = true ↔ (w.g.lane (4 * i + j)).life ≠ .exited)) ∧
        ∀ l, (h.lane l).life = (w.g.lane l).life ∧ (h.lane l).regs = (w.g.lane l).regs) ∧
    (w.g.block = none → s.mayIssue w.g = true → s.startable w.g 0 .lrun = none → s.discardable w.g 0 .lrun = some (id, c) → aget s.cmds id = some c → c.kind = .lrun →
      Leads (exec (.laneBlockStart w.gid) s) fun t => aget t.cmds id = none ∧
        ∃ h, aget t.groups w.gid = some h ∧ h.lq = w.g.lq.filter (· ≠ id) ∧ h.block = none ∧ h.lanes = w.g.lanes) ∧
    (∀ from_, w.g.yieldFrom = some from_ → (from_ + 64 ≤ s.cycle → exec (.yieldExpiry w.gid) s = .next (s.setGroup w.gid { w.g with yieldFrom := none })) ∧
      (s.cycle < from_ + 64 → exec (.yieldExpiry w.gid) s = .next s)) ∧
    (∀ pc depth n, (w.g.gangRec pc depth).regang = some n → n ≤ s.cycle → w.g.gang pc depth ≠ [] → s.mayIssue w.g = true → (∀ b, w.g.block = some b → b.stopped = false) →
      w.g.inRgn false = false →
      exec (.regangTimeout w.gid pc depth) s = if s.mayJoin w pc depth then (s.joinSet w.core w.gid (w.g.gangMask (w.g.gang pc depth))).laneNext (w.gangAt pc depth) w.g else .next s) ∧
    (∀ h, w.g.hold = some h → h.stage = 30 → s.slotNamed w.g h.val.toNat = false → s.mayIssue w.g = true → Leads (exec (.gfreeRelease w.gid) s) fun t =>
      ∃ u, aget t.groups w.gid = some u ∧ aget u.guards h.val.toNat = none ∧ (∀ k, k ≠ h.val.toNat → aget u.guards k = aget w.g.guards k) ∧
        u.spc = w.g.spc + 4 ∧ u.hold = none ∧ u.sregs = w.g.sregs) ∧
    (∀ x, s.colls = [] → w.g.park = none → w.g.done = false → s.hung w .barrier = some x → Leads (exec (.barrierHang w.gid) s) fun t => ∃ h p, aget t.groups w.gid = some h ∧ h.park = some p ∧
      p.cause.code = 0x0A ∧ p.system = true ∧ h.trap.pc = x.pc ∧ h.trap.lpc = x.lpc.setWidth 64 ∧ h.trap.addr = x.addr ∧ h.sregs = w.g.sregs ∧ h.lanes = w.g.lanes) ∧
    (∀ x, s.heldLoad w = none → w.g.park = none → w.g.done = false → s.hung w .round = some x → Leads (exec (.roundHang w.gid) s) fun t => ∃ h p, aget t.groups w.gid = some h ∧ h.park = some p ∧
      p.cause.code = 0x0B ∧ h.trap.pc = x.pc ∧ h.trap.addr = x.addr ∧ h.sregs = w.g.sregs ∧ h.lanes = w.g.lanes) ∧
    (s.hungColl w.gid (s.ctx w.ctx).hanglim.toNat = none → s.hung w .barrier = none → exec (.barrierHang w.gid) s = .next s))

/-- R378, R379, R304, R221, R222, R383: the oldest entry of a group's quarantine leaves no earlier than 512 cycles after its issue: its message is then in flight, its command released, its release begun, its whole-word store in L1; no byte of memory changes at the
leaving, and RS counts an S word of the region. A release whose counts match completes and sends what it holds back; an L1 line's dirty words leave as a masked write, and an eviction drops the line.

R380, R381, R386, R388, R401: after 384 strike-free cycles the region opens with the group's present state as its checkpoint; a strike rolls a group with a region back and parks one without, after discarding its quarantined effects; the replay, once nothing of the group is on its way, restores the checkpoint
with the released counts and the log kept, and every register that the region has not changed; a double-bit register error parks the group, and a scratchpad word with one reads as poisoned. -/
def Obligations.QuarantineReleasesAndRegions : Prop :=
  (∀ (s : State) (gid : Nat) (g : Group) (q : Quar) (rest : List Quar) (m : Msg) (k : CoreKey) (ln : Nat) (x : L1Line) (evict : Bool),
    let leave := exec (.quarantineLeave gid) s
    let left := fun (p : State → Prop) => Leads leave fun t => t.mem = s.mem ∧ t.teams = s.teams ∧ p t ∧
      ∃ h, aget t.groups gid = some h ∧ h.quar = rest ∧ h.sregs = g.sregs ∧ h.lanes = g.lanes ∧ h.spc = g.spc ∧
        (∀ r, g.region = some r → q.sinceOpen = true → q.lanes = [] → q.lOrdinals = [] → ∃ r', h.region = some r' ∧ r'.rs = max r.rs q.sOrdinal ∧ r'.rl = r.rl)
    (aget s.groups gid = some g → g.quar = q :: rest → s.cycle < q.at_ + 512 → leave = .next s) ∧
    (aget s.groups gid = some g → g.quar = q :: rest → q.at_ + 512 ≤ s.cycle → LocalNet s → (∀ pkg pa, m.place ≠ .remote pkg pa) →
      (q.effects = [.msg m] → left fun t => InFlight t m) ∧
      (∀ n id c, q.effects = [.cmd n id] → aget s.cmds id = some c → left fun t => aget t.cmds id = some { c with released := true }) ∧
      (∀ scope tm o, q.effects = [.releaseThen (some scope) m tm o] → left fun t => ∃ id r, aget t.rels id = some r ∧ r.after = [{ m with rho := r.rho + 1 }] ∧ r.scope = scope ∧ r.gid = m.gid) ∧
      (∀ pa b0 b1 b2 b3, q.effects = [.l1Store m] → m.place = .home pa → pa % 4 = 0 → m.kind = .store [some b0, some b1, some b2, some b3] 0 false →
        m.gen = s.genStamp m.core m.ctx → (s.core m.core).hasL1 = true → (∀ y ∈ (s.core m.core).l1, y.pa ≠ pa / 128 * 128) →
        s.groupGone m.gid = false → m.gid = gid → s.olderMsg gid m.issue m.lane m.place 4 = false → s.olderPart gid m.issue m.place 4 = false →
        left fun t => ((s.core m.core).l1.length < (s.core m.core).l1Lines → t.net = s.net) ∧ ∃ y, (t.core m.core).l1Find m.ctx (pa / 128 * 128) = some y ∧
          aget y.words (pa % 128 / 4) = some { data := BitVec.ofNat 32 (leNat [b0, b1, b2, b3]), dirty := true })) ∧
    (∀ id r, aget s.rels id = some r → s.releaseReady r = true → LocalNet s →
      (r.after = [] → Leads (exec (.releaseComplete id) s) fun t => aget t.rels id = none ∧ t.mem = s.mem ∧ t.groups = s.groups ∧ t.net = s.net) ∧
      (r.after = [m] → (∀ pkg pa, m.place ≠ .remote pkg pa) → Leads (exec (.releaseComplete id) s) fun t => aget t.rels id = none ∧ InFlight t m ∧ t.mem = s.mem)) ∧
    (∀ id r, aget s.rels id = some r → s.releaseReady r = false → exec (.releaseComplete id) s = .next s) ∧
    ((s.core k).l1.filter (fun y => y.pa = ln) = [x] → x.isDirty = true → Leads (exec (.l1WriteBack k ln evict) s) fun t =>
      t.mem = s.mem ∧ t.groups = s.groups ∧
      (∃ w, aget t.net s.nextId = some w ∧ w.place = .home ln ∧ w.core = k ∧ w.ctx = x.ctx ∧
        w.kind = .store x.dirtyBytes (if tierBase ≤ ln ∧ ln < tierEnd then 1 else 0) true) ∧
      (∀ y ∈ (t.core k).l1, y.pa = ln → evict = false ∧ y.isDirty = false))) ∧
  (∀ (s : State) (w : Who) (h : SHold) (r : Region), s.who w.gid = some w →
    (w.g.lrgn = none → w.g.hold = some h → h.since + 384 ≤ s.cycle → s.mayIssue w.g = true → h.stage = 11 → Leads (exec (.rgnCheckpoint w.gid) s) fun t =>
      ∃ g x, aget t.groups w.gid = some g ∧ g.spc = w.g.spc + 4 ∧ g.region = some x ∧ x.ck.spc = w.g.spc + 4 ∧ x.ck.slices = w.g.slices ∧ x.ck.sfe = w.g.sfe ∧
        x.ck.vfe = w.g.vfe ∧ x.ck.guards = w.g.guards ∧ g.hold = none ∧ x.ck.donemask = w.g.trap.donemask ∧ x.rs = 0 ∧ x.log = [] ∧ x.sOrd = 0 ∧ g.sregs = w.g.sregs) ∧
    ((w.g.lrgn = some h ∨ (w.g.lrgn = none ∧ w.g.hold = some h)) → s.cycle < h.since + 384 → exec (.rgnCheckpoint w.gid) s = .next s) ∧
    (w.g.lrgn = some h → h.since + 384 ≤ s.cycle → s.mayIssue w.g = true → h.stage = 1 → Leads (exec (.rgnCheckpoint w.gid) s) fun t =>
      ∃ g x, aget t.groups w.gid = some g ∧ g.spc = w.g.spc ∧ g.lrgn = none ∧ g.hold = w.g.hold ∧ g.region = some x ∧ x.ck.spc = w.g.spc ∧ x.ck.slices = g.slices ∧ g.sregs = w.g.sregs) ∧
    (s.zone w.core = [w.gid] → w.g.region = none → w.g.quar = [] → w.g.park = none → w.g.done = false → s.reqs = [] → s.batches = [] →
      Leads (exec (.strike w.core) s) fun t => ∃ g p, aget t.groups w.gid = some g ∧ g.park = some p ∧ p.cause.code = 0x0D ∧ g.sregs = w.g.sregs) ∧
    (s.zone w.core = [w.gid] → w.g.region = some r → w.g.hold = none → w.g.quar = [] → s.batches = [] → (∀ x ∈ s.net, x.2.gid = w.gid → x.2.rejected = none) →
      (∀ x ∈ s.copies, x.2.gid = w.gid → x.2.reject = none) → Leads (exec (.strike w.core) s) fun t =>
      ∃ g, aget t.groups w.gid = some g ∧ g.striking = true ∧ g.region = some r ∧ g.park = none ∧ g.inHandler = false ∧ g.lanes = w.g.lanes ∧ t.mem = s.mem ∧ t.teams = s.teams) ∧
    (w.g.striking = true → w.g.region = some r → w.g.quar = [] → w.g.hold = none → (∀ x ∈ s.net, x.2.gid ≠ w.gid) → (∀ x ∈ s.rels, x.2.gid ≠ w.gid) → (∀ x ∈ s.copies, x.2.gid ≠ w.gid) →
      (∀ x ∈ s.reqs, x.2.gid ≠ w.gid) → s.producersLanded w.gid w.g = true → w.g.rejected = [] → Leads (exec (.strikeReplay w.gid) s) fun t => ∃ g, aget t.groups w.gid = some g ∧ g.spc = r.ck.spc ∧ g.slices = r.ck.slices ∧
        g.sfe = r.ck.sfe ∧ g.vfe = r.ck.vfe ∧ g.guards = r.ck.guards ∧ g.striking = false ∧ g.trap.donemask = r.ck.donemask ∧
        g.region = some { r with sOrd := 0, lOrd := [], returning := 0, flr := 0 } ∧
        ∀ k v, aget r.ck.regs.sregs k = some v → aget w.g.sregs k = some v → aget g.sregs k = some v) ∧
    (w.g.done = false → w.g.park = none → Leads (exec (.registerEccError (.register w.gid)) s) fun t => ∃ g p, aget t.groups w.gid = some g ∧ g.park = some p ∧
      p.cause.code = 0x09 ∧ p.cause.sub = 6 ∧ g.sregs = w.g.sregs) ∧
    (∀ word, Leads (exec (.registerEccError (.scratch w.g.team word)) s) fun t => ∃ x, aget t.teams w.g.team = some x ∧ word ∈ x.poisoned ∧ x.sp = w.team.sp ∧
      t.groups = s.groups ∧ t.mem = s.mem))

/-! ## Accesses where they arrive -/

/-- Message `id` stands at its place as `m`, nothing stands before it, it is accepted, it is the only one of its instruction in flight, and DONEMASK does not name that instruction. -/
structure Arrives (s : State) (id : Nat) (m : Msg) : Prop where
  message : aget s.net id = some m
  fresh : m.rejected = none
  first : s.msgBlocked id m = false
  fate : s.msgFate m = .serve
  group : m.gid ≠ 0
  alone : ∀ x ∈ s.net, x.1 ≠ id → ¬ (x.2.gid = m.gid ∧ x.2.issue = m.issue)
  unmasked : ∀ g, aget s.groups m.gid = some g → g.dmIssue ≠ some m.issue

/-- `m'` is the canonical memory `m` with the masked bytes `bs` written at `pa`. -/
def MaskedAt (m m' : List Host.Cell) (pa : Nat) (bs : List (Option Byte)) : Prop :=
  Memory.wf m = true → ∀ a, cellRead m' a = if pa ≤ a ∧ a < pa + bs.length then (bs.getD (a - pa) none).getD (cellRead m a) else cellRead m a

/-- R228, R229, R242, R310, R314, R315, R230, R348: a store that arrives at its home writes exactly its bytes, an atomic the new value of the table of R242 with the old one returned, `rnd.reg` the record's REG, ARR and RET, the arrival of `rnd.adv` its slot's bit of ARR; a load part is served the bytes at the home; an evicted line's dirty granules of the tier
leave as images. Every other byte of memory, and every register but the answered one, stays.

R224, R246: a scratchpad store that arrives at the owning core writes exactly its bytes into that team's scratchpad, an atomic the new value with the old one returned, and a cluster load's part is answered with the bytes there; no other team and no memory changes. -/
def Obligations.AccessesWhereTheyArrive : Prop :=
  (∀ (s : State) (id pa : Nat) (m : Msg), s.streams = [] → s.lehr.busy = false → s.homeBusy pa = false →
    let home := Arrives s id m ∧ m.place = .home pa
    let old := cellsRead s.mem pa
    (∀ bs p, home → m.kind = .store bs p false → Leads (exec (.activeMessage id) s) fun t =>
      MaskedAt s.mem t.mem pa bs ∧ aget t.net id = none ∧ t.groups = s.groups ∧ t.teams = s.teams) ∧
    (∀ bs p, home → m.kind = .store bs p true → Leads (exec (.ncuOperation (.message id)) s) fun t => MaskedAt s.mem t.mem pa bs ∧ aget t.net id = none ∧ t.groups = s.groups) ∧
    (∀ op ty c d cas req, home → m.kind = .atomic op ty c d cas req → Leads (exec (.ncuOperation (.message id)) s) fun t =>
      let n := if ty = .b64 then 8 else 4
      WrittenAt s.mem t.mem pa (leBytes n (atomNew op ty cas (BitVec.ofNat 64 (leNat (old n))) c d).toNat) ∧ aget t.net id = none ∧ t.groups = s.groups ∧
        ∀ r ix q p, req = some (r, ix) → aget s.reqs r = some q → q.parts[ix]? = some p →
          ∃ q', aget t.reqs r = some q' ∧ q'.parts[ix]? = some { p with value := some (old n) }) ∧
    (∀ i slot d r g h, home → m.kind = .roundReg i slot d none → s.regionAt pa = .valid r → aget s.groups m.gid = some g → g.hold = some h → h.stage = 40 → g.region = none →
      Leads (exec (.ncuOperation (.message id)) s) fun t => ∃ u, aget t.groups m.gid = some u ∧ u.spc = g.spc + 4 ∧ u.hold = none ∧
        let bit := BitVec.ofNat 64 (2 ^ (slot.toNat - 1))
        (slot = 0 → ∀ k, k < r.p → r.reg.getLsbD k = false → (∀ j, j < k → r.reg.getLsbD j = true) → r.p ≤ 64 →
          let b := BitVec.ofNat 64 (2 ^ k)
          (d ≠ 0 → u.sget d = BitVec.ofNat 64 (k * 2 ^ 32) ||| r.rc.setWidth 64) ∧
          WrittenAt s.mem t.mem (pa + 32) (leBytes 8 (r.reg ||| b).toNat ++ leBytes 8 (r.arr &&& ~~~b).toNat ++ leBytes 8 (r.ret &&& ~~~b).toNat)) ∧
        (slot = 0 → (∀ k, k < r.p → r.reg.getLsbD k = true) → d ≠ 0 → u.sget d = 0x8000000000000000) ∧
        (slot ≠ 0 → slot.toNat - 1 < r.p → r.reg.getLsbD (slot.toNat - 1) = true → (d ≠ 0 → u.sget d = r.rc.setWidth 64) ∧
          WrittenAt s.mem t.mem (pa + 32) (leBytes 8 (r.reg &&& ~~~bit).toNat ++ leBytes 8 (r.arr &&& ~~~bit).toNat ++ leBytes 8 (r.ret ||| bit).toNat)) ∧
        (slot ≠ 0 → (r.p ≤ slot.toNat - 1 ∨ r.reg.getLsbD (slot.toNat - 1) = false) → d ≠ 0 → u.sget d = 0x4000000000000000)) ∧
    (∀ i slot r g h, home → m.kind = .roundArrive i slot → s.regionAt pa = .valid r → aget s.groups m.gid = some g → g.hold = some h → h.stage = 53 → Leads (exec (.ncuOperation (.message id)) s) fun t =>
      WrittenAt s.mem t.mem (pa + 32) (leBytes 8 r.reg.toNat ++ leBytes 8 (r.arr ||| BitVec.ofNat 64 (2 ^ slot)).toNat ++ leBytes 8 r.ret.toNat) ∧
        ∃ u x, aget t.groups m.gid = some u ∧ u.hold = some x ∧ x.stage = 54 ∧ x.val = BitVec.ofNat 64 (r.rc.toNat + 1)) ∧
    (∀ r ix q p, aget s.reqs r = some q → q.parts[ix]? = some p → p.place = .home pa → p.value = none → p.region = none → p.fwd = [] → p.attr.nc = true →
      (∀ x ∈ q.parts, x.reject = none) → q.atomic = false → q.faulted = false → (∀ d c i, q.dst ≠ .roundGet d c i) → s.partBlocked r q p = false → s.partFate q p = .serve →
      Leads (exec (.ncuOperation (.loadPart r ix)) s) fun t => t.mem = s.mem ∧ t.groups = s.groups ∧
        ∃ q', aget t.reqs r = some q' ∧ q'.parts[ix]? = some { p with value := some (old p.n), stale := false }) ∧
    (∀ line, line ∈ s.l2dirty → Leads (exec (.ncuOperation (.evict line)) s) fun t => t.mem = s.mem ∧ line ∉ t.l2dirty ∧
      ∃ new, t.images = s.images ++ new ∧ new.map (·.granule) = s.l2tierDirty.filter (fun g => g / 2 = line) ∧ ∀ x ∈ new, x.bytes = cellsRead s.mem (64 * x.granule) 64)) ∧
  (∀ (s : State) (id tm o : Nat) (m : Msg) (x : Team), aget s.teams tm = some x →
    let here := Arrives s id m ∧ m.place = .scratch tm o
    let spWritten := fun (t : State) (bs : List Byte) => ∃ y, aget t.teams tm = some y ∧ (∀ a, y.spGet a = if o ≤ a ∧ a < o + bs.length then bs.getD (a - o) 0 else x.spGet a) ∧
      (∀ j, j ≠ tm → aget t.teams j = aget s.teams j) ∧ t.mem = s.mem ∧ t.groups = s.groups ∧ aget t.net id = none
    (∀ bs, here → m.kind = .scratchStore bs → Leads (exec (.clusterScratchpadArrival id 0) s) fun t => spWritten t bs) ∧
    (∀ op ty c d req, here → m.kind = .scratchAtomic op ty c d req → Leads (exec (.clusterScratchpadArrival id 0) s) fun t =>
      let n := if ty = .b64 then 8 else 4
      spWritten t (leBytes n (atomNew op ty (op = 8) (BitVec.ofNat 64 (leNat (x.spRead o n))) c d).toNat) ∧
        ∀ r ix q p, req = some (r, ix) → aget s.reqs r = some q → q.parts[ix]? = some p →
          ∃ q', aget t.reqs r = some q' ∧ q'.parts[ix]? = some { p with value := some (x.spRead o n) }) ∧
    (∀ ix q p, aget s.net id = none → aget s.reqs id = some q → q.parts[ix]? = some p → p.place = .scratch tm o → p.value = none → (∀ y ∈ q.parts, y.reject = none) → q.atomic = false →
      q.faulted = false → s.partBlocked id q p = false → s.partFate q p = .serve → Leads (exec (.clusterScratchpadArrival id ix) s) fun t => t.teams = s.teams ∧ t.mem = s.mem ∧
        ∃ q', aget t.reqs id = some q' ∧ q'.parts[ix]? = some { p with value := some (x.spRead o p.n) }))

/-- R144, R237, R375, R219: a store that its home rejects for translation is the group's late fault, LATE set, with the access's address and word, and writes nothing; one rejected for its generation stops both streams of the group, and when every access of the group has been answered, and the homes have
adopted the core's generation, the rejected ones leave again with it. DONEMASK clears when the last message of the instruction that it names is performed.

R226, R218: a weight-store bank's slot begins 13,600 cycles after the last one's and a new period after bank 7; 3,400 cycles later the bank serves again; a walk that ends in a leaf puts it into the core's and the die's TLB, and a failed walk leaves no record. -/
def Obligations.LateFaultsGenerationsAndWeightStore : Prop :=
  (∀ (s : State) (w : Who) (id : Nat) (m m1 : Msg) (bs : List (Option Byte)) (p : Nat), s.who w.gid = some w → m.gid = w.gid → m.gid ≠ 0 → m.kind = .store bs p false → m.isLane = false →
    (∀ code, aget s.net id = some m → m.rejected = none → s.msgBlocked id m = false → s.msgFate m = .bad code → code ≠ 0x07 → isSystemCause code = false → Delivers w → w.g.inWord = false → s.rels = [] → s.pendedAt m.gid m.issue = false →
      (∀ x ∈ s.net, x.1 ≠ id → ¬ (x.2.gid = m.gid ∧ x.2.issue = m.issue)) → Leads (exec (.lateFault id 0) s) fun t => t.mem = s.mem ∧
        ∃ g, aget t.groups w.gid = some g ∧ g.inHandler = true ∧ g.trap.cause = code.setWidth 64 ||| 0x40000 ∧ g.trap.pc = m.pc ∧ g.trap.addr = m.ea ∧ g.trap.rp = w.g.spc ∧
          id ∈ g.rejected ∧ g.sregs = w.g.sregs) ∧
    (aget s.net id = some m → (∀ c, s.msgFate m ≠ .bad c) → exec (.lateFault id 0) s = .next s) ∧
    (aget s.net id = some m → m.rejected = none → s.msgHeld m = false → s.msgFate m = .stale → Leads (exec (.staleGenerationReject id 0) s) fun t => t.mem = s.mem ∧
      aget t.net id = some { m with rejected := some 0x07, sentOut := false } ∧
      ∃ g, aget t.groups w.gid = some g ∧ g.staleWait = true ∧ g.rejected = w.g.rejected ++ [id] ∧ t.mayIssue g = false) ∧
    (w.g.staleWait = true → s.staleSettled w.gid = true → s.genStamp w.core w.ctx = (s.ctx w.ctx).gen → w.g.rejected = [id] →
      (s.net.filter fun x => x.2.gid = w.gid && x.2.rejected.isSome) = [(id, m)] → aget s.net id = some m → m.rejected = some 0x07 → (∀ pkg pa, m.place ≠ .remote pkg pa) →
      s.retranslate m = .ok m1 → (∀ pkg pa, m1.place ≠ .remote pkg pa) → s.reqs = [] → s.copies = [] → LocalNet s → Leads (exec (.staleGenerationReissue w.gid) s) fun t =>
        t.mem = s.mem ∧ aget t.net id = some m1 ∧ ∃ g, aget t.groups w.gid = some g ∧ g.staleWait = false ∧ g.rejected = [] ∧ g.sregs = w.g.sregs) ∧
    (∀ pa, aget s.net id = some m → m.rejected = none → m.place = .home pa → s.homeBusy pa = false → s.msgBlocked id m = false → s.msgFate m = .serve → s.rels = [] → s.copies = [] → w.g.dmIssue = some m.issue →
      (∀ x ∈ s.net, x.1 ≠ id → ¬ (x.2.gid = m.gid ∧ x.2.issue = m.issue)) → Leads (exec (.activeMessage id) s) fun t => aget t.net id = none ∧
        ∃ g, aget t.groups w.gid = some g ∧ g.trap = { w.g.trap with donemask := 0 } ∧ g.dmIssue = none ∧ g.sregs = w.g.sregs ∧ g.lanes = w.g.lanes)) ∧
  (∀ (s : State) (die : Nat) (k : CoreKey) (c : BitVec 6) (ea : DWord),
    let d := s.die die
    (d.wsBusy = false → d.wsOrigin + 13600 ≤ s.cycle → Leads (exec (.weightStoreRefresh die) s) fun t =>
      (t.die die).wsBusy = true ∧ (t.die die).wsOrigin = d.wsOrigin + 13600 ∧ (t.die die).wsBank = (d.wsBank + 1) % 8 ∧
        (d.wsBank ≠ 7 → (t.die die).wsEpoch = d.wsEpoch) ∧ (d.wsBank = 7 → (t.die die).wsEpoch = (d.wsEpoch + 1) % 2 ^ 32) ∧ { t with dies := s.dies } = s) ∧
    (s.cycle < d.wsOrigin + 13600 → exec (.weightStoreRefresh die) s = .next s) ∧
    (d.wsBusy = true → d.wsOrigin + 3400 ≤ s.cycle → s.reqs = [] → Leads (exec (.weightStoreBankReturn die) s) fun t =>
      (t.die die).wsBusy = false ∧ (t.die die).wsBank = d.wsBank ∧ { t with dies := s.dies } = s) ∧
    (s.cycle < d.wsOrigin + 3400 → exec (.weightStoreBankReturn die) s = .next s) ∧
    (∀ l, ea.toNat < spWindow → s.genStamp k c.toNat = (s.ctx c.toNat).gen → s.walk c.toNat ea = .leaf l → Leads (exec (.pageWalk k c ea) s) fun t =>
      let e : TlbEntry := { ctx := c.toNat, gen := s.genStamp k c.toNat, base := ea.toNat / l.size * l.size, size := l.size, leaf := l.raw }
      (t.core k).tlb.head? = some e ∧ (t.die k.die).tlb.head? = some e ∧ t.mem = s.mem ∧ t.groups = s.groups ∧
        (l.pkg = s.self → { t with cores := s.cores, dies := s.dies, ecc := s.ecc } = s)) ∧
    (s.genStamp k c.toNat ≠ (s.ctx c.toNat).gen → exec (.pageWalk k c ea) s = .next s) ∧
    (∀ code, s.walk c.toNat ea = .bad code → Leads (exec (.pageWalk k c ea) s) fun t => { t with ecc := s.ecc } = s))

/-! ## Barrier objects -/

/-- The fields of the barrier object at offset `o` of a team's scratchpad (R283): PHASE, EXPARR, ARRCNT, FLAGS, EXPBYT, BYTCNT. -/
def BarrierIs (x : Team) (o : Nat) (phase expArr arr flags expByt byt : Nat) : Prop :=
  leNat (x.spRead o 4) = phase ∧ leNat (x.spRead (o + 4) 4) = expArr ∧ leNat (x.spRead (o + 8) 4) = arr ∧ leNat (x.spRead (o + 12) 4) = flags ∧
    leNat (x.spRead (o + 16) 8) = expByt ∧ leNat (x.spRead (o + 24) 8) = byt

/-- R283 to R285, R257: `binit` sets the object; arming, arrivals and credits add to EXPBYT, ARRCNT and BYTCNT, saturating, and then, when ARRCNT has reached the expected count (LIVE of the team under FLAGS.LIVE) and BYTCNT has reached EXPBYT, PHASE advances by one and the counts start again; arrivals in the cycle in which
an `exit` has completed the phase count for that phase, whose surplus is discarded (R166); no
byte outside the object and no memory changes. -/
def Obligations.BarrierObjects : Prop :=
  ∀ (s : State) (id tm o : Nat) (m : Msg) (x : Team) (phase expArr arr flags expByt byt : Nat), Arrives s id m → m.place = .scratch tm o → aget s.teams tm = some x →
    BarrierIs x o phase expArr arr flags expByt byt →
    let becomes := fun (o' : Out) (arr' expByt' byt' : Nat) => Leads o' fun t => ∃ y, aget t.teams tm = some y ∧
      (let full := (if flags / 8 % 2 = 1 then x.live else expArr) ≤ arr' ∧ expByt' ≤ byt'
       (full → BarrierIs y o ((phase + 1) % 2 ^ 32) expArr 0 flags 0 0) ∧ (¬ full → BarrierIs y o phase expArr arr' flags expByt' byt')) ∧
      (∀ a, a < o ∨ o + 32 ≤ a → y.spGet a = x.spGet a) ∧ t.mem = s.mem ∧ t.groups = s.groups ∧ aget t.net id = none ∧ ∀ j, j ≠ tm → aget t.teams j = aget s.teams j
    (∀ v, m.kind = .barInit v → Leads (exec (.barrierInitialise id) s) fun t => ∃ y, aget t.teams tm = some y ∧
      BarrierIs y o 0 (v.toNat % 2 ^ 32) 0 (v.toNat / 2 ^ 32 % 16) 0 0 ∧ (v.getLsbD 35 = true → o ∈ y.liveBars) ∧ (v.getLsbD 35 = false → o ∉ y.liveBars) ∧
      (∀ a, a < o ∨ o + 32 ≤ a → y.spGet a = x.spGet a) ∧ t.mem = s.mem) ∧
    (∀ n, m.kind = .barArm n → becomes (exec (.barrierArm id) s) arr ((expByt + n.toNat) % 2 ^ 64) byt) ∧
    (∀ n, m.kind = .barLanes n → x.exitDone s.cycle o = false → becomes (exec (.laneArrival id) s) (min (arr + n) 0xFFFFFFFF) expByt byt) ∧
    (∀ batch, m.kind = .barGroup none batch → x.exitDone s.cycle o = false → becomes (exec (.groupArrival id) s) (min (arr + 1) 0xFFFFFFFF) expByt byt) ∧
    (∀ n i, m.kind = .barCredit n i → becomes (exec (.barrierCredit id) s) arr expByt (min (byt + n) 0xFFFFFFFFFFFFFFFF)) ∧
    (∀ r batch q p, m.kind = .barGroup (some r) batch → aget s.reqs r = some q → q.parts[0]? = some p → Leads (exec (.groupArrival id) s) fun t =>
      ∃ q', aget t.reqs r = some q' ∧
        q'.parts[0]? = some { p with value := some (leBytes 4 (if x.exitDone s.cycle o then (phase + (2 ^ 32 - 1)) % 2 ^ 32 else phase)) }) ∧
    ((∃ n, m.kind = .barLanes n) → x.exitDone s.cycle o = true → Leads (exec (.laneArrival id) s) fun t => (∀ j, aget t.teams j = aget s.teams j) ∧ t.mem = s.mem ∧ aget t.net id = none) ∧
    ((∃ r batch, m.kind = .barGroup r batch) → x.exitDone s.cycle o = true → Leads (exec (.groupArrival id) s) fun t => (∀ j, aget t.teams j = aget s.teams j) ∧ t.mem = s.mem ∧ aget t.net id = none)

/-! ## Copies -/

/-- R252 to R257, R351, R93: a copy command at the head of the C-queue starts with the registers it was issued with and the present generation, or is discarded by its guard with its declared bytes credited and status DISC; an element is read, then written: its destination takes exactly the bytes read, and they are credited; an element of 16 bytes is
read, and written, as two halves of 8, in either order; a copy
whose elements are all finished and whose credits have been applied writes its status and is gone.

R352, R353, R93: a persist barrier starts at the head of the C-queue; it completes, with status 0, when earlier blocks and commands are over and the group's persist-scope writes have been accepted, and not before; a discarded one gives status 1. -/
def Obligations.CopiesAndPersistBarriers : Prop :=
  (∀ (s : State) (w : Who) (id : Nat) (c : Cmd) (x : Copy) (j i e : Nat), s.who w.gid = some w →
    let starts := fun (o : Out) (kind : CmdKind) => c.kind = kind → aget s.cmds id = some c →
      (s.nextCmd w.g 2 kind = some (id, c, false) → Leads o fun t => aget t.cmds id = some { c with started := true } ∧ t.mem = s.mem ∧ t.groups = s.groups ∧
        ∃ y, aget t.copies id = some y ∧ y.gid = w.gid ∧ y.kind = kind ∧ y.args = c.args ∧ y.dst = c.dst ∧ y.gen = s.genStamp w.core w.ctx ∧ y.elems = []) ∧
      (s.nextCmd w.g 2 kind = some (id, c, true) → w.g.region = none → Leads o fun t => aget t.cmds id = none ∧ t.mem = s.mem ∧
        (noBar (s.copyOf w id c).barw = false → copyBytes c.args ≠ 0 → ∃ n y, aget t.net n = some y ∧ y.kind = .barCredit (copyBytes c.args) (some id)) ∧
        ∃ g, aget t.groups w.gid = some g ∧ (c.dst ≠ 0 → g.sget c.dst = 4 ∧ g.sfull c.dst = true) ∧ id ∉ g.cq)
    let key := (j * x.n1 + i) * x.n0 + e
    let runs := aget s.copies id = some x ∧ x.perLane = false ∧ x.busy = false ∧ j < x.n2 ∧ i < x.n1 ∧ e < x.n0 ∧ x.kind = .cpt
    starts (exec (.cptStart w.gid) s) .cpt ∧ starts (exec (.cptIdxStart w.gid) s) .cptIdx ∧ starts (exec (.cptWsStart w.gid) s) .cptWs ∧ starts (exec (.cptPStart w.gid) s) .cptP ∧
    let gets := fun (from_ : Option ElemState) (off n : Nat) (to_ : List Byte → ElemState) => ∀ bs s1, runs → aget x.elems key = from_ →
      (x.srcAddr j i e).toNat % x.esz = 0 → s.engRead (s.copyEng id x) .read (x.srcAddr j i e + BitVec.ofNat 64 off) n = .ok bs s1 →
      Leads (exec (.copyElementLand id j i e true) s) fun t => t.mem = s1.mem ∧ ∃ y, aget t.copies id = some y ∧ aget y.elems key = some (to_ bs) ∧
        ∀ k, k ≠ key → aget y.elems k = aget x.elems k
    let puts := fun (from_ to_ : ElemState) (off : Nat) (part : List Byte) (lands : Bool) => ∀ pa a, runs → aget x.elems key = some from_ → (x.dstAddr j i e).toNat % x.esz = 0 →
      let ea := x.dstAddr j i e + BitVec.ofNat 64 off
      (s.hits (s.copyEng id x) x ea part.length (s.srcPlaces (s.copyEng id x) x)).any (fun b => b) = false →
      s.resolveAs x.gen x.core x.ctx x.team (s.scratchOf x.team) .write ea part.length = .ok (.home pa) a →
      s.behind x.gid x.core x.gen id s.nextId (.home pa) part.length = false → s.olderPart x.gid id (.home pa) part.length = false → s.homeBusy pa = false →
      s.fate x.ctx x.gen pa part.length false = .serve → s.lehr.busy = false → Leads (exec (.copyElementLand id j i e false) s) fun t =>
        WrittenAt s.mem t.mem pa part ∧ (∃ y, aget t.copies id = some y ∧ aget y.elems key = some to_ ∧ ∀ k, k ≠ key → aget y.elems k = aget x.elems k) ∧
        (lands = true → noBar x.barw = false → ∃ n m, aget t.net n = some m ∧ m.kind = .barCredit x.esz (some id)) ∧ t.groups = s.groups ∧ t.teams = s.teams
    (x.esz ≤ 8 → gets none 0 x.esz fun bs => .fetched (some bs)) ∧
    (x.esz = 16 → let u := s.upperFirst x
      gets none (if u then 8 else 0) 8 (fun bs => .half u (some bs)) ∧
      ∀ v b, gets (some (.half v (some b))) (if v then 0 else 8) 8 fun bs => .fetched (some (if v then bs ++ b else b ++ bs))) ∧
    (∀ bs, bs.length = x.esz → x.esz ≤ 8 → puts (.fetched (some bs)) .landed 0 bs true) ∧
    (∀ bs, bs.length = 16 → x.esz = 16 → let u := s.upperFirst x
      puts (.fetched (some bs)) (.halfWritten u bs []) (if u then 8 else 0) (if u then bs.drop 8 else bs.take 8) false ∧
      ∀ v, puts (.halfWritten v bs []) .landed (if v then 0 else 8) (if v then bs.take 8 else bs.drop 8) true) ∧
    (∀ g, aget s.copies id = some x → x.perLane = false → s.copyDone id x = true → x.busy = false → x.faults = [] → x.gid = w.gid → aget s.groups w.gid = some g → g.region = none →
      Leads (exec (.copyComplete id) s) fun t => aget t.copies id = none ∧ t.mem = s.mem ∧ ∃ u, aget t.groups w.gid = some u ∧ u.inHandler = g.inHandler ∧
        (x.dst ≠ 0 → u.sfull x.dst = true ∧ u.sget x.dst = BitVec.ofNat 64 (x.oor.toNat + 2 * x.inv.toNat + 256 * x.psn.toNat + min x.frows.length 0xFFFFFFFF * 2 ^ 32))) ∧
    (aget s.copies id = some x → s.copyDone id x = false → exec (.copyComplete id) s = .next s)) ∧
  (∀ (s : State) (gid id : Nat) (g : Group) (c : Cmd), aget s.groups gid = some g → aget s.cmds id = some c → c.kind = .pbar → g.region = none → LocalNet s →
    let done := fun (o : Out) (v : DWord) => Leads o fun t => aget t.cmds id = none ∧ t.mem = s.mem ∧
      ∃ h, aget t.groups gid = some h ∧ h.cq = g.cq.filter (· ≠ id) ∧ (c.dst ≠ 0 → h.sget c.dst = v ∧ h.sfull c.dst = true) ∧ (∀ r : SReg, r ≠ c.dst → h.sget r = g.sget r)
    (s.nextCmd g 2 .pbar = some (id, c, false) → Leads (exec (.pbarStart gid) s) fun t => aget t.cmds id = some { c with started := true } ∧ { t with cmds := s.cmds } = s) ∧
    (s.nextCmd g 2 .pbar = some (id, c, true) → done (exec (.pbarStart gid) s) 1) ∧
    (g.cq.head? = some id → c.started = true → (∀ i ∈ g.lq, id ≤ i) → s.persistSettled gid g = true → done (exec (.pbarComplete gid) s) 0) ∧
    (g.cq.head? = some id → s.persistSettled gid g = false → exec (.pbarComplete gid) s = .next s))

/-! ## The matrix engine -/

/-- R93, R260 to R262, R265, R266, R277, R278: a latch whose arrays are free or the group's claims them, a pair both cores' arrays, and asks for its elements; each is read at a time of its own; when all have come the leader's array holds the tile read, or, when one was refused, the batch has the first such fault and the arrays no
tile; a latch whose array another group owns waits; `mrel` frees every array of the group and no other; a discarded command changes no array; `ofence` starts at the head of both queues and ends when the earlier lane blocks are over and their scratchpad writes visible; a discarded one leaves each queue at its head. -/
def Obligations.MatrixArraysAndFences : Prop :=
  ∀ (s s1 : State) (w : Who) (id rid : Nat) (c : Cmd) (k : CoreKey) (q : Req) (ps : List Part), s.who w.gid = some w → aget s.cmds id = some c → w.g.done = false →
    let took := fun (t : State) => aget t.cmds id = none ∧ ∃ g, aget t.groups w.gid = some g ∧ id ∉ g.mq ∧ g.sregs = w.g.sregs ∧ g.lanes = w.g.lanes
    let asks := fun (t : State) (cols : Nat) => t.mem = s.mem ∧ ∃ r y, aget t.cmds id = some { c with started := true, req := some r } ∧ aget t.reqs r = some y ∧
      y.parts = tileParts (s.genStamp w.core w.ctx) (tileReads c.args cols) ∧ y.atomic = true ∧ y.dst = .record
    let read := s.readTile (s.latchEng rid q) q.parts = (s1, ps) ∧ aget s.reqs rid = some q ∧ c.req = some rid ∧ (∀ p ∈ ps, p.settled = true) ∧ s1.who w.gid = some w ∧ aget s1.cmds id = some c ∧ s1.dies = s.dies
    let tile := fun (cols : Nat) => some (tileOfReads ((c.args.getD 1 0).toNat / 2 ^ 32 % 8) cols (ps.map fun p => p.value.getD []))
    (c.kind = .mld → s.latching w.g .mld = none → s.nextCmd w.g 1 .mld = some (id, c, false) → s.claimable w.gid w.core = true → Leads (exec (.mldStart w.gid) s) fun t =>
      asks t 128 ∧ (t.core w.core).array = some { owner := w.gid, follower := false, tile := none }) ∧
    (c.kind = .mldPair → s.latching w.g .mldPair = none → s.nextCmd w.g 1 .mldPair = some (id, c, false) → s.followerCore w = some k → coreIx k ≠ coreIx w.core →
      s.claimable w.gid w.core = true → s.claimable w.gid k = true → Leads (exec (.mldPairStart w.gid) s) fun t => asks t 256 ∧
        (t.core w.core).array = some { owner := w.gid, follower := false, tile := none } ∧ (t.core k).array = some { owner := w.gid, follower := true }) ∧
    (c.kind = .mld → s.latching w.g .mld = some (id, c) → read → (∀ p ∈ ps, p.reject = none) → Leads (exec (.mldStart w.gid) s) fun t =>
      took t ∧ t.mem = s1.mem ∧ (t.core w.core).array = some { owner := w.gid, follower := false, tile := tile 128 }) ∧
    (c.kind = .mldPair → s.latching w.g .mldPair = some (id, c) → s.followerCore w = some k → coreIx k ≠ coreIx w.core → read → (∀ p ∈ ps, p.reject = none) →
      Leads (exec (.mldPairStart w.gid) s) fun t => took t ∧ t.mem = s1.mem ∧ (t.core w.core).array = some { owner := w.gid, follower := false, tile := tile 256 } ∧
        (t.core k).array = some { owner := w.gid, follower := true }) ∧
    (∀ p code b, c.kind = .mld → s.latching w.g .mld = some (id, c) → read → (ps.find? fun p => p.reject.isSome) = some p → p.reject = some code → aget s1.batches c.batch = some b →
      Leads (exec (.mldStart w.gid) s) fun t => took t ∧ (t.core w.core).array = some { owner := w.gid, follower := false, tile := none } ∧
        ∃ y f, aget t.batches c.batch = some y ∧ y.faults = f :: b.faults ∧ f.cause = engCause code ∧ f.pc = c.pc ∧ f.addr = p.ea) ∧
    (∀ ix p bs s2, aget s.reqs rid = some q → q.atomic = true → q.dst = .record → q.parts[ix]? = some p → p.value = none → p.reject = none → p.sent = none →
      s.engRead (s.latchEng rid q) (if spWindow ≤ p.ea.toNat then .read else .weights) p.ea p.n = .ok bs s2 → aget s2.reqs rid = some q →
      Leads (exec (.ncuOperation (.loadPart rid ix)) s) fun t => t.mem = s2.mem ∧ ∃ q', aget t.reqs rid = some q' ∧ q'.parts[ix]? = some { p with value := some bs }) ∧
    (c.kind = .mld → s.latching w.g .mld = none → s.nextCmd w.g 1 .mld = some (id, c, false) → s.claimable w.gid w.core = false → Leads (exec (.mldStart w.gid) s) fun t =>
      t.cores = s.cores ∧ t.cmds = s.cmds ∧ t.mem = s.mem) ∧
    (c.kind = .mld → s.latching w.g .mld = none → s.nextCmd w.g 1 .mld = some (id, c, true) → Leads (exec (.mldStart w.gid) s) fun t => took t ∧ t.cores = s.cores ∧ t.mem = s.mem) ∧
    (c.kind = .mrel → s.nextCmd w.g 1 .mrel = some (id, c, false) → Leads (exec (.mrelStart w.gid) s) fun t => took t ∧ t.mem = s.mem ∧
      (∀ x ∈ t.cores, ∀ a, x.2.array = some a → a.owner ≠ w.gid) ∧ ∀ j, (∀ a, (s.core j).array = some a → a.owner ≠ w.gid) → (t.core j).array = (s.core j).array) ∧
    (c.kind = .mrel → s.nextCmd w.g 1 .mrel = some (id, c, true) → Leads (exec (.mrelStart w.gid) s) fun t => took t ∧ t.cores = s.cores) ∧
    (c.kind = .ofence → s.nextCmd w.g 1 .ofence = some (id, c, false) → s.nextCmd w.g 2 .ofence = some (id, c, false) → Leads (exec (.ofenceStart w.gid) s) fun t =>
      aget t.cmds id = some { c with started := true } ∧ { t with cmds := s.cmds } = s) ∧
    (c.kind = .ofence → s.nextCmd w.g 1 .ofence = some (id, c, true) → s.nextCmd w.g 2 .ofence = none → Leads (exec (.ofenceStart w.gid) s) fun t => t.mem = s.mem ∧ t.cores = s.cores ∧
      (∃ g, aget t.groups w.gid = some g ∧ id ∉ g.mq ∧ g.cq = w.g.cq) ∧ if id ∈ w.g.cq then t.cmds = s.cmds else aget t.cmds id = none) ∧
    (c.kind = .ofence → w.g.mq = [id] → c.started = true → (∀ i ∈ w.g.lq, id ≤ i) → s.laneScratchPending w.gid w.g (c.later.getD s.nextId) = false → Leads (exec (.ofenceComplete w.gid) s) fun t =>
      took t ∧ t.mem = s.mem ∧ (∃ g, aget t.groups w.gid = some g ∧ g.cq = w.g.cq.filter (· ≠ id)) ∧
        ∀ j x, aget s.streams j = some x → x.gid = w.gid → id < j → x.started = false → ∃ y, aget t.streams j = some y ∧ y.stamp = s.stamp) ∧
    (c.kind = .ofence → w.g.mq = [id] → c.started = true → ((∃ i ∈ w.g.lq, i < id) ∨ s.laneScratchPending w.gid w.g (c.later.getD s.nextId) = true) → exec (.ofenceComplete w.gid) s = .next s)

/-- R268 to R271, R274 to R276, R280: a stream that starts reads its row and holds the partials of R270, with OVFL when one exceeds; without a tile it records CAUSE 5; an accumulation adds its partial to the element at its home, the issuing core's own dirty words first, rounded once, and counts once; the `mfence` at the head of the M-queue is taken up, and a closed batch whose
accumulations have all been applied lands BATCHSTAT in its register, or arrives at its barrier.

R270: the sum of a group's products before it is rounded: a NaN, or infinities of both signs, give NaN; infinities of one sign give that infinity; all zero, the sum is negative only when every product is; else every product is cut toward zero to a multiple of 2^(top − 40), top the largest leading exponent, and those are added
exactly. -/
def Obligations.MatrixStreams : Prop :=
  (∀ (s : State) (w : Who) (id : Nat) (c : Cmd) (x : Stream) (tile : Tile) (b : Batch), s.who w.gid = some w →
    let starts := fun (o' : Out) (kind : CmdKind) => c.kind = kind → aget s.cmds id = some c → aget s.streams id = some x → s.nextCmd w.g 1 kind = some (id, c, false) → x.rows = 1 →
      (let len := (if x.transposed then tile.codes.length else 256) * x.esz
       let outs := if x.transposed then 256 else tile.codes.length
       let row := (pieces x.esz (len / x.esz) (w.team.spRead x.aoff len)).map fun bs => (actFmt ((x.args.getD 2 0).toNat / 2 ^ 48 % 4)).decode (leNat bs)
       let parts := (List.range outs).map (tile.partial_ x.transposed row)
       s.tileOf w = some tile → x.aoff + len ≤ w.lrec.scratch → w.team.spPoisoned x.aoff len = false →
       s.behind w.gid w.core (s.genStamp w.core w.ctx) id s.nextId (.scratch w.g.team x.aoff) len = false → Leads o' fun t =>
        aget t.cmds id = none ∧ t.mem = s.mem ∧ t.teams = s.teams ∧ (∃ y, aget t.streams id = some y ∧ y.started = true ∧ y.partials = parts.map (·.1) ∧ y.outs = outs ∧ y.applied = x.applied) ∧
          ∃ g, aget t.groups w.gid = some g ∧ g.ovfl = (if parts.any (·.2) then w.g.ovfl.set s.cycle else w.g.ovfl)) ∧
      (s.tileOf w = none → aget s.batches c.batch = some b → Leads o' fun t => aget t.cmds id = none ∧ aget t.streams id = none ∧
        ∃ y f, aget t.batches c.batch = some y ∧ y.faults = f :: b.faults ∧ f.cause = 5 ∧ f.pc = c.pc)
    starts (exec (.mmulStart w.gid) s) .mmul ∧ starts (exec (.mmtStart w.gid) s) .mmt ∧
    (∀ m o pa a, aget s.streams id = some x → x.started = true → m < x.rows → o < x.outs → m * x.outs + o ∉ x.applied → aget x.asked (m * x.outs + o) = none →
      s.accBefore id x (m * x.outs + o) (x.elemAddr m o) = false → x.gid = w.gid → s.resolveAs x.gen x.core x.ctx w.g.team (s.scratchOf w.g.team) .atomic (x.elemAddr m o) 4 = .ok (.home pa) a → s.homeBusy pa = false →
      s.behind x.gid x.core x.gen id s.nextId (.home pa) 4 = false → s.olderPart x.gid id (.home pa) 4 = false → s.fate x.ctx x.gen pa 4 true = .serve → s.lehr.busy = false →
      let old := overlay (s.ownDirty x.core x.ctx pa 4) (cellsRead s.mem pa 4)
      let new := round32 .rne (Fp.add false (f32 (BitVec.ofNat 32 (leNat old))) (f32 (x.partials.getD (m * x.outs + o) 0)))
      (f32 new).isFinite = true → Leads (exec (.matrixAccumulation id m o) s) fun t => WrittenAt s.mem t.mem pa (leBytes 4 new.toNat) ∧ t.groups = s.groups ∧
        ∃ y, aget t.streams id = some y ∧ y.applied = (m * x.outs + o) :: x.applied) ∧
    (∀ m o, aget s.streams id = some x → m * x.outs + o ∈ x.applied → exec (.matrixAccumulation id m o) s = .next s) ∧
    (∀ disc, c.kind = .mfence → aget s.cmds id = some c → aget s.batches c.batch = some b → s.nextCmd w.g 1 .mfence = some (id, c, disc) → Leads (exec (.batchComplete w.gid) s) fun t =>
      aget t.cmds id = none ∧ t.mem = s.mem ∧ ∃ y, aget t.batches c.batch = some y ∧ y.disc = disc ∧ y.pending = b.pending.filter (· ≠ id)) ∧
    (s.nextCmd w.g 1 .mfence = none → s.readyBatch w.gid = some (id, b) → aget s.batches id = some b → b.gid = w.gid → b.arriving = none → s.streams = [] → b.faults = [] → w.g.region = none →
      (noBar b.barw = true → Leads (exec (.batchComplete w.gid) s) fun t => aget t.batches id = none ∧ t.mem = s.mem ∧ ∃ g, aget t.groups w.gid = some g ∧
        (b.dst ≠ 0 → g.sfull b.dst = true ∧ g.sget b.dst = BitVec.ofNat 64 (b.number.toNat + b.disc.toNat * 2 ^ 32 + b.ovf.toNat * 2 ^ 38 + b.psn.toNat * 2 ^ 39)) ∧
        g.inHandler = w.g.inHandler ∧ g.spc = w.g.spc) ∧
      (noBar b.barw = false → Leads (exec (.batchComplete w.gid) s) fun t => ∃ y n m, aget t.batches id = some y ∧ y.arriving = some n ∧ aget t.net n = some m ∧
        m.kind = .barGroup none (some id) ∧ m.gid = w.gid ∧ t.mem = s.mem))) ∧
  (∀ (ps : List Fp),
    (Fp.nan ∈ ps → groupSum ps = .nan) ∧ (Fp.inf true ∈ ps → Fp.inf false ∈ ps → groupSum ps = .nan) ∧
    (Fp.nan ∉ ps → Fp.inf true ∈ ps → Fp.inf false ∉ ps → groupSum ps = .inf true) ∧ (Fp.nan ∉ ps → Fp.inf false ∈ ps → Fp.inf true ∉ ps → groupSum ps = .inf false) ∧
    ((∀ p ∈ ps, ∃ n e, p = .fin n 0 e) → groupSum ps = .fin (ps.all Fp.isNeg) 0 0) ∧
    (∀ top : Int, (∀ p ∈ ps, ∃ n m e, p = .fin n m e ∧ (m = 0 ∨ topExp m e ≤ top)) → (∃ n m e, Fp.fin n m e ∈ ps ∧ m ≠ 0 ∧ topExp m e = top) →
      ∃ v : Int, groupSum ps = .fin (decide (v < 0)) v.natAbs (top - 40) ∧
        v = (ps.map fun p => match p with
          | .fin n m e => (if n then -1 else 1) * ((if top - 40 ≤ e then m * 2 ^ (e - (top - 40)).toNat else m / 2 ^ ((top - 40) - e).toNat : Nat) : Int)
          | _ => 0).sum))

/-! ## Collective commands -/

/-- The message `b` of command `c` is on its way to rank `r`'s package. -/
def Told (s : State) (c : Coll) (t : State) (r : Nat) (b : CollBody) : Prop :=
  rankPkg c.rankw r ≠ s.self →
    (rankPkg c.rankw r, FabricMsg.coll { ctx := BitVec.ofNat 6 c.ctx, inst := c.inst, src := s.self, rank := c.rank, hdr := c.hdr, body := b }) ∈ t.fabricOut

/-- R333, R335, R336, R338, R340, R341, R343: a collective command at the head of the C-queue takes the instance number of its (context, COMM), which advances by one, and tells every other rank its fields; its inputs are read one by one, and the next step after the last sends `xmar`'s pieces, each to its rank, `xred`'s inputs to all, `xnorm`'s
PSQ and flags to rank 0 (OVFL cleared at the start under CLR); `xbar` begins a release at `.dom`; a discarded command sends what R336 says instead and reads nothing. -/
def Obligations.CollectivesStart : Prop :=
  (∀ (s : State) (w : Who) (id : Nat) (cmd : Cmd) (disc : Bool), s.who w.gid = some w → aget s.cmds id = some cmd →
    let a := cmd.args
    let begins := fun (k : CollKind) (t : State) (p : Coll → Prop) =>
      let hdr := collHdr k a
      let n := (aget s.commCounts (commKey w.ctx hdr.comm)).getD 0
      aget t.commCounts (commKey w.ctx hdr.comm) = some (n + 1) ∧ aget t.cmds id = some { cmd with started := true } ∧ ∃ y, aget t.colls id = some y ∧ y.gid = w.gid ∧ y.kind = k ∧ y.args = a ∧
        y.dst = cmd.dst ∧ y.inst = n ∧ y.hdr = hdr ∧ y.ctx = w.ctx ∧ y.disc = disc ∧ y.gen = s.genStamp w.core w.ctx ∧ p y ∧ (y.rank < y.nr → ∀ r ∈ y.others, Told s y t r .start)
    let runs := fun (q : CmdKind) (k : CollKind) => s.nextCmd w.g 2 q = some (id, cmd, disc) ∧ s.readingColl w.gid k = none
    let still := fun (t : State) => t.mem = s.mem ∧ t.groups = s.groups
    (runs .xmar .xmar → disc = true → Leads (exec (.xmarStart w.gid) s) fun t => still t ∧ begins .xmar t fun y => y.stage = 1 ∧
      ∀ r ∈ y.others, pieceCount a y.rank r ≠ 0 → Told s y t r (.pieceDropped (pieceCount a y.rank r * xmarEsz a))) ∧
    (runs .xmar .xmar → disc = false → Leads (exec (.xmarStart w.gid) s) fun t => still t ∧ begins .xmar t fun y => y.stage = 0 ∧ y.srcs = []) ∧
    (runs .xred .xred → disc = true → Leads (exec (.xredStart w.gid) s) fun t => still t ∧ begins .xred t fun y => y.stage = 1 ∧
      (y.rank < y.nr → ∀ r ∈ y.others, Told s y t r (.values (List.replicate (xredCount a) (some (xredIdentity a)))))) ∧
    (runs .xred .xred → disc = false → Leads (exec (.xredStart w.gid) s) fun t => still t ∧ begins .xred t fun y => y.stage = 0 ∧ y.inputs = []) ∧
    (runs .xnorm .xnorm → disc = true → Leads (exec (.xnormStart w.gid) s) fun t => still t ∧
      begins .xnorm t fun y => y.stage = 1 ∧ y.flag = false ∧ (y.rank ≠ 0 → Told s y t 0 (.norm 0x80000000 false))) ∧
    (runs .xnorm .xnorm → disc = false → Leads (exec (.xnormStart w.gid) s) fun t =>
      t.mem = s.mem ∧ (begins .xnorm t fun y => y.stage = 0 ∧ y.landed = [] ∧ y.flag = (w.g.ovfl.read s.cycle || (a.getD 3 0).getLsbD 17)) ∧
      aget t.groups w.gid = some (if (a.getD 3 0).getLsbD 16 then { w.g with ovfl := w.g.ovfl.clear s.cycle } else w.g)) ∧
    (runs .xbar .xbar → disc = true → Leads (exec (.xbarStart w.gid) s) fun t => still t ∧ begins .xbar t fun y => y.stage = 1 ∧
      (y.rank < y.nr → ∀ r ∈ y.others, Told s y t r .released)) ∧
    (runs .xbar .xbar → disc = false → Leads (exec (.xbarStart w.gid) s) fun t => still t ∧ begins .xbar t fun y => y.stage = 0 ∧
      ∃ n r, y.relId = some n ∧ aget t.rels n = some r ∧ r.gid = w.gid ∧ r.core = w.core ∧ r.ctx = w.ctx ∧ r.scope = .dom ∧ r.waitIds = (s.sReqs w.gid).filter fun i => i < id)) ∧
  (∀ (s s1 : State) (w : Who) (id : Nat) (c : Coll) (ix : Nat) (bs : List Byte), s.who w.gid = some w → aget s.colls id = some c → c.stage = 0 → c.disc = false → c.cause = 0 →
    let reads := fun (ea : DWord) (n : Nat) (y : Coll) => aget s.reqs id = none → s.engRead (s.collEng id c) .read ea n = .ok bs s1 →
      Leads (exec (.ncuOperation (.loadPart id ix)) s) fun t => t.mem = s1.mem ∧ t.groups = s1.groups ∧ aget t.colls id = some y
    let sends := fun (i : Instr) (k : CollKind) (p : State → Prop) => c.kind = k → s.readingColl w.gid k = some (id, c) →
      Leads (exec i s) fun t => t.mem = s.mem ∧ t.groups = s.groups ∧ aget t.colls id = some { c with stage := 1 } ∧ p t
    let piece := fun (r : Nat) => (List.range (srcCount c.args)).filterMap fun l =>
      if (xmarTarget c.args c.rank l).1 = r then some { index := (xmarTarget c.args c.rank l).2, bytes := c.srcElem l : PieceElem } else none
    (c.kind = .xmar → xmarEsz c.args ≤ 8 → ix < srcCount c.args → aget c.srcs ix = none → s.ownPlace (s.collEng id c) .read (xmarSrc c.args ix) (xmarEsz c.args) = true →
      reads (xmarSrc c.args ix) (xmarEsz c.args) { c with srcs := aset c.srcs ix (some bs) }) ∧
    (c.kind = .xred → ix < xredCount c.args → aget c.inputs ix = none → aget c.asked ix = none →
      reads (c.elemAddr 0 ix) (xredSize c.args) { c with inputs := aset c.inputs ix (some (leDWord bs)) }) ∧
    (∀ ea, c.kind = .xnorm → c.clr = false → ix < c.nh → aget c.inputs ix = some (some ea) → ix ∉ c.landed → aget c.asked (2 * ix) = none → aget c.asked (2 * ix + 1) = none → ea.toNat % 4 = 0 →
      reads ea 4 { c with flag := c.flag || (BitVec.ofNat 32 (leNat bs)).getLsbD 0, landed := ix :: c.landed }) ∧
    (c.srcRead = true → sends (.xmarStart w.gid) .xmar fun t => c.rank < c.nr → ∀ r ∈ c.others, piece r ≠ [] → Told s c t r (.piece (piece r))) ∧
    ((∀ e, e < xredCount c.args → ∃ v, aget c.inputs e = some v) → sends (.xredStart w.gid) .xred fun t => c.rank < c.nr → ∀ r ∈ c.others,
      Told s c t r (.values ((List.range (xredCount c.args)).map fun e => (aget c.inputs e).getD none))) ∧
    ((∀ i, i < c.nh → i ∈ c.landed) → sends (.xnormStart w.gid) .xnorm fun t => c.rank ≠ 0 → Told s c t 0 (.norm ((c.args.getD 0 0).setWidth 32) c.flag)))

/-- R334, R335, R338 to R341, R343, R344, R333: an element of an arrived piece is written and credited; rank 0 forms the `xnorm` result of all contributions, every rank takes it, and the commit replaces NORMBOX in one step; a completed command writes COLLSTAT and is gone; a mismatch met before anything was written ends a command with CAUSE 6, a lost
rank one with CAUSE 7, with what an `xred` has landed credited, and neither changes memory or a register; a loss is reported by a context-fault record (R334, log 101). -/
def Obligations.CollectivesRun : Prop :=
  ∀ (s : State) (id : Nat) (c : Coll), aget s.colls id = some c →
    let becomes := fun (t : State) (y : Coll) => aget t.colls id = some y ∧ t.groups = s.groups
    let arrival := fun (t : State) => noBar c.barw = false → ∃ n m, aget t.net n = some m ∧ m.kind = .barGroup none (some id) ∧ m.gid = c.gid
    let credit := fun (t : State) (k : Nat) => noBar c.barw = false → k ≠ 0 → ∃ n m, aget t.net n = some m ∧ m.kind = .barCredit k (some id)
    let live := c.stage < 3 ∧ s.collMismatch c = false ∧ s.lostNow c = false
    (∀ src ix m els e pa a bs, c.kind = .xmar → c.disc = false → c.cause = 0 → c.stage ≤ 1 → s.heardAll c = true → s.collMismatch c = false → s.pieceOf c src = some m →
      m.body = .piece els → els.find? (fun x => x.index = ix) = some e → ix ∉ c.landed → ix ∉ c.faulted → ix < destCount c.args → e.bytes = some bs → bs.length = xmarEsz c.args →
      s.resolveAs c.gen c.core c.ctx c.team (s.scratchOf c.team) .write (xmarDst c.args e.index) (xmarEsz c.args) = .ok (.home pa) a → s.aperture pa ≠ .host → s.behind c.gid c.core c.gen id s.nextId (.home pa) (xmarEsz c.args) = false →
      s.olderPart c.gid id (.home pa) (xmarEsz c.args) = false → s.homeBusy pa = false → s.fate c.ctx c.gen pa (xmarEsz c.args) false = .serve → s.lehr.busy = false →
      Leads (exec (.xmarPieceArrival id src ix) s) fun t => becomes t { c with landed := e.index :: c.landed } ∧ WrittenAt s.mem t.mem pa bs ∧ credit t (xmarEsz c.args)) ∧
    (∀ src ix m k, c.kind = .xmar → c.disc = false → c.cause = 0 → c.stage = 1 → s.heardAll c = true → s.collMismatch c = false → s.pieceOf c src = some m →
      m.body = .pieceDropped k → (∀ i ∈ pieceIndexes c.args src c.rank, i ∉ c.landed) → Leads (exec (.xmarPieceArrival id src ix) s) fun t => t.mem = s.mem ∧
        becomes t { c with landed := pieceIndexes c.args src c.rank ++ c.landed } ∧ credit t ((pieceIndexes c.args src c.rank).length * xmarEsz c.args)) ∧
    (c.kind = .xnorm → c.stage = 1 → s.collMismatch c = false → s.collLost c = false →
      (c.rank = 0 → (∀ r ∈ c.others, s.heard c r bodyNorm = true) → Leads (exec (.xnormResult id) s) fun t => t.mem = s.mem ∧ t.normbox = s.normbox ∧
        becomes t { c with stage := 2, result := some (s.normResult c) } ∧ ∀ r ∈ c.others, Told s c t r (.normResult (s.normResult c).1 (s.normResult c).2.1 (s.normResult c).2.2)) ∧
      (∀ x, c.rank ≠ 0 → s.resultHeard c = some x → Leads (exec (.xnormResult id) s) fun t => t.mem = s.mem ∧ t.normbox = s.normbox ∧
        becomes t { c with stage := 2, result := some x } ∧ Told s c t 0 .normAck)) ∧
    (∀ clip sq, ((f32 sq).isNan = true → normMult clip sq = (0, true)) ∧ ((∃ n, f32 sq = .inf n) → normMult clip sq = (0, true)) ∧ (∀ n e, f32 sq = .fin n 0 e → normMult clip sq = (0x3F800000, false)) ∧
      (∀ m e, m ≠ 0 → f32 sq = .fin true m e → normMult clip sq = (0, true))) ∧
    (∀ sq mult skip, c.kind = .xnorm → c.stage = 2 → c.result = some (sq, mult, skip) → s.lehr.busy = false →
      (if c.rank = 0 then s.collLost c = false ∧ ∀ r ∈ c.others, s.heard c r bodyNormAck = true else s.heard c 0 bodyNormCommit = true) →
      Leads (exec (.xnormCommit id) s) fun t => t.mem = s.mem ∧ becomes t { c with stage := 3, committed := true } ∧ arrival t ∧ (c.rank = 0 → ∀ r ∈ c.others, Told s c t r .normCommit) ∧
        t.normbox = { sq := sq, mult := mult, skip := skip, optstep := if skip then s.normbox.optstep else s.normbox.optstep + 1, step := s.normbox.step + 1 }) ∧
    (c.kind = .xbar → live → c.stage = 0 → (∀ r, c.relId = some r → aget s.rels r = none) → Leads (exec (.collectiveComplete id) s) fun t => t.mem = s.mem ∧
      becomes t { c with stage := 1 } ∧ (c.rank < c.nr → ∀ r ∈ c.others, Told s c t r .released)) ∧
    (c.kind = .xbar → live → c.stage ≠ 0 → (∀ r ∈ c.others, s.heard c r bodyReleased = true) → Leads (exec (.collectiveComplete id) s) fun t => t.mem = s.mem ∧
      becomes t { c with stage := 3 } ∧ arrival t) ∧
    (c.kind = .xmar → live → c.disc = false → c.stage ≠ 0 → s.collHeard c = true → c.landed.length + c.faulted.length = destCount c.args → Leads (exec (.collectiveComplete id) s) fun t => t.mem = s.mem ∧
      becomes t { c with stage := 3 }) ∧
    (∀ v pa a, c.kind = .xred → live → c.disc = false → c.stage ≠ 0 → s.collHeard c = true → xredCount c.args = 1 → c.landed = [] → c.faulted = [] → c.asked = [] → s.xredElem c 0 = some v →
      s.resolveAs c.gen c.core c.ctx c.team (s.scratchOf c.team) .write (c.elemAddr 1 0) (xredSize c.args) = .ok (.home pa) a → s.behind c.gid c.core c.gen id s.nextId (.home pa) (xredSize c.args) = false →
      s.olderPart c.gid id (.home pa) (xredSize c.args) = false → s.homeBusy pa = false → s.fate c.ctx c.gen pa (xredSize c.args) false = .serve → s.lehr.busy = false →
      Leads (exec (.collectiveComplete id) s) fun t => becomes t { c with landed := [0], stage := 3 } ∧ WrittenAt s.mem t.mem pa (leBytes (xredSize c.args) v.toNat) ∧ credit t (xredSize c.args)) ∧
    (c.kind = .xred → live → c.disc = true → c.stage ≠ 0 → s.collHeard c = true → Leads (exec (.collectiveComplete id) s) fun t => t.mem = s.mem ∧
      becomes t { c with stage := 3 } ∧ credit t (xredCount c.args * xredSize c.args)) ∧
    (c.stage < 3 → s.collMismatch c = true → c.begun = false → Leads (exec (.collectiveComplete id) s) fun t => t.mem = s.mem ∧ becomes t { c with stage := 3, cause := 6 }) ∧
    (c.stage < 3 → (s.collMismatch c = false ∨ c.begun = true) → s.lostNow c = true → (∀ x ∈ c.asked, x.1 < 65536) → Leads (exec (.collectiveComplete id) s) fun t => t.mem = s.mem ∧
      becomes t { c with stage := 3, cause := 7 } ∧ (c.kind = .xred → credit t (c.landed.length * xredSize c.args))) ∧
    (∀ cmd g, c.stage = 3 → s.collCredits id = false → c.cause ≠ 6 → (c.cause = 7 ∨ c.faults = []) → aget s.cmds id = some cmd → aget s.groups c.gid = some g → g.region = none →
      Leads (exec (.collectiveComplete id) s) fun t => (c.cause ≠ 7 → t.mem = s.mem) ∧
        (c.cause = 7 → ∀ w, s.who c.gid = some w → (∃ e, aget t.ints 5 = some e ∧ e.pend = true) ∨ ∃ r ∈ (t.ctx c.ctx).held, r.typ = 3 ∧ r.status = 0x07) ∧ aget t.colls id = none ∧ aget t.cmds id = none ∧ ∃ h, aget t.groups c.gid = some h ∧ h.inHandler = g.inHandler ∧
        (∀ r : SReg, r ≠ c.dst → h.sget r = g.sget r) ∧ (c.dst ≠ 0 → h.sfull c.dst = true ∧ h.sget c.dst = BitVec.ofNat 64 (c.disc.toNat + (if c.cause = 0 then 0 else 2) + c.cause * 4 +
          c.psn.toNat * 64 + (c.committed && (c.result.map fun x => x.2.2).getD false).toNat * 128 + c.inst.toNat * 2 ^ 32)))

/-! ## Round regions and the fabric -/

/-- R312, R319, R325: an advance starts only when every slot has arrived or retired; its line homes adopt t + 1, never lower, and acknowledge; then RC becomes t + 1 and ARR zero and no other byte changes; a held load takes the bytes at its home once the home's counter meets its need, and waits before; an advance whose record is valid no more ends. -/
def Obligations.RoundAdvances : Prop :=
  ∀ (s : State) (c : BitVec 6) (i : BitVec 12) (r : RegionRec) (a : Advance), s.streams = [] → s.lehr.busy = false →
    let mine := s.advances.find? fun x => x.ctx = c.toNat && x.region = i.toNat
    let whole := ∀ k, k < r.p → if r.reg.getLsbD k then r.arr.getLsbD k = true else r.ret.getLsbD k = true
    (s.regionHome c.toNat i.toNat = some r → mine = none → whole → r.rc ≠ 0xFFFFFFFF → (c.toNat, i.toNat) ∈ s.arrivedSince → Leads (exec (.roundAdvance c i) s) fun t =>
      { t with advances := s.advances, fabricOut := s.fabricOut } = s ∧ ∃ x ∈ t.advances, x.ctx = c.toNat ∧ x.region = i.toNat ∧ x.to_ = r.rc + 1 ∧ x.acked = [] ∧
        ∀ key v, (key, v) ∈ s.rcls → key / 8192 = c.toNat * 4096 + i.toNat → key % 8192 ∈ x.homes) ∧
    (s.regionHome c.toNat i.toNat = some r → ¬ whole → exec (.roundAdvance c i) s = .next s) ∧
    (∀ die slice, (s.advances.find? fun x => x.ctx = c.toNat && x.region = i.toNat && x.homes.contains (homeIx die slice)) = some a → Leads (exec (.roundAdopt c i die slice) s) fun t =>
      { t with rcls := s.rcls, advances := s.advances } = s ∧ { a with acked := homeIx die slice :: a.acked } ∈ t.advances ∧
        let key := rclKey c.toNat i.toNat die slice
        (aget s.rcls key = none → aget t.rcls key = some a.to_) ∧ (∀ v, aget s.rcls key = some v → aget t.rcls key = some (if v.toNat < a.to_.toNat then a.to_ else v)) ∧
        ∀ j, j ≠ key → aget t.rcls j = aget s.rcls j) ∧
    (mine = some a → s.regionHome c.toNat i.toNat = some r → (∀ h ∈ a.homes, h ∈ a.acked) → whole → Leads (exec (.roundAdvanceCommit c i) s) fun t => t.groups = s.groups ∧ t.rcls = s.rcls ∧
      (∀ x ∈ t.advances, ¬ (x.ctx = c.toNat ∧ x.region = i.toNat)) ∧ (Memory.wf s.mem = true → ∀ x, cellRead t.mem x = if r.pa + 24 ≤ x ∧ x < r.pa + 28 then (leBytes 4 a.to_.toNat).getD (x - (r.pa + 24)) 0 else
        if r.pa + 40 ≤ x ∧ x < r.pa + 48 then 0 else cellRead s.mem x)) ∧
    (mine = some a → s.regionHome c.toNat i.toNat = some r → (∃ h ∈ a.homes, h ∉ a.acked) → exec (.roundAdvanceCommit c i) s = .next s) ∧
    (mine = some a → s.regionHome c.toNat i.toNat = none → Leads (exec (.roundAdvanceCommit c i) s) fun t => { t with advances := s.advances } = s ∧ ∀ x ∈ t.advances, ¬ (x.ctx = c.toNat ∧ x.region = i.toNat)) ∧
    (∀ id ix q p pa j need v, aget s.reqs id = some q → q.parts[ix]? = some p → p.place = .home pa → p.value = none → p.region = some (j, need) → p.sent.isSome = true → p.fwd = [] → p.attr.nc = true →
      (∀ x ∈ q.parts, x.reject = none) → q.atomic = false → q.faulted = false → (∀ d c i, q.dst ≠ .roundGet d c i) → s.homeBusy pa = false → s.partBlocked id q p = false → s.partFate q p = .serve →
      s.regionPkg q.ctx j = s.self → aget s.rcls (rclKey q.ctx j (s.homeDie pa) (s.homeSlice pa)) = some v → Leads (exec (.ldbHeldServe id ix) s) fun t => t.mem = s.mem ∧ t.groups = s.groups ∧
        ∃ q' p', aget t.reqs id = some q' ∧ q'.parts[ix]? = some p' ∧
          (need.toNat ≤ v.toNat → p'.value = some (cellsRead s.mem pa p.n) ∧ p'.stale = false) ∧ (v.toNat < need.toNat → q.now = true → p.asLd = false → p'.value = some (cellsRead s.mem pa p.n) ∧ p'.stale = true) ∧
          (v.toNat < need.toNat → (q.now = false ∨ p.asLd = true) → p' = p))

/-- R326 to R330, R413: a flit that fails its check is counted as retried; a good one delivers its message, unless the package is lost; an access of another package is served at its home, one at a time, and answered, or rejected with its cause and no effect; a failing lane is retired, the third failure
retires the port, and a package none of whose ports is left is lost; a package silent for 10 ms is fenced. -/
def Obligations.FabricTraffic : Prop :=
  ∀ (s : State) (port : Nat) (msg : FabricMsg),
    let p := s.port port
    let receive := exec (.flitReceive port true msg) s
    let got := fun (x : State → Prop) => Leads receive fun t => (t.port port).silentSince = s.cycle ∧ x t
    (port < 48 → p.up = true →
      (Leads (exec (.flitReceive port false msg) s) fun t => t.port port = { p with retry := satSucc p.retry } ∧ { t with ports := s.ports } = s) ∧
      (s.lost = true → got fun t => { t with ports := s.ports } = s) ∧
      (s.lost = false →
        (∀ a b c d e f, msg = .access a b c d e f → got fun t => t.fabricIn = s.fabricIn ++ [msg] ∧ { t with ports := s.ports, fabricIn := s.fabricIn } = s) ∧
        (∀ m, msg = .coll m → got fun t => t.collIn = s.collIn ++ [m] ∧ { t with ports := s.ports, collIn := s.collIn } = s) ∧
        (∀ src c i v, msg = .roundAdopt src c i v → got fun t => t.fabricOut = s.fabricOut ++ [(src, .roundAck s.self c i v)] ∧ t.mem = s.mem ∧
          ∃ u, aget t.rcls (remoteRcl src c.toNat i.toNat) = some u ∧ v.toNat ≤ u.toNat) ∧
        (∀ src id pa bs tag, msg = .fragment src id pa (some bs) tag → s.lehrMay pa = true → s.lehr.busy = false → got fun t => WrittenAt s.mem t.mem pa bs ∧ t.groups = s.groups ∧ t.teams = s.teams) ∧
        (∀ id bs stale rid ix q y, msg = .answer id (.data bs stale) → aget s.net id = none → s.partSent id = some (rid, ix) → aget s.reqs rid = some q → q.parts[ix]? = some y →
          (∀ x ∈ q.parts, x.reject = none) → (∀ d c i, q.dst ≠ .roundGet d c i) → got fun t => t.mem = s.mem ∧ ∃ q' y', aget t.reqs rid = some q' ∧ q'.parts[ix]? = some y' ∧ y'.value = some (overlay y.fwd bs) ∧ y'.stale = stale))) ∧
    (p.up = false ∨ 48 ≤ port → ∀ good, exec (.flitReceive port good msg) s = .next s) ∧
    (s.lost = true → ∀ id, exec (.remoteAccessArrival id) s = .next s) ∧
    (∀ src id c gen pa op, s.lost = false → s.fabricIn = [.access src id c gen pa op] → s.homeBusy pa = false → s.streams = [] → s.lehr.busy = false →
      let answered := fun (m : RemoteAnswer) (x : State → Prop) => Leads (exec (.remoteAccessArrival id) s) fun t =>
        t.fabricIn = [] ∧ t.groups = s.groups ∧ t.teams = s.teams ∧ t.fabricOut = s.fabricOut ++ [(src, .answer id m)] ∧ x t
      let fate := s.remoteFate c.toNat gen pa (remoteLen op) (remoteReads op)
      (∀ n, op = .load n none → fate = .serve → answered (.data (cellsRead s.mem pa n) false) fun t => t.mem = s.mem) ∧
      (∀ bs tag, op = .store bs false tag → (∃ b ∈ bs, b ≠ none) → fate = .serve → answered .done fun t => MaskedAt s.mem t.mem pa bs) ∧
      (∀ k ty x y tag, op = .atomic k ty x y tag → fate = .serve →
        let n := if ty = .b64 then 8 else 4
        let old := cellsRead s.mem pa n
        answered (.data old false) fun t => WrittenAt s.mem t.mem pa (leBytes n (atomNew k ty (k = 8) (BitVec.ofNat 64 (leNat old)) x y).toNat)) ∧
      (fate = .stale → (∀ n x, op ≠ .load n (some x)) → answered (.reject 0x07) fun t => t.mem = s.mem) ∧ (∀ code, fate = .bad code → (∀ n x, op ≠ .load n (some x)) → answered (.reject code) fun t => t.mem = s.mem)) ∧
    (port < 48 → p.failed ≤ 2 → Leads (exec (.fabricLaneFailure port) s) fun t =>
      let n := if p.lanes ≤ 6 ∨ p.failed = 2 then 0 else p.lanes - 1
      t.port port = { p with failed := p.failed + 1, lanes := n, up := p.up && n ≠ 0 } ∧ t.cfgPending = s.cfgPending + 1 ∧ ((∃ k, k < 48 ∧ (t.port k).failed ≤ 2) → t.lost = s.lost) ∧
        ((∀ k, k < 48 → 2 < (t.port k).failed) → t.lost = true) ∧
        { t with ports := s.ports, cfgPending := s.cfgPending, tables := s.tables, ints := s.ints, hostOut := s.hostOut, lost := s.lost } = s) ∧
    (∀ lanes up peer pport, port < 48 → lanes ∈ [0, 6, 7, 8] → lanes + p.failed ≤ 8 → (2 < p.failed → lanes = 0) → (up = true → lanes ≠ 0) → peer < 256 → pport < 64 →
      Leads (exec (.fabricPortStateChange port lanes up peer pport) s) fun t => t.port port = { p with lanes := lanes, up := up, peer := peer, pport := pport, trained := p.trained || up, silentSince := s.cycle } ∧
        (lanes ≠ p.lanes ∨ up ≠ p.up → ((aget t.ints 2).getD {}).pend = true) ∧ { t with ports := s.ports, ints := s.ints, hostOut := s.hostOut } = s) ∧
    (∀ pkg, (∃ q ∈ s.ports, q.2.peer = pkg ∧ q.2.lanes ≠ 0) → (∀ q ∈ s.ports, q.2.peer = pkg → q.2.lanes ≠ 0 → q.2.silentSince + 17000000 ≤ s.cycle) → pkg ≠ s.self → pkg ∉ s.lostPkgs →
      Leads (exec (.packageLost (.silent pkg)) s) fun t => t.lostPkgs = pkg :: s.lostPkgs ∧ { t with lostPkgs := s.lostPkgs, lehr := s.lehr } = s) ∧
    (∀ pkg q, q ∈ s.ports → q.2.peer = pkg → q.2.lanes ≠ 0 → s.cycle < q.2.silentSince + 17000000 → exec (.packageLost (.silent pkg)) s = .next s) ∧
    exec (.packageLost .localFailure) s = .next { s with lost := true }

/-! ## The persistence tier -/

/-- R348, R356 to R360: the oldest image of a granule enters its WBQ, a full WBQ first draining its oldest entry into the modules; ARM begins a capture with the failure that the configuration or the step earns; the slot's header is cleared, a swept line is copied whole to its place in the slot, old
writes are drained and reported to the group, and a capture with every line copied and every report in writes the header of R357; one that has failed late clears the header first; its end posts the record. No step changes other memory. -/
def Obligations.CapturesOfAStep : Prop :=
  ∀ (s : State) (x : Image),
    let l := s.lehr
    let d := granuleDie x.granule
    (s.images.find? (fun y => y.granule = x.granule) = some x → s.imageBehind x = false → Leads (exec (.wbqAccept x.granule) s) fun t => t.mem = s.mem ∧ t.groups = s.groups ∧ t.images = s.images.erase x ∧
      ((s.wbq.filter fun y => granuleDie y.granule = d).length < Config.wbqGranules → t.wbq = s.wbq ++ [x] ∧ t.modules = s.modules) ∧
      (∀ y, Config.wbqGranules ≤ (s.wbq.filter fun y => granuleDie y.granule = d).length → s.wbq.find? (fun y => granuleDie y.granule = d) = some y →
        t.wbq = s.wbq.erase y ++ [x] ∧ WrittenAt s.modules t.modules (64 * y.granule) y.bytes)) ∧
    (l.busy = false → Leads (exec .arm s) fun t => { t with lehr := s.lehr } = s ∧ t.lehr.busy = true ∧ t.lehr.stage = 1 ∧ t.lehr.copied = [] ∧
      t.lehr.fail = if s.snapValid = false then 0x20 else if l.sstep.toNat < s.normbox.step.toNat then 0x21 else 0) ∧
    (l.busy = true → exec .arm s = .next s) ∧
    (∀ line, l.busy = true → l.fail ≠ 0x20 → l.fail ≠ 0x21 → l.stage = 1 → s.protBlocks = false → s.snapValid = true → s.lehrMay s.slotBase = true → l.early = [] →
      Leads (exec (.lehrCaptureStart line) s) fun t => WrittenAt s.mem t.mem s.slotBase (List.replicate 8 0) ∧
        t.lehr.stage = (if l.committed then 4 else 2) ∧ t.groups = s.groups ∧ t.teams = s.teams) ∧
    (l.busy = true → l.fail = 0 →
      (∀ line, l.stage = 4 → s.inRange line = true → line ∉ l.copied → s.lehrMay (256 * line) = true → s.lehrMay (s.slotLine line) = true → Leads (exec (.lehrCaptureStart line) s) fun t =>
        WrittenAt s.mem t.mem (s.slotBase + 256 + (256 * line - l.liveBase.toNat)) (cellsRead s.mem (256 * line) 256) ∧ t.lehr.copied = line :: l.copied ∧ t.groups = s.groups) ∧
      (4 ≤ l.stage → l.drainSent = false → s.oldWrites = false →
        (l.drainStarted = false → Leads (exec .lehrDrain s) fun t => t.mem = s.mem ∧ t.groups = s.groups ∧ t.lehr.drainStarted = true ∧ t.lehr.drainWait = t.images.map (·.id) ∧
          ∀ g, g ∈ s.l2tierDirty → s.inRange (g / 4) = true → s.oldTag ((aget s.tags (g / 4)).getD 0) = true → g ∉ t.l2tierDirty ∧ ∃ y ∈ t.images, y.granule = g) ∧
        (l.drainStarted = true → l.drainWait = [] → Leads (exec .lehrDrain s) fun t => t.lehr = { l with drainSent := true, drained := s.self :: l.drained } ∧
          { t with lehr := s.lehr, fabricOut := s.fabricOut } = s ∧ ∀ p ∈ l.packages, p ≠ s.self → (p, FabricMsg.drained s.self l.sstep) ∈ t.fabricOut)) ∧
      (l.stage = 4 → l.copied.length = s.snapLines → l.drainSent = true → (∀ p ∈ l.packages, p ∈ l.drained) → l.hdr0 = [] → l.hdrWait = [] → s.snapValid = true → s.lehrMay s.slotBase = true → Leads (exec .lehrComplete s) fun t =>
        WrittenAt s.mem t.mem s.slotBase (leBytes 8 1 ++ leBytes 8 l.sstep.toNat ++ leBytes 8 l.cstep.toNat ++ leBytes 8 l.coptstep.toNat ++ leBytes 8 l.liveBase.toNat ++
          leBytes 8 l.liveLen.toNat ++ leBytes 8 l.ctx.toNat ++ List.replicate 200 0) ∧ t.lehr.stage = 6 ∧ t.groups = s.groups)) ∧
    (∀ p, s.fabricIn = [.drained p l.sstep] → l.busy = true → p ∈ l.packages → Leads (exec .drainedMessage s) fun t => t.lehr = { l with drained := p :: l.drained } ∧ t.fabricIn = [] ∧
      { t with lehr := s.lehr, fabricIn := s.fabricIn } = s) ∧
    (l.busy = true → l.fail ≠ 0 → l.fail ≠ 0x20 → l.fail ≠ 0x21 →
      (l.stage = 6 → l.early = [] → s.lehrMay s.slotBase = true → Leads (exec .lehrComplete s) fun t => WrittenAt s.mem t.mem s.slotBase (List.replicate 8 0) ∧ t.lehr.stage = 7 ∧ t.lehr.busy = true) ∧
      (l.stage = 1 → exec .lehrComplete s = .next s)) ∧
    (l.busy = true → (l.fail = 0x20 ∨ l.fail = 0x21 ∨ (l.fail ≠ 0 ∧ l.stage ≠ 1 ∧ l.stage ≠ 6 ∧ l.hdr0 = [] ∧ l.hdrWait = []) ∨ (l.fail = 0 ∧ l.stage = 6 ∧ l.hdrWait = [])) → Leads (exec .lehrComplete s) fun t =>
      let u := s.postRecord l.ctx.toNat { typ := 2, status := l.fail, queue := 0, slot := l.sstep.setWidth 32, ctag := l.snapTag, time := BitVec.ofNat 64 s.cycle, info := BitVec.ofNat 64 (l.sstep.toNat % 2 + 2 * l.copied.length) }
      t.mem = u.mem ∧ t.ctxs = u.ctxs ∧ t.lehr.busy = false ∧ t.lehr.stage = 0 ∧ (l.fail = 0 → u.cullet.en = true →
        (u.cullet.encoding = none → t.cullet.encoding = some l.sstep) ∧ (u.cullet.encoding ≠ none → t.cullet.encoding = u.cullet.encoding ∧ t.cullet.later = u.cullet.later ++ [l.sstep])))

/-! ## The cullet -/

/-- R414 to R418: a stripe of the captured step leaves as sixteen fragments, one per member; once all of its own are accepted a member reports, and with every report the area protects the step; a recovery takes the newest protected step, rebuilds a stripe, in ascending order or because an access waits for it, from
twelve or more surviving fragments of that step, its own read from its area, by writing its data, fails a stripe with fewer, and is done when every stripe is rebuilt. -/
def Obligations.CulletProtectsAndRecovers : Prop :=
  ∀ (s : State) (st : DWord) (k : Nat),
    let c := s.cullet
    let members := ((List.range 16).map c.package).filter (· ≠ s.self)
    let pend := fun (t : State) => ((aget t.ints 3).getD {}).pend = true
    (c.encoding = some st → k < s.stripeCount → k ∉ c.encoded → Leads (exec (.culletEncode k) s) fun t => t.cullet.encoded = k :: c.encoded ∧ t.groups = s.groups ∧ t.teams = s.teams ∧
      ((∀ m, m < 16 → c.package m ≠ s.self) → t.mem = s.mem) ∧
      ∀ f, f < 16 → c.package ((c.member.toNat + f) % 16) ≠ s.self → ∃ n, (c.package ((c.member.toNat + f) % 16),
        FabricMsg.fragment s.self n (s.fragAddr (st.toNat % 2) c.member.toNat k) (fragmentOf ((List.range 12).map (s.dataFragment (st.toNat % 2) k)) f) s.stepTag) ∈ t.fabricOut) ∧
    (c.encoding = some st → c.reported = false → c.encoded.length = s.stripeCount → c.wait = [] → c.asked = [] → Leads (exec .culletProtect s) fun t =>
      t.cullet = { c with reported := true } ∧ (∀ p ∈ members, (p, FabricMsg.fragmentsAccepted s.self st) ∈ t.fabricOut) ∧ { t with cullet := s.cullet, fabricOut := s.fabricOut } = s) ∧
    (c.encoding = some st → c.reported = true → (∀ p ∈ members, FabricMsg.fragmentsAccepted p st ∈ s.fabricIn) → Leads (exec .culletProtect s) fun t =>
      t.cullet.encoding = c.later.head? ∧ t.cullet.prot (st.toNat % 2) = some (st.toNat % 2 ^ 63) ∧ t.cullet.prot ((st.toNat + 1) % 2) = c.prot ((st.toNat + 1) % 2) ∧
        { t with cullet := s.cullet, fabricIn := s.fabricIn } = s) ∧
    (c.go = false → (c.serving = true → c.done = true) → exec .recoveryGo s = .next { s with cullet := { c with go := true, serving := false, done := false, failed := false, rebuilt := 0, stripes := [], failedStripes := [] } }) ∧
    (c.serving = true → c.done = false → exec .recoveryGo s = .next s) ∧
    (∀ n, c.go = true → c.newest = some n → Leads (exec .recoveryServe s) fun t => t.cullet = { c with go := false, serving := true, serveStep := n } ∧ pend t ∧
      { t with cullet := s.cullet, ints := s.ints, hostOut := s.hostOut } = s) ∧
    (∀ frags, c.serving = true → c.done = false → k < s.stripeCount → k ∉ c.stripes → k ∉ c.failedStripes → (s.sweptTo k = true ∨ s.stripeWanted k = true) → s.lehr.busy = false →
      (∀ ds, decodeStripe (s.survivors k frags) = some ds → s.lehrMay (c.adoptBase.toNat + stripeBytes * k) = true → Leads (exec (.stripeRebuild k frags) s) fun t => WrittenAt s.mem t.mem (c.adoptBase.toNat + stripeBytes * k) ds.flatten ∧
        t.cullet = { c with stripes := k :: c.stripes, rebuilt := c.rebuilt + 1 } ∧ t.groups = s.groups) ∧
      (decodeStripe (s.survivors k frags) = none → Leads (exec (.stripeRebuild k frags) s) fun t => t.cullet = { c with failed := true, failedStripes := k :: c.failedStripes } ∧ (c.failed = false → pend t) ∧ t.groups = s.groups)) ∧
    (∀ frags, s.sweptTo k = false → s.stripeWanted k = false → exec (.stripeRebuild k frags) s = .next s) ∧
    (∀ frags x, x ∈ s.survivors k frags → (∃ m, (c.lost.toNat + x.1) % 16 = m ∧ m = c.member.toNat ∧ s.homeRead (s.fragAddr (c.serveStep % 2) c.lost.toNat k) 4096 = some x.2) ∨
      (x ∈ frags ∧ (c.lost.toNat + x.1) % 16 ≠ c.lost.toNat ∧ c.package ((c.lost.toNat + x.1) % 16) ∉ s.lostPkgs)) ∧
    (c.serving = true → c.done = false → c.stripes.length = s.stripeCount → Leads (exec .rebuildDone s) fun t => t.cullet = { c with done := true } ∧ pend t ∧
      { t with cullet := s.cullet, ints := s.ints, hostOut := s.hostOut } = s) ∧
    (c.stripes.length ≠ s.stripeCount → exec .rebuildDone s = .next s) ∧
    (∀ frags : List (Nat × List Byte), frags.length < 12 → decodeStripe frags = none) ∧
    (∀ ds : List (List Byte), ds.length = 12 → (∀ d ∈ ds, d.length = 4096) → decodeStripe ((List.range 12).map fun i => (i, ds.getD i [])) = some ds)

/-! ## The gaffer -/

/-- R44, R45, R49 to R52: the mailbox's requests: a load verifies the image and never lowers the security version; a report covers the nonce, names the running stages, the retirement table in use and the windows, is signed by the next leaf, 128 s after the last one, and is written where the request says
(the order of the statuses of a request that meets several, but for 0x04, is log 84); a context's world changes only while it is disabled and idle; a window may not overlap another; a
request ends with STATUS, WAITS and RESP, DONE and source 4. A refused request changes nothing but its answer. -/
def Obligations.MailboxRequests : Prop :=
  ∀ (s : State),
    let r := s.mbox.req
    let bits := fun hi lo => r.toNat / 2 ^ lo % 2 ^ (hi + 1 - lo)
    let pa := bits 63 24 * 4096
    let answers := fun (o : Out) (x : BitVec 8 × Word × DWord) => o = .next { s with mbox := { s.mbox with result := some x } }
    (s.mbox.busy = true → s.mbox.result = none →
      (bits 7 0 = 1 →
        let n := bits 95 64
        let old := s.mbox.running.setWidth 64
        let barred := s.bufferBarred pa n = true ∨ Config.policyAllows r = false
        (bits 23 8 ≠ 0 ∨ bits 127 96 ≠ 0 → answers (exec .loadFirmware s) (0x01, 0, old)) ∧
        (bits 23 8 = 0 → bits 127 96 = 0 → (s.hbmSize < pa + n → answers (exec .loadFirmware s) (0x07, 0, old)) ∧
          (pa + n ≤ s.hbmSize → (barred → answers (exec .loadFirmware s) (0x06, 0, old)) ∧ (¬ barred → (s.homeRead pa n = none → answers (exec .loadFirmware s) (0x02, 0, old)) ∧
            ∀ img, s.homeRead pa n = some img → ((Config.xmssVerify img = false ∨ (Config.imageVersion img).toNat < s.mbox.secver.toNat) → answers (exec .loadFirmware s) (0x02, 0, old)) ∧
              (Config.xmssVerify img = true → s.mbox.secver.toNat ≤ (Config.imageVersion img).toNat → exec .loadFirmware s = .next { s with mbox := { s.mbox with
                secver := Config.imageVersion img, firmware := [img], result := some (0, 0, (Config.imageVersion img).setWidth 64) } }))))) ∧
      (bits 7 0 = 2 → 986176 ≤ s.mbox.leaf.toNat → answers (exec .attest s) (0x04, 0, 0)) ∧
      (bits 7 0 = 2 → s.mbox.leaf.toNat < 986176 → ((bits 23 8 ≠ 0 ∨ bits 127 64 ≠ 0) → answers (exec .attest s) (0x01, 0, 0)) ∧
        (bits 23 8 = 0 → bits 127 64 = 0 → s.hbmSize < pa + 16384 → answers (exec .attest s) (0x07, 0, 0))) ∧
      (bits 7 0 = 2 → bits 23 8 = 0 → bits 127 64 = 0 → pa + 16384 ≤ s.hbmSize →
        (∀ t, s.mbox.leaf.toNat < 986176 → s.mbox.lastReport = some t → s.cycle < t + 217600000000 →
          answers (exec .attest s) (0x03, BitVec.ofNat 32 ((t + 217600000000 - s.cycle + 1699999999) / 1700000000), 0)) ∧
        (s.mbox.leaf.toNat < 986176 → (∀ t, s.mbox.lastReport = some t → t + 217600000000 ≤ s.cycle) → s.lehr.busy = false → Leads (exec .attest s) fun t =>
          t.mbox.leaf = s.mbox.leaf + 1 ∧ t.mbox.lastReport = some s.cycle ∧ t.groups = s.groups ∧ ∃ head sig, WrittenAt s.mem t.mem pa (cellsRead s.mem pa 32 ++ leBytes 8 s.mbox.leaf.toNat ++ head ++ sig) ∧
            head = leBytes 8 (s.mbox.firmware.take 8).length ++ (s.mbox.firmware.take 8).flatMap Config.shake256 ++ Config.shake256 s.tables.current.bytes ++ Config.shake256 s.windowBytes ∧
            sig = (List.range 2820).map (fun i => (Config.xmssSign s.mbox.leaf.toNat (cellsRead s.mem pa 32 ++ leBytes 8 s.mbox.leaf.toNat ++ head)).getD i 0) ∧
            t.mbox.result = some (0, 0, BitVec.ofNat 64 (40 + head.length + 2820)))) ∧
      (bits 7 0 = 3 → bits 15 14 = 0 → bits 127 17 = 0 →
        let c := bits 13 8
        ((s.ctx c).en = true ∨ s.ctxActive c = true ∨ Config.policyAllows r = false → answers (exec .setContextWorld s) (0x06, 0, 0)) ∧
        ((s.ctx c).en = false → s.ctxActive c = false → Config.policyAllows r = true → Leads (exec .setContextWorld s) fun t => t.ctx c = { s.ctx c with secure := r.getLsbD 16 } ∧
          t.mbox.result = some (0, 0, 0) ∧ (∀ j, j ≠ c → t.ctx j = s.ctx j) ∧ { t with ctxs := s.ctxs, mbox := s.mbox } = s)) ∧
      (bits 7 0 = 4 → bits 15 10 = 0 → bits 63 60 = 0 → bits 127 100 = 0 →
        let x : Window := { en := r.getLsbD 22, sec := r.getLsbD 23, base := BitVec.ofNat 36 (bits 59 24), limit := BitVec.ofNat 36 (bits 99 64) }
        (x.en = true → (x.limit.toNat ≤ x.base.toNat ∨ s.windowOverlaps (bits 9 8) (bits 21 16) x = true) → answers (exec .setWindow s) (0x06, 0, 0)) ∧
        ((x.en = true → x.base.toNat < x.limit.toNat ∧ s.windowOverlaps (bits 9 8) (bits 21 16) x = false) → Config.policyAllows r = true → Leads (exec .setWindow s) fun t =>
          aget t.windows (64 * bits 9 8 + bits 21 16) = some x ∧ t.mbox.result = some (0, 0, 0) ∧ (∀ j, j ≠ 64 * bits 9 8 + bits 21 16 → aget t.windows j = aget s.windows j) ∧
            { t with windows := s.windows, mbox := s.mbox } = s))) ∧
    (∀ x, s.mbox.busy = true → (s.mbox.result = some x ∨ (s.mbox.result = none ∧ bits 7 0 ∉ [1, 2, 3, 4, 16] ∧ x = (0x01, 0, 0))) → Leads (exec .mailboxRequestEnd s) fun t =>
      t.mbox = { s.mbox with status := x.1, waits := x.2.1, resp := x.2.2, busy := false, done := true, result := none } ∧ ((aget t.ints 4).getD {}).pend = true ∧
        { t with mbox := s.mbox, ints := s.ints, hostOut := s.hostOut } = s) ∧
    (s.mbox.result = none → bits 7 0 ∈ [1, 2, 3, 4, 16] → exec .mailboxRequestEnd s = .next s)

/-- R366, R369, R371 to R373: a park action of a request that names a parked group: `RETRY` resumes it where it stands, `CONTINUE` after the faulted word, `DELIVER` in its handler with the trap registers written, `KILL` ends it; a request that names none, or an action the cause does not allow, is answered and changes
nothing.

R2, R349, R402: a power failure drains what the WBQs hold into the modules and nothing more; the reset after it has the tier as the modules hold it, the security version, the leaves and the retirement state kept, and no context, launch or group. -/
def Obligations.ParkActionsAndPower : Prop :=
  (∀ (s : State) (w : Who) (p : Park), s.processing 16 = true →
    let r := s.mbox.req
    let act := reqBits r 15 14
    let fields := reqBits r 127 34 = 0
    let refuses := fun (o : Out) (st : BitVec 8) => o = .next { s with mbox := { s.mbox with result := some (st, 0, 0) } }
    let takes := fun (o : Out) (x : State → Group → Prop) => Leads o fun t => t.mbox = { s.mbox with result := some (0, 0, 0) } ∧ t.mem = s.mem ∧
      ∃ g, aget t.groups w.gid = some g ∧ g.park = none ∧ g.sregs = w.g.sregs ∧ g.lanes = w.g.lanes ∧ x t g
    (fields → s.parkedAt r = none → (act = 0 → refuses (exec .retry s) 0x05) ∧ (act = 1 → refuses (exec .continue s) 0x05) ∧ (act = 2 → refuses (exec .kill s) 0x05) ∧ (act = 3 → refuses (exec .deliver s) 0x05)) ∧
    (fields → s.parkedAt r = some (w, p) → s.who w.gid = some w →
      (act = 0 → (p.cause.code = 0x0D ∨ (p.cause.code = 0x09 ∧ p.cause.sub = 6)) → refuses (exec .retry s) 0x06) ∧
      (act = 0 → p.killOnly = false → LocalNet s → s.reqs = [] → w.g.rejected = [] → takes (exec .retry s) fun t g => g.spc = w.g.spc ∧ g.trap = w.g.trap ∧ g.inHandler = w.g.inHandler ∧ t.teams = s.teams) ∧
      (act = 1 → (p.killOnly = true ∨ p.hang = true ∨ (p.system = false ∧ p.precise = false)) → refuses (exec .continue s) 0x06) ∧
      (act = 1 → p.mayContinue = true → p.cause.lane = false → takes (exec .continue s) fun t g => g.spc = (if p.precise then p.cause.pc + 4 else w.g.spc) ∧ (p.precise = true → g.hold = none) ∧ t.teams = s.teams) ∧
      (act = 2 → w.g.done = false → LocalNet s → Leads (exec .kill s) fun t => t.mbox.result = some (0, 0, 0) ∧ ∃ g, aget t.groups w.gid = some g ∧ g.done = true ∧ g.sExited = true ∧ g.block = none ∧
        (∀ l, aget s.launches w.team.launch = some l → ∃ k, aget t.launches w.team.launch = some k ∧ k.kills = l.kills + 1)) ∧
      (act = 3 → (p.killOnly = true ∨ p.nest = true ∨ w.lrec.trapvec = 0xFFFFFFFF) → refuses (exec .deliver s) 0x06) ∧
      (act = 3 → p.mayDeliver w = true → w.g.sExited = false → takes (exec .deliver s) fun t g => g.inHandler = true ∧ g.spc = BitVec.ofNat 64 (w.lrec.sbase.toNat + 4 * w.lrec.trapvec) ∧
        g.trap.pc = p.cause.pc ∧ g.trap.addr = p.cause.addr ∧ g.trap.rp = w.g.trap.rp ∧ t.teams = s.teams))) ∧
  (∀ (s : State),
    (s.powered = true → Leads (exec .powerFailure s) fun t => t.powered = false ∧ t.wbq = [] ∧ t.images = [] ∧ t.mem = s.mem ∧ t.groups = s.groups ∧
      (s.wbq = [] → t.modules = s.modules) ∧ ∀ x, s.wbq = [x] → WrittenAt s.modules t.modules (64 * x.granule) x.bytes) ∧
    (s.powered = false → exec .powerFailure s = .next s) ∧
    (s.powered = false → Leads (exec .packageReset s) fun t => t.powered = true ∧ t.mem = s.modules ∧ t.modules = s.modules ∧ t.tags = s.moduleTags ∧ t.ctxs = State.reset.ctxs ∧ t.groups = [] ∧ t.teams = [] ∧
      t.launches = [] ∧ t.net = [] ∧ t.normbox = State.reset.normbox ∧ t.hbmSize = s.hbmSize ∧ t.tables = s.tables.boot ∧ t.cfggen = s.tables.boot.current.gen ∧ (∀ k, t.port k = { failed := (s.port k).failed }) ∧ t.mbox.secver = s.mbox.secver ∧ t.mbox.leaf = s.mbox.leaf ∧ t.mbox.busy = false) ∧
    (s.powered = true → exec .packageReset s = .next s))

/-! ## Failures -/

/-- R398, R402, R405 to R407, R410, R413: the scrubber writes a correction back; a retired core is dead and its teams lose their scratchpad, its groups parked with cause 0x0D; a failed slice's dirty lines read as poisoned; the switch to 480 slices writes the die's dirty lines back first; a failed pseudo-channel
poisons its lines and HBMSIZE shrinks; a lost die leaves service, with fewer than twelve the package is lost; each is one change of the retirement tables, which the gaffer then writes to the older copy, signed while
leaves are left, and uses once it is accepted. Memory itself keeps its bytes. -/
def Obligations.FailuresAndRetirement : Prop :=
  ∀ (s : State) (d : Nat) (k : CoreKey) (slice : Nat),
    let die := s.die d
    let lone := fun (f : CoreKey → Prop) => ∀ x ∈ s.teams, x.2.frame = none → ¬ f x.2.core
    let parks := fun (t : State) (f : CoreKey → Prop) => ∀ w, s.who w.gid = some w → w.g.done = false → f w.core → w.team.retired = false → w.team.frame = none → w.gid ∈ w.team.groups →
      (∃ y, aget t.teams w.g.team = some y ∧ y.lost = true) ∧ ∃ g p, aget t.groups w.gid = some g ∧ g.park = some p ∧ p.cause.code = 0x0D
    (∀ word, 32 * word < s.hbmSize ∨ (tierBase ≤ 32 * word ∧ 32 * word < tierEnd) → Leads (exec (.patrolScrub word) s) fun t => { t with ecc := s.ecc } = s ∧
      (∀ n, aget s.ecc word = some (.bit n) → aget t.ecc word = none) ∧ (aget s.ecc word = some .broken → aget t.ecc word = some .poisoned) ∧
      (aget s.ecc word = none ∨ aget s.ecc word = some .poisoned → t = s) ∧ ∀ j, j ≠ word → aget t.ecc j = aget s.ecc j) ∧
    (d < 16 → die.inService = true → Leads (exec (.dieLoss d) s) fun t => (t.die d).inService = false ∧ (∀ j, j ≠ d → (t.die j).inService = (s.die j).inService) ∧ t.cfgPending = s.cfgPending + 1 ∧
      (s.servingDies ≤ 12 → t.lost = true) ∧ (12 < s.servingDies → t.lost = s.lost) ∧ parks t (fun c => c.die = d) ∧ (lone (fun c => c.die = d) → t.mem = s.mem ∧ t.groups = s.groups)) ∧
    ((16 ≤ d ∨ die.inService = false) → exec (.dieLoss d) s = .next s) ∧
    (k.die < 16 → k.col < 16 → k.row < 10 → (s.core k).dead = false → (s.die k.die).inService = true → Leads (exec (.coreRetire k) s) fun t => (t.core k).dead = true ∧ t.cfgPending = s.cfgPending + 1 ∧
      parks t (fun c => c = k) ∧ (lone (fun c => c = k) → (s.die k.die).dead = [] → t.mem = s.mem ∧ t.groups = s.groups) ∧
      ((s.die k.die).dead = [] → (t.die k.die).dead = [(k.col, k.row)] ∧ (t.die k.die).renumber = true ∧ (t.die k.die).inService = true)) ∧
    ((s.core k).dead = true → exec (.coreRetire k) s = .next s) ∧
    (d < 16 → die.inService = true → slice < (if die.n480 then 480 else 512) → die.sdead < 48 → Leads (exec (.l2SliceFailure d slice) s) fun t => (t.die d).sdead = die.sdead + 1 ∧ (t.die d).inService = true ∧
      t.cfgPending = s.cfgPending + 1 ∧ t.mem = s.mem ∧ t.groups = s.groups ∧
      ∀ ln ∈ s.l2dirty, if s.homeDie (128 * ln) = d ∧ s.homeSlice (128 * ln) = slice then ln ∉ t.l2dirty ∧ ∀ i, i < 128 → t.poisonAt (128 * ln + i) = true else ln ∈ t.l2dirty) ∧
    (d < 16 → die.inService = true → die.n480 = false → 16 ≤ die.sdead → s.advances = [] → Leads (exec (.slice480Switch d) s) fun t => (t.die d).n480 = true ∧ t.cfgPending = s.cfgPending + 1 ∧ t.mem = s.mem ∧
      t.groups = s.groups ∧ (∀ ln ∈ t.l2dirty, s.homeDie (128 * ln) ≠ d) ∧ ∀ g ∈ s.l2tierDirty, s.homeDie (64 * g) = d → ∃ x ∈ t.images, x.granule = g ∧ x.bytes = cellsRead s.mem (64 * g) 64) ∧
    (die.sdead < 16 → exec (.slice480Switch d) s = .next s) ∧
    (∀ stack lines n, stack < 16 → (aget s.pcdead stack).getD 0 = n → Leads (exec (.pseudoChannelFailure stack lines) s) fun t => aget t.pcdead stack = some (n + 1) ∧ t.mem = s.mem ∧ t.groups = s.groups ∧
      t.hbmSize ≤ s.hbmSize ∧ t.hbmSize ≤ 33554432 * (32768 * (191 - n) / 192) ∧ t.cfgPending = s.cfgPending + 1 ∧ (16 ≤ n → t.lost = true) ∧ (n < 16 → t.lost = s.lost) ∧
      (∀ ln ∈ lines, 128 * ln < t.hbmSize → ln ∉ s.l2dirty → ∀ i, i < 128 → t.poisonAt (128 * ln + i) = true) ∧
      ∀ a, (∀ ln ∈ lines, a / 128 ≠ ln) → t.poisonAt a = s.poisonAt a) ∧
    (s.tables.writing = none → s.cfgPending ≠ 0 → Leads (exec .retirementTableUpdate s) fun t =>
      let signed := decide (s.mbox.tableLeaf < 1048576)
      (∃ x, t.tables.writing = some (s.tables.target signed, x) ∧ x.gen = s.cfggen + 1 ∧ x.signed = signed ∧ x.entries = s.tables.entries.take (s.tables.entries.length + 1 - s.cfgPending)) ∧
        t.mbox = { s.mbox with tableLeaf := s.mbox.tableLeaf + if signed then 1 else 0 } ∧ { t with tables := s.tables, mbox := s.mbox } = s) ∧
    (∀ b x, s.tables.writing = some (b, x) → Leads (exec .retirementTableUpdate s) fun t => t.cfggen = x.gen ∧ t.cfgPending = s.cfgPending - 1 ∧ ((aget t.ints 0).getD {}).pend = true ∧
      t.tables.current = x ∧ t.tables.useB = b ∧ t.tables.writing = none ∧
      { t with cfggen := s.cfggen, cfgPending := s.cfgPending, tables := s.tables, ints := s.ints, hostOut := s.hostOut } = s) ∧
    (s.tables.writing = none → s.cfgPending = 0 → exec .retirementTableUpdate s = .next s)

/-! ## The distributor -/

/-- R26, R27, R55 to R59, R61, R62, R70: a queue's slot is read, each 8-byte field once, some at a time (which, log 81: a free value), and with the last its record is accepted or answered with its
status, 0x13 when it cannot be read; the head of the kernel queue becomes that queue's candidate; a launch starts when its WAIT bits are all set, and CLEAR is applied in the same step; a launch that is over sets its SET bits and
posts its record. -/
def Obligations.LaunchesAreTakenStartedAndCompleted : Prop :=
  ∀ (s : State) (c : BitVec 6) (q : BitVec 3) (r : LaunchRec),
    let x := s.ctx c.toNat
    let h := (aget x.queues q.toNat).getD {}
    let drawn := { s with fresh := s.fresh + 1 }
    let fields := s.fieldsNow h.part
    let moved := drawn.setCtx c.toNat { x with queues := aset x.queues q.toNat { h with head := h.head + 1, part := [] } }
    let rec_ := fun (queue : Nat) (slot : Word) (st : BitVec 8) (ctag : DWord) (info : Nat) =>
      ({ typ := 1, status := st, queue := BitVec.ofNat 4 queue, slot := slot, ctag := ctag, time := BitVec.ofNat 64 s.cycle, info := BitVec.ofNat 64 info } : CompRec)
    let accepts := fun (o : Out) (u : State) (queue : Nat) (slot : Word) (lr : LaunchRec) => o = .next { u with nextId := s.nextId + 1, launches := aset s.launches s.nextId { ctx := c.toNat, queue := queue, slot := slot, lrec := lr, ageFrom := s.cycle } }
    (x.en = true → h.head ≠ h.tail →
      (∀ pa part, drawn.slotPlace c.toNat h = .ok (.home pa) → drawn.readFields pa fields h.part = some part →
        (∀ i, i < 16 → aget part i = if fields.getLsbD i = true ∧ aget h.part i = none then drawn.homeDWord (pa + 8 * i) else aget h.part i) ∧
        ((∃ i, i < 16 ∧ aget part i = none) → exec (.queueSlotRead c q) s = .next (drawn.setCtx c.toNat { x with queues := aset x.queues q.toNat { h with part := part } })) ∧
        ((∀ i, i < 16 → aget part i ≠ none) → r = { w := (List.range 16).map fun i => (i, (aget part i).getD 0) } →
          (r.fault = none → accepts (exec (.queueSlotRead c q) s) moved q.toNat h.head r) ∧
          (∀ st, r.fault = some st → exec (.queueSlotRead c q) s = .next (moved.postRecord c.toNat (rec_ q.toNat h.head st r.ctag 0))))) ∧
      (∀ pa, drawn.slotPlace c.toNat h = .ok (.home pa) → drawn.readFields pa fields h.part = none → exec (.queueSlotRead c q) s = .next (drawn.refuseSlot c.toNat q.toNat)) ∧
      (∀ code, drawn.slotPlace c.toNat h = .error code → exec (.queueSlotRead c q) s = .next ((drawn.noteWorld code).refuseSlot c.toNat q.toNat)) ∧
      (∀ pkg pa, drawn.slotPlace c.toNat h = .ok (.remote pkg pa) → Leads (exec (.queueSlotRead c q) s) fun t => t.mem = s.mem ∧ t.launches = s.launches ∧ t.ctxs = s.ctxs ∧
        ∀ i, i < 16 → fields.getLsbD i = true → aget h.part i = none → ∃ d ∈ t.devAsks, d.2 = .slot c.toNat q.toNat i)) ∧
    ((∃ i, i < 16 ∧ aget h.part i = none) → ∃ i, i < 16 ∧ fields.getLsbD i = true ∧ aget h.part i = none) ∧
    (∀ v : State, v.devAsks = [] →
      let y := v.ctx c.toNat
      let hq : HostQueue := (aget y.queues q.toNat).getD ({} : HostQueue)
      v.refuseSlot c.toNat q.toNat = (v.setCtx c.toNat { y with queues := aset y.queues q.toNat { hq with head := hq.head + 1, part := [] } }).postRecord c.toNat
        { typ := 1, status := 0x13, queue := BitVec.ofNat 4 q.toNat, slot := hq.head, ctag := 0, time := BitVec.ofNat 64 v.cycle, info := 0 }) ∧
    (x.en = false ∨ h.head = h.tail → exec (.queueSlotRead c q) s = .next s) ∧
    (∀ e rest, x.kq = e :: rest → x.en = true → s.candidate c.toNat 8 = none → e.lrec.fault = none → accepts (exec (.kernelQueueTake c) s) s 8 e.slot e.lrec) ∧
    (∀ e, s.candidate c.toNat 8 = some e → exec (.kernelQueueTake c) s = .next s) ∧
    (∀ (n : BitVec 4) id l, s.settleAges.candidate c.toNat n.toNat = some (id, l) → s.settleAges.waitMet l = true → s.settleAges.earlierCandidate id l = false → Leads (exec (.launchStart c n) s) fun t =>
      t.mem = s.mem ∧ t.groups = s.groups ∧ (∃ y, aget t.launches id = some y ∧ y.started = true ∧ y.lrec = l.lrec ∧ y.ctx = l.ctx ∧ y.queue = l.queue) ∧
      (t.ctx c.toNat) = { x with ev := x.ev &&& ~~~(l.lrec.clear.setWidth 256 <<< (64 * l.lrec.cwin)), kq := if l.queue = 8 then x.kq.drop 1 else x.kq }) ∧
    (∀ l : Launch, s.waitMet l = true ↔ (s.ctx l.ctx).en = true ∧ (s.ctx l.ctx).halt = false ∧ ∀ i, i < 64 → l.lrec.wait.getLsbD i = true → (s.ctx l.ctx).ev.getLsbD (64 * l.lrec.wwin + i) = true) ∧
    (∀ (n : BitVec 4) id l, s.settleAges.candidate c.toNat n.toNat = some (id, l) → s.settleAges.waitMet l = false → exec (.launchStart c n) s = .next s.settleAges) ∧
    (∀ id l, aget s.launches id = some l → Leads (exec (.ageingStep id) s) fun t => aget t.launches id = some { l with aged := (s.cycle - l.ageFrom) / 2 ^ 20 - 1 } ∧ { t with launches := s.launches } = s) ∧
    (∀ id l, aget s.launches id = some l → l.started = true → s.hasNext id l = false → s.launchBusy id = false → s.teams = [] → Leads (exec (.launchComplete id) s) fun t =>
      let e := (s.ctx l.ctx).ev ||| (l.lrec.set.setWidth 256 <<< (64 * l.lrec.swin))
      let u := ({ s with launches := adel s.launches id, clusters := s.clusters.filter fun y => y.2.launch ≠ id }.setCtx l.ctx { s.ctx l.ctx with ev := e }).postRecord l.ctx
        (rec_ l.queue l.slot (if l.kills = 0 then 0x00 else 0x10) l.lrec.ctag l.kills)
      t.mem = u.mem ∧ t.ctxs = u.ctxs ∧ (t.ctx l.ctx).ev = e ∧ aget t.launches id = none ∧ ∀ j, j ≠ id → aget t.launches j = aget s.launches j) ∧
    (∀ id l, aget s.launches id = some l → s.hasNext id l = true → exec (.launchComplete id) s = .next s)

/-! ## Pre-emption -/

/-- R19, R30, R63, R66, R69, R72, R73, R75, R156, R367, R394: a cluster is placed whole on the rectangle that it fits, its groups with the register values of R30, its scratchpad on the lowest free run; a launch that has failed to fit for 2^22 cycles reserves; a die that no team stands on is numbered anew; a
group whose stream has ended retires when nothing of it is left, after raising a cause still held.

R76 to R78, R323, R325, R389 to R391: a launch whose next cluster does not fit stops a victim; the victim is saved once it is quiet and its cores' dirty words are written back, its teams then standing on no core with their frames in memory; a group parked meanwhile ends the pre-emption; a saved cluster resumes on a
rectangle that it fits, with its registers unchanged when its frame is intact. -/
def Obligations.PlacementRetirementAndPreemption : Prop :=
  (∀ (s : State) (id : Nat) (l : Launch) (die col row : Nat),
    let u := s.settleAges.refit
    let place := aget u.launches id = some l ∧ u.hasNext id l = true ∧ u.oldestSaved id = none ∧ u.rectFits l die col row = true ∧ u.mayPlace id l = true
    (place → Leads (exec (.clusterPlace id die col row) s) fun t => t.mem = s.mem ∧ ∃ y, aget t.clusters s.nextId = some y ∧ y.launch = id ∧ y.ord = l.placed ∧ y.die = die ∧ y.col = col ∧ y.row = row ∧
      y.teams.length = l.lrec.cluw * l.lrec.cluh ∧ ∃ v, aget t.launches id = some v ∧ v.placed = l.placed + 1 ∧ v.lrec = l.lrec) ∧
    (place → l.lrec.cluw = 1 → l.lrec.cluh = 1 → l.lrec.lanes = l.lrec.width → l.lrec.rgn = false → Leads (exec (.clusterPlace id die col row) s) fun t => ∃ y tid x gid g, aget t.clusters s.nextId = some y ∧ y.teams = [tid] ∧
      aget t.teams tid = some x ∧ x.core = s.physCore die col row ∧ x.groups = [gid] ∧ x.live = l.lrec.lanes ∧ some x.base = u.roomOn x.core l.lrec ∧
      x.x + l.lrec.gridx * (x.y + l.lrec.gridy * x.z) = l.placed ∧ aget t.groups gid = some g ∧ g.team = tid ∧ g.spc = BitVec.ofNat 64 (l.lrec.sbase.toNat + 4 * l.lrec.sentry) ∧
      g.sget 1 = l.lrec.karg ∧ g.sget 2 = l.lrec.rodata ∧ g.sget 3 = BitVec.ofNat 64 x.x ∧ g.sget 4 = BitVec.ofNat 64 x.y ∧ g.sget 5 = BitVec.ofNat 64 x.z ∧ g.sget 6 = 0 ∧ g.sget 7 = 0x1010000 ∧
      (∀ k : SReg, g.sfull k = true) ∧ g.inHandler = false ∧ ∀ n, n < l.lrec.width → (g.lane n).get 0 = BitVec.ofNat 32 n ∧ (g.lane n).life = .live ∧
        (g.lane n).get 1 = BitVec.ofNat 32 (n % l.lrec.teamx + n / l.lrec.teamx % l.lrec.teamy * 2 ^ 10 + n / (l.lrec.teamx * l.lrec.teamy) * 2 ^ 20)) ∧
    (aget u.launches id = some l → u.rectFits l die col row = false → exec (.clusterPlace id die col row) s = .next u) ∧
    (∀ c, aget u.launches id = some l → l.failSince = some c → c + 2 ^ 22 ≤ s.cycle → Leads (exec (.placementReservation id) s) fun t =>
      aget t.launches id = some { l with reserved := true } ∧ { t with launches := s.launches } = s) ∧
    ((s.die die).renumber = true → (s.die die).inService = true → (∀ x ∈ s.teams, x.2.retired = true ∨ x.2.core.die ≠ die) → (s.die die).dead = [(col, row)] → row < 10 → col < 16 → Leads (exec (.dieRenumber die) s) fun t =>
      (t.die die).renumber = false ∧ (t.die die).width = 15 ∧ t.mem = s.mem ∧ t.groups = s.groups ∧
      ∀ n, n < 10 → aget (t.die die).colmap n = some (if n = row then (List.range 16).filter (· ≠ col) else List.range 15)) ∧
    (∀ x ∈ s.teams, x.2.retired = false → x.2.core.die = die → exec (.dieRenumber die) s = .next s) ∧
    (∀ w, s.who w.gid = some w → w.g.sExited = true → s.mayIssue w.g = true →
      (w.g.late = [] → s.groupBusy w.gid w.g = false → LocalNet s → s.streams = [] → Leads (exec (.groupRetire w.gid) s) fun t => t.mem = s.mem ∧ ∃ g, aget t.groups w.gid = some g ∧ g.done = true ∧ g.region = none ∧
        ((∀ j ∈ w.team.groups, j = w.gid) → w.team.retired = false → ∃ y, aget t.teams w.g.team = some y ∧ y.retired = true)) ∧
      (w.g.late = [] → s.groupBusy w.gid w.g = true → exec (.groupRetire w.gid) s = .next s) ∧
      (∀ cause rest, w.g.late = cause :: rest → Leads (exec (.groupRetire w.gid) s) fun t => ∃ g p, aget t.groups w.gid = some g ∧ g.late = rest ∧ g.park = some p ∧ p.cause = cause ∧ g.trap.pc = cause.pc))) ∧
  (∀ (s : State) (id cl : Nat) (l : Launch) (x : Cluster),
    let u := s.settleAges
    (∀ victim, aget u.launches id = some l → aget u.clusters cl = some x → x.launch = victim → u.hasNext id l = true → u.firstFit id l = none → u.isVictim id l cl = true → Leads (exec (.preempt id victim cl) s) fun t =>
      aget t.clusters cl = some { x with stopping := true } ∧ { t with clusters := s.clusters, launches := s.launches } = s) ∧
    (∀ victim r, aget u.launches id = some l → aget u.clusters cl = some x → u.firstFit id l = some r → exec (.preempt id victim cl) s = .next u) ∧
    (∀ victim, aget u.launches id = some l → aget u.clusters cl = some x → u.eligible l (cl, x) = false → (∀ y ∈ s.clusters, y.1 = cl → y.2 = x) → exec (.preempt id victim cl) s = .next u) ∧
    (aget s.launches id = some l → aget s.clusters cl = some x → x.launch = id → x.stopping = true →
      ((∃ g ∈ s.clusterGroups x, g.2.park.isSome = true) → exec (.preemptSave id cl) s = .next { s with clusters := aset s.clusters cl { x with stopping := false } }) ∧
      ((∀ g ∈ s.clusterGroups x, g.2.park = none) → ((∃ g ∈ s.clusterGroups x, s.quietGroup g = false) ∨ ∃ g ∈ s.clusterAll x, g.2.done = true ∧ s.groupBusy g.1 g.2 = true) → exec (.preemptSave id cl) s = .next s) ∧
      (∀ s1, (∀ g ∈ s.clusterGroups x, g.2.park = none ∧ s.quietGroup g = true) → (∀ g ∈ s.clusterAll x, g.2.done = true → s.groupBusy g.1 g.2 = false) →
        (∀ t ∈ s.liveTeams x, ∀ y ∈ (s.core t.2.core).l1, y.isDirty = false) →
        (∀ m ∈ s.net, m.2.isWriteBack = false) → s.saveTeams l (s.liveTeams x) = some s1 → Leads (exec (.preemptSave id cl) s) fun t =>
          aget t.clusters cl = some { x with stopping := false, saved := true, savedAt := s.cycle } ∧ t.mem = s1.mem ∧ t.teams = s1.teams ∧ t.groups = s1.groups ∧
          ∃ y, aget t.launches id = some y ∧ y.ageFrom = s.cycle ∧ y.aged = 0 ∧ y.lrec = l.lrec)) ∧
    (∀ tid team, let s0 := { s.settleTeam team with fresh := s.fresh + 2 ^ 22 }
      s.saveTeams l [(tid, team)] = none ↔ s0.writeFrame l.ctx (s.freeFrame l.ctx) (s0.frameOf { team with frameSeed := s.fresh } l) = none) ∧
    (∀ tid team s1, s.saveTeams l [(tid, team)] = some s1 → ∃ y, aget s1.teams tid = some y ∧ y.core = nowhere ∧ y.frame = some (s.freeFrame l.ctx) ∧ y.sp = team.sp ∧ (l.ctx, s.freeFrame l.ctx) ∈ s1.frames) ∧
    (∀ die col row tid team gid g, let v := s.settleAges.refit
      aget v.launches id = some l → v.oldestSaved id = some (cl, x) → v.nextFits id l die col row = true → v.mayPlace id l = true → v.liveTeams x = [(tid, team)] →
      team.groups = [gid] → aget s.groups gid = some g → g.done = false → s.frameIntact l.ctx (team.frame.getD 0) (s.frameOf team l) = true → Leads (exec (.clusterResume id cl die col row) s) fun t => t.mem = s.mem ∧
        (∃ y, aget t.clusters cl = some y ∧ y.saved = false ∧ y.die = die ∧ y.col = col ∧ y.row = row) ∧
        (∃ y, aget t.teams tid = some y ∧ y.core = s.physCore die (col + team.member % l.lrec.cluw) (row + team.member / l.lrec.cluw) ∧ y.frame = none ∧ y.sp = team.sp ∧ y.groups = [gid]) ∧
        ∃ h, aget t.groups gid = some h ∧ h.sregs = g.sregs ∧ h.lanes = g.lanes ∧ h.spc = g.spc ∧ h.guards = g.guards ∧ h.trap = g.trap ∧
          ((∀ q ∈ s.reqs, q.2.gid ≠ gid) → h.sfe = g.sfe ∧ h.vfe = g.vfe)))

/-! ## Empty registers -/

/-- The instruction does not issue: its group changes only in what it notes of its waits, the stream position is marked stalled, and nothing else of the state changes. -/
def DoesNotIssue (s : State) (o : Out) (gid : Nat) (g : Group) : Prop :=
  ∃ t h, o = .next t ∧ aget t.groups gid = some h ∧ { h with waits := g.waits } = g ∧ (∀ j, j ≠ gid → aget t.groups j = aget s.groups j) ∧
    t.cur = s.cur.map (fun c => { c with stalled := true }) ∧ { t with groups := s.groups, cur := s.cur } = s

/-- R85, R87, R162: what an empty register does, said of the words `add` and `addi`, the branch, and the lane instructions `add` and `mad`: an S word with an empty source or destination does not issue; a lane instruction with an empty destination does not, nor one with an empty
source whose mode bit is 0; with every empty source's bit 1 and its destination full it takes the empty-operand trap when a lane is active, and otherwise goes on with no effect. -/
def Obligations.FullEmptyRules : Prop :=
  (∀ (s : State) (w : Who) (wide : Bool) (d a b : SReg) (imm : BitVec 14) (cond : BrCond) (off : BitVec 11), s.cur = some { gid := w.gid } → s.who w.gid = some w →
    let waits := fun (i : Instr) => DoesNotIssue s (exec i s) w.gid w.g
    ((w.g.sfull d = false ∨ w.g.sfull a = false ∨ w.g.sfull b = false) → waits (.add wide d a b)) ∧ ((w.g.sfull d = false ∨ w.g.sfull a = false) → waits (.addi d a imm)) ∧
    ((w.g.sfull a = false ∨ w.g.sfull b = false) → waits (.br cond a b off))) ∧
  (∀ (s : State) (f : LF) (c : LaneCtx), LaneReady s f {} c → f.bsel = .vec → f.csel = .vec →
    let full := fun (r : VReg) => c.who.g.vfull r.toNat
    let has := fun (r : VReg) => r.toNat < c.who.lrec.regsAlloc
    let waits := fun (i : Instr) => DoesNotIssue s (exec i s) c.who.gid c.who.g
    has f.d → has f.a → has f.b → (needs f true true true false).illegal c = false →
    ((full f.d = false ∨ (full f.a = false ∧ f.feA = false) ∨ (full f.b = false ∧ f.feB = false)) → waits (.lAdd f)) ∧
    (full f.d = true → (full f.a = false ∨ full f.b = false) → (full f.a = true ∨ f.feA = true) → (full f.b = true ∨ f.feB = true) →
      (c.act ≠ [] → LaneTraps s c (exec (.lAdd f) s) 0x02 0) ∧ (c.act = [] → exec (.lAdd f) s = s.laneNext c c.who.g)) ∧
    (has f.c → (needs f true true true true).illegal c = false →
      ((full f.d = false ∨ (full f.a = false ∧ f.feA = false) ∨ (full f.b = false ∧ f.feB = false) ∨ (full f.c = false ∧ f.feC = false)) → waits (.lMad f)) ∧
      (full f.d = true → (full f.a = false ∨ full f.b = false ∨ full f.c = false) → (full f.a = true ∨ f.feA = true) → (full f.b = true ∨ f.feB = true) → (full f.c = true ∨ f.feC = true) →
        (c.act ≠ [] → LaneTraps s c (exec (.lMad f) s) 0x02 0) ∧ (c.act = [] → exec (.lMad f) s = s.laneNext c c.who.g))))
end

