-- ==== Sys2Proof/Laws/Exec.lean ====
section
/-!
SUPPORT. The meaning of each constructor of `Instr`, one lemma each, so that no proof unfolds the dispatch.
-/
namespace Sys2Proof.Machine

@[simp] theorem exec_add (w : Bool) (d a b : SReg) (s : State) : exec (.add w d a b) s = execAdd w d a b s := rfl
@[simp] theorem exec_sub (w : Bool) (d a b : SReg) (s : State) : exec (.sub w d a b) s = execSub w d a b s := rfl
@[simp] theorem exec_mul (w : Bool) (d a b : SReg) (s : State) : exec (.mul w d a b) s = execMul w d a b s := rfl
@[simp] theorem exec_mulhI (w : Bool) (d a b : SReg) (s : State) : exec (.mulhI w d a b) s = execMulhI w d a b s := rfl
@[simp] theorem exec_mulhN (w : Bool) (d a b : SReg) (s : State) : exec (.mulhN w d a b) s = execMulhN w d a b s := rfl
@[simp] theorem exec_divI (w : Bool) (d a b : SReg) (s : State) : exec (.divI w d a b) s = execDivI w d a b s := rfl
@[simp] theorem exec_divN (w : Bool) (d a b : SReg) (s : State) : exec (.divN w d a b) s = execDivN w d a b s := rfl
@[simp] theorem exec_remI (w : Bool) (d a b : SReg) (s : State) : exec (.remI w d a b) s = execRemI w d a b s := rfl
@[simp] theorem exec_remN (w : Bool) (d a b : SReg) (s : State) : exec (.remN w d a b) s = execRemN w d a b s := rfl
@[simp] theorem exec_and (w : Bool) (d a b : SReg) (s : State) : exec (.and w d a b) s = execAnd w d a b s := rfl
@[simp] theorem exec_or (w : Bool) (d a b : SReg) (s : State) : exec (.or w d a b) s = execOr w d a b s := rfl
@[simp] theorem exec_xor (w : Bool) (d a b : SReg) (s : State) : exec (.xor w d a b) s = execXor w d a b s := rfl
@[simp] theorem exec_andn (w : Bool) (d a b : SReg) (s : State) : exec (.andn w d a b) s = execAndn w d a b s := rfl
@[simp] theorem exec_shl (w : Bool) (d a b : SReg) (s : State) : exec (.shl w d a b) s = execShl w d a b s := rfl
@[simp] theorem exec_shr (w : Bool) (d a b : SReg) (s : State) : exec (.shr w d a b) s = execShr w d a b s := rfl
@[simp] theorem exec_sra (w : Bool) (d a b : SReg) (s : State) : exec (.sra w d a b) s = execSra w d a b s := rfl
@[simp] theorem exec_minI (w : Bool) (d a b : SReg) (s : State) : exec (.minI w d a b) s = execMinI w d a b s := rfl
@[simp] theorem exec_maxI (w : Bool) (d a b : SReg) (s : State) : exec (.maxI w d a b) s = execMaxI w d a b s := rfl
@[simp] theorem exec_minN (w : Bool) (d a b : SReg) (s : State) : exec (.minN w d a b) s = execMinN w d a b s := rfl
@[simp] theorem exec_maxN (w : Bool) (d a b : SReg) (s : State) : exec (.maxN w d a b) s = execMaxN w d a b s := rfl
@[simp] theorem exec_sltI (w : Bool) (d a b : SReg) (s : State) : exec (.sltI w d a b) s = execSltI w d a b s := rfl
@[simp] theorem exec_sltN (w : Bool) (d a b : SReg) (s : State) : exec (.sltN w d a b) s = execSltN w d a b s := rfl
@[simp] theorem exec_seq (w : Bool) (d a b : SReg) (s : State) : exec (.seq w d a b) s = execSeq w d a b s := rfl
@[simp] theorem exec_clz (w : Bool) (d a : SReg) (s : State) : exec (.clz w d a) s = execClz w d a s := rfl
@[simp] theorem exec_popc (w : Bool) (d a : SReg) (s : State) : exec (.popc w d a) s = execPopc w d a s := rfl
@[simp] theorem exec_addi (d a : SReg) (imm : BitVec 14) (s : State) : exec (.addi d a imm) s = execAddi d a imm s := rfl
@[simp] theorem exec_andi (d a : SReg) (imm : BitVec 14) (s : State) : exec (.andi d a imm) s = execAndi d a imm s := rfl
@[simp] theorem exec_ori (d a : SReg) (imm : BitVec 14) (s : State) : exec (.ori d a imm) s = execOri d a imm s := rfl
@[simp] theorem exec_xori (d a : SReg) (imm : BitVec 14) (s : State) : exec (.xori d a imm) s = execXori d a imm s := rfl
@[simp] theorem exec_shli (d a : SReg) (n : BitVec 6) (s : State) : exec (.shli d a n) s = execShli d a n s := rfl
@[simp] theorem exec_shri (d a : SReg) (n : BitVec 6) (s : State) : exec (.shri d a n) s = execShri d a n s := rfl
@[simp] theorem exec_srai (d a : SReg) (n : BitVec 6) (s : State) : exec (.srai d a n) s = execSrai d a n s := rfl
@[simp] theorem exec_rotli (d a : SReg) (n : BitVec 6) (s : State) : exec (.rotli d a n) s = execRotli d a n s := rfl
@[simp] theorem exec_lui (d : SReg) (imm : BitVec 20) (s : State) : exec (.lui d imm) s = execLui d imm s := rfl
@[simp] theorem exec_lhi (d : SReg) (imm : BitVec 20) (s : State) : exec (.lhi d imm) s = execLhi d imm s := rfl
@[simp] theorem exec_slti (d a : SReg) (imm : BitVec 14) (s : State) : exec (.slti d a imm) s = execSlti d a imm s := rfl
@[simp] theorem exec_fadd (d a b : SReg) (s : State) : exec (.fadd d a b) s = execFadd d a b s := rfl
@[simp] theorem exec_fsub (d a b : SReg) (s : State) : exec (.fsub d a b) s = execFsub d a b s := rfl
@[simp] theorem exec_fmul (d a b : SReg) (s : State) : exec (.fmul d a b) s = execFmul d a b s := rfl
@[simp] theorem exec_fmac (d a b : SReg) (s : State) : exec (.fmac d a b) s = execFmac d a b s := rfl
@[simp] theorem exec_fmin (d a b : SReg) (s : State) : exec (.fmin d a b) s = execFmin d a b s := rfl
@[simp] theorem exec_fmax (d a b : SReg) (s : State) : exec (.fmax d a b) s = execFmax d a b s := rfl
@[simp] theorem exec_fsqrt (d a : SReg) (s : State) : exec (.fsqrt d a) s = execFsqrt d a s := rfl
@[simp] theorem exec_fdiv (d a b : SReg) (s : State) : exec (.fdiv d a b) s = execFdiv d a b s := rfl
@[simp] theorem exec_fcvtI (d a : SReg) (s : State) : exec (.fcvtI d a) s = execFcvtI d a s := rfl
@[simp] theorem exec_icvtF (d a : SReg) (s : State) : exec (.icvtF d a) s = execIcvtF d a s := rfl
@[simp] theorem exec_flt (d a b : SReg) (s : State) : exec (.flt d a b) s = execFlt d a b s := rfl
@[simp] theorem exec_feq (d a b : SReg) (s : State) : exec (.feq d a b) s = execFeq d a b s := rfl
@[simp] theorem exec_ld (size : BitVec 2) (t a : SReg) (mode : SMode) (s : State) : exec (.ld size t a mode) s = execLd size t a mode s := rfl
@[simp] theorem exec_ldx (size : BitVec 2) (t a : SReg) (mode : SMode) (s : State) : exec (.ldx size t a mode) s = execLdx size t a mode s := rfl
@[simp] theorem exec_st (size : BitVec 2) (t a : SReg) (mode : SMode) (s : State) : exec (.st size t a mode) s = execSt size t a mode s := rfl
@[simp] theorem exec_br (cond : BrCond) (a b : SReg) (off : BitVec 11) (s : State) : exec (.br cond a b off) s = execBr cond a b off s := rfl
@[simp] theorem exec_jmp (off : BitVec 26) (s : State) : exec (.jmp off) s = execJmp off s := rfl
@[simp] theorem exec_call (off : BitVec 26) (s : State) : exec (.call off) s = execCall off s := rfl
@[simp] theorem exec_jr (a : SReg) (s : State) : exec (.jr a) s = execJr a s := rfl
@[simp] theorem exec_ret (s : State) : exec .ret s = execRet s := rfl
@[simp] theorem exec_dcall (a : SReg) (s : State) : exec (.dcall a) s = execDcall a s := rfl
@[simp] theorem exec_djmp (a : SReg) (s : State) : exec (.djmp a) s = execDjmp a s := rfl
@[simp] theorem exec_lrun (g : GuardSel) (off : BitVec 21) (s : State) : exec (.lrun g off) s = execLrun g off s := rfl
@[simp] theorem exec_gset (slot : BitVec 4) (a : SReg) (s : State) : exec (.gset slot a) s = execGset slot a s := rfl
@[simp] theorem exec_gnot (slot : BitVec 4) (a : SReg) (s : State) : exec (.gnot slot a) s = execGnot slot a s := rfl
@[simp] theorem exec_gfree (slot : BitVec 4) (s : State) : exec (.gfree slot) s = execGfree slot s := rfl
@[simp] theorem exec_mld (g : GuardSel) (a : SReg) (s : State) : exec (.mld g a) s = execMld g a s := rfl
@[simp] theorem exec_mldPair (g : GuardSel) (a : SReg) (s : State) : exec (.mldPair g a) s = execMldPair g a s := rfl
@[simp] theorem exec_mmul (g : GuardSel) (a : SReg) (s : State) : exec (.mmul g a) s = execMmul g a s := rfl
@[simp] theorem exec_mmt (g : GuardSel) (a : SReg) (s : State) : exec (.mmt g a) s = execMmt g a s := rfl
@[simp] theorem exec_mfence (g : GuardSel) (a b : SReg) (s : State) : exec (.mfence g a b) s = execMfence g a b s := rfl
@[simp] theorem exec_mrel (g : GuardSel) (s : State) : exec (.mrel g) s = execMrel g s := rfl
@[simp] theorem exec_ofence (g : GuardSel) (s : State) : exec (.ofence g) s = execOfence g s := rfl
@[simp] theorem exec_cpt (g : GuardSel) (a b : SReg) (s : State) : exec (.cpt g a b) s = execCpt g a b s := rfl
@[simp] theorem exec_cptIdx (g : GuardSel) (a b : SReg) (s : State) : exec (.cptIdx g a b) s = execCptIdx g a b s := rfl
@[simp] theorem exec_cptWs (g : GuardSel) (a b : SReg) (s : State) : exec (.cptWs g a b) s = execCptWs g a b s := rfl
@[simp] theorem exec_cptP (g : GuardSel) (a b : SReg) (s : State) : exec (.cptP g a b) s = execCptP g a b s := rfl
@[simp] theorem exec_pbar (g : GuardSel) (b : SReg) (s : State) : exec (.pbar g b) s = execPbar g b s := rfl
@[simp] theorem exec_xmar (g : GuardSel) (a b : SReg) (s : State) : exec (.xmar g a b) s = execXmar g a b s := rfl
@[simp] theorem exec_xred (g : GuardSel) (a b : SReg) (s : State) : exec (.xred g a b) s = execXred g a b s := rfl
@[simp] theorem exec_xnorm (g : GuardSel) (a b : SReg) (s : State) : exec (.xnorm g a b) s = execXnorm g a b s := rfl
@[simp] theorem exec_xbar (g : GuardSel) (a b : SReg) (s : State) : exec (.xbar g a b) s = execXbar g a b s := rfl
@[simp] theorem exec_fenceRel (scope : Scope) (s : State) : exec (.fenceRel scope) s = execFenceRel scope s := rfl
@[simp] theorem exec_fenceAcq (scope : Scope) (s : State) : exec (.fenceAcq scope) s = execFenceAcq scope s := rfl
@[simp] theorem exec_fenceAr (scope : Scope) (s : State) : exec (.fenceAr scope) s = execFenceAr scope s := rfl
@[simp] theorem exec_binit (a b : SReg) (s : State) : exec (.binit a b) s = execBinit a b s := rfl
@[simp] theorem exec_bexp (a b : SReg) (s : State) : exec (.bexp a b) s = execBexp a b s := rfl
@[simp] theorem exec_barr (d a : SReg) (s : State) : exec (.barr d a) s = execBarr d a s := rfl
@[simp] theorem exec_bwait (a b : SReg) (s : State) : exec (.bwait a b) s = execBwait a b s := rfl
@[simp] theorem exec_btest (d a b : SReg) (s : State) : exec (.btest d a b) s = execBtest d a b s := rfl
@[simp] theorem exec_rndReg (d a b : SReg) (s : State) : exec (.rndReg d a b) s = execRndReg d a b s := rfl
@[simp] theorem exec_rndAdv (a b : SReg) (s : State) : exec (.rndAdv a b) s = execRndAdv a b s := rfl
@[simp] theorem exec_rndGet (d a : SReg) (s : State) : exec (.rndGet d a) s = execRndGet d a s := rfl
@[simp] theorem exec_rndFlr (d a b : SReg) (s : State) : exec (.rndFlr d a b) s = execRndFlr d a b s := rfl
@[simp] theorem exec_csrr (d : SReg) (num : BitVec 14) (s : State) : exec (.csrr d num) s = execCsrr d num s := rfl
@[simp] theorem exec_csrwSempty (a : SReg) (s : State) : exec (.csrwSempty a) s = execCsrwSempty a s := rfl
@[simp] theorem exec_csrwCgseed (a : SReg) (s : State) : exec (.csrwCgseed a) s = execCsrwCgseed a s := rfl
@[simp] theorem exec_csrwOvfl (a : SReg) (s : State) : exec (.csrwOvfl a) s = execCsrwOvfl a s := rfl
@[simp] theorem exec_csrwNval (a : SReg) (s : State) : exec (.csrwNval a) s = execCsrwNval a s := rfl
@[simp] theorem exec_csrwMod (m : BitVec 3) (a : SReg) (s : State) : exec (.csrwMod m a) s = execCsrwMod m a s := rfl
@[simp] theorem exec_trap (a : SReg) (s : State) : exec (.trap a) s = execTrap a s := rfl
@[simp] theorem exec_eret (s : State) : exec .eret s = execEret s := rfl
@[simp] theorem exec_eretTo (a : SReg) (s : State) : exec (.eretTo a) s = execEretTo a s := rfl
@[simp] theorem exec_yield (s : State) : exec .yield s = execYield s := rfl
@[simp] theorem exec_exit (s : State) : exec .exit s = execExit s := rfl
@[simp] theorem exec_klaunch (d a : SReg) (s : State) : exec (.klaunch d a) s = execKlaunch d a s := rfl
@[simp] theorem exec_rgn (s : State) : exec .rgn s = execRgn s := rfl
@[simp] theorem exec_nop (s : State) : exec .nop s = execNop s := rfl
@[simp] theorem exec_evset (n : BitVec 2) (a : SReg) (s : State) : exec (.evset n a) s = execEvset n a s := rfl
@[simp] theorem exec_lAdd (f : LF) (s : State) : exec (.lAdd f) s = execLAdd f s := rfl
@[simp] theorem exec_lSub (f : LF) (s : State) : exec (.lSub f) s = execLSub f s := rfl
@[simp] theorem exec_lMul (f : LF) (s : State) : exec (.lMul f) s = execLMul f s := rfl
@[simp] theorem exec_lMulhi (f : LF) (s : State) : exec (.lMulhi f) s = execLMulhi f s := rfl
@[simp] theorem exec_lMad (f : LF) (s : State) : exec (.lMad f) s = execLMad f s := rfl
@[simp] theorem exec_lMadw (f : LF) (s : State) : exec (.lMadw f) s = execLMadw f s := rfl
@[simp] theorem exec_lAnd (f : LF) (s : State) : exec (.lAnd f) s = execLAnd f s := rfl
@[simp] theorem exec_lOr (f : LF) (s : State) : exec (.lOr f) s = execLOr f s := rfl
@[simp] theorem exec_lXor (f : LF) (s : State) : exec (.lXor f) s = execLXor f s := rfl
@[simp] theorem exec_lAndn (f : LF) (s : State) : exec (.lAndn f) s = execLAndn f s := rfl
@[simp] theorem exec_lShl (f : LF) (s : State) : exec (.lShl f) s = execLShl f s := rfl
@[simp] theorem exec_lShr (f : LF) (s : State) : exec (.lShr f) s = execLShr f s := rfl
@[simp] theorem exec_lRotl (f : LF) (s : State) : exec (.lRotl f) s = execLRotl f s := rfl
@[simp] theorem exec_lMin (f : LF) (s : State) : exec (.lMin f) s = execLMin f s := rfl
@[simp] theorem exec_lMax (f : LF) (s : State) : exec (.lMax f) s = execLMax f s := rfl
@[simp] theorem exec_lAbs (f : LF) (s : State) : exec (.lAbs f) s = execLAbs f s := rfl
@[simp] theorem exec_lPopc (f : LF) (s : State) : exec (.lPopc f) s = execLPopc f s := rfl
@[simp] theorem exec_lClz (f : LF) (s : State) : exec (.lClz f) s = execLClz f s := rfl
@[simp] theorem exec_lBrev (f : LF) (s : State) : exec (.lBrev f) s = execLBrev f s := rfl
@[simp] theorem exec_lBfe (f : LF) (s : State) : exec (.lBfe f) s = execLBfe f s := rfl
@[simp] theorem exec_lBfi (f : LF) (s : State) : exec (.lBfi f) s = execLBfi f s := rfl
@[simp] theorem exec_lMov (f : LF) (s : State) : exec (.lMov f) s = execLMov f s := rfl
@[simp] theorem exec_lSel (f : LF) (s : State) : exec (.lSel f) s = execLSel f s := rfl
@[simp] theorem exec_lSreg (f : LF) (s : State) : exec (.lSreg f) s = execLSreg f s := rfl
@[simp] theorem exec_lDp4 (f : LF) (s : State) : exec (.lDp4 f) s = execLDp4 f s := rfl
@[simp] theorem exec_lDiv (f : LF) (s : State) : exec (.lDiv f) s = execLDiv f s := rfl
@[simp] theorem exec_lRem (f : LF) (s : State) : exec (.lRem f) s = execLRem f s := rfl
@[simp] theorem exec_lCmp (f : LF) (s : State) : exec (.lCmp f) s = execLCmp f s := rfl
@[simp] theorem exec_lPand (f : LF) (s : State) : exec (.lPand f) s = execLPand f s := rfl
@[simp] theorem exec_lPor (f : LF) (s : State) : exec (.lPor f) s = execLPor f s := rfl
@[simp] theorem exec_lPxor (f : LF) (s : State) : exec (.lPxor f) s = execLPxor f s := rfl
@[simp] theorem exec_lPnot (f : LF) (s : State) : exec (.lPnot f) s = execLPnot f s := rfl
@[simp] theorem exec_lPtov (f : LF) (s : State) : exec (.lPtov f) s = execLPtov f s := rfl
@[simp] theorem exec_lVtop (f : LF) (s : State) : exec (.lVtop f) s = execLVtop f s := rfl
@[simp] theorem exec_lPset (f : LF) (s : State) : exec (.lPset f) s = execLPset f s := rfl
@[simp] theorem exec_lBra (f : LF) (s : State) : exec (.lBra f) s = execLBra f s := rfl
@[simp] theorem exec_lCall (f : LF) (s : State) : exec (.lCall f) s = execLCall f s := rfl
@[simp] theorem exec_lRet (f : LF) (s : State) : exec (.lRet f) s = execLRet f s := rfl
@[simp] theorem exec_lDcall (f : LF) (s : State) : exec (.lDcall f) s = execLDcall f s := rfl
@[simp] theorem exec_lDjmp (f : LF) (s : State) : exec (.lDjmp f) s = execLDjmp f s := rfl
@[simp] theorem exec_lLend (f : LF) (s : State) : exec (.lLend f) s = execLLend f s := rfl
@[simp] theorem exec_lDemote (f : LF) (s : State) : exec (.lDemote f) s = execLDemote f s := rfl
@[simp] theorem exec_lExit (f : LF) (s : State) : exec (.lExit f) s = execLExit f s := rfl
@[simp] theorem exec_lBarr (f : LF) (s : State) : exec (.lBarr f) s = execLBarr f s := rfl
@[simp] theorem exec_lBwait (f : LF) (s : State) : exec (.lBwait f) s = execLBwait f s := rfl
@[simp] theorem exec_lFence (f : LF) (s : State) : exec (.lFence f) s = execLFence f s := rfl
@[simp] theorem exec_lRgn (f : LF) (s : State) : exec (.lRgn f) s = execLRgn f s := rfl
@[simp] theorem exec_lTrap (f : LF) (s : State) : exec (.lTrap f) s = execLTrap f s := rfl
@[simp] theorem exec_lNop (f : LF) (s : State) : exec (.lNop f) s = execLNop f s := rfl
@[simp] theorem exec_lRegang (f : LF) (s : State) : exec (.lRegang f) s = execLRegang f s := rfl
@[simp] theorem exec_lFadd (f : LF) (s : State) : exec (.lFadd f) s = execLFadd f s := rfl
@[simp] theorem exec_lFsub (f : LF) (s : State) : exec (.lFsub f) s = execLFsub f s := rfl
@[simp] theorem exec_lFmul (f : LF) (s : State) : exec (.lFmul f) s = execLFmul f s := rfl
@[simp] theorem exec_lFma (f : LF) (s : State) : exec (.lFma f) s = execLFma f s := rfl
@[simp] theorem exec_lFmin (f : LF) (s : State) : exec (.lFmin f) s = execLFmin f s := rfl
@[simp] theorem exec_lFmax (f : LF) (s : State) : exec (.lFmax f) s = execLFmax f s := rfl
@[simp] theorem exec_lFrcp (f : LF) (s : State) : exec (.lFrcp f) s = execLFrcp f s := rfl
@[simp] theorem exec_lFrsqrt (f : LF) (s : State) : exec (.lFrsqrt f) s = execLFrsqrt f s := rfl
@[simp] theorem exec_lFsqrt (f : LF) (s : State) : exec (.lFsqrt f) s = execLFsqrt f s := rfl
@[simp] theorem exec_lFdiv (f : LF) (s : State) : exec (.lFdiv f) s = execLFdiv f s := rfl
@[simp] theorem exec_lFexp2 (f : LF) (s : State) : exec (.lFexp2 f) s = execLFexp2 f s := rfl
@[simp] theorem exec_lFlog2 (f : LF) (s : State) : exec (.lFlog2 f) s = execLFlog2 f s := rfl
@[simp] theorem exec_lFrint (f : LF) (s : State) : exec (.lFrint f) s = execLFrint f s := rfl
@[simp] theorem exec_lFcvtI (f : LF) (s : State) : exec (.lFcvtI f) s = execLFcvtI f s := rfl
@[simp] theorem exec_lIcvtF (f : LF) (s : State) : exec (.lIcvtF f) s = execLIcvtF f s := rfl
@[simp] theorem exec_lFscale (f : LF) (s : State) : exec (.lFscale f) s = execLFscale f s := rfl
@[simp] theorem exec_lFclass (f : LF) (s : State) : exec (.lFclass f) s = execLFclass f s := rfl
@[simp] theorem exec_lHadd2 (f : LF) (s : State) : exec (.lHadd2 f) s = execLHadd2 f s := rfl
@[simp] theorem exec_lHmul2 (f : LF) (s : State) : exec (.lHmul2 f) s = execLHmul2 f s := rfl
@[simp] theorem exec_lHfma2 (f : LF) (s : State) : exec (.lHfma2 f) s = execLHfma2 f s := rfl
@[simp] theorem exec_lCvt (f : LF) (s : State) : exec (.lCvt f) s = execLCvt f s := rfl
@[simp] theorem exec_lPack (f : LF) (s : State) : exec (.lPack f) s = execLPack f s := rfl
@[simp] theorem exec_lUnpk (f : LF) (s : State) : exec (.lUnpk f) s = execLUnpk f s := rfl
@[simp] theorem exec_lNqenc (f : LF) (s : State) : exec (.lNqenc f) s = execLNqenc f s := rfl
@[simp] theorem exec_lNqdec (f : LF) (s : State) : exec (.lNqdec f) s = execLNqdec f s := rfl
@[simp] theorem exec_lNqscl (f : LF) (s : State) : exec (.lNqscl f) s = execLNqscl f s := rfl
@[simp] theorem exec_lRhash (f : LF) (s : State) : exec (.lRhash f) s = execLRhash f s := rfl
@[simp] theorem exec_lSrbits (f : LF) (s : State) : exec (.lSrbits f) s = execLSrbits f s := rfl
@[simp] theorem exec_lXlane (f : LF) (s : State) : exec (.lXlane f) s = execLXlane f s := rfl
@[simp] theorem exec_lCanvass (f : LF) (s : State) : exec (.lCanvass f) s = execLCanvass f s := rfl
@[simp] theorem exec_lRdc (f : LF) (s : State) : exec (.lRdc f) s = execLRdc f s := rfl
@[simp] theorem exec_lRdcx (f : LF) (s : State) : exec (.lRdcx f) s = execLRdcx f s := rfl
@[simp] theorem exec_lScan (f : LF) (s : State) : exec (.lScan f) s = execLScan f s := rfl
@[simp] theorem exec_lVtos (f : LF) (s : State) : exec (.lVtos f) s = execLVtos f s := rfl
@[simp] theorem exec_lBcast (f : LF) (s : State) : exec (.lBcast f) s = execLBcast f s := rfl
@[simp] theorem exec_lLd (f : LF) (s : State) : exec (.lLd f) s = execLLd f s := rfl
@[simp] theorem exec_lSt (f : LF) (s : State) : exec (.lSt f) s = execLSt f s := rfl
@[simp] theorem exec_lLds (f : LF) (s : State) : exec (.lLds f) s = execLLds f s := rfl
@[simp] theorem exec_lSts (f : LF) (s : State) : exec (.lSts f) s = execLSts f s := rfl
@[simp] theorem exec_lLdb (f : LF) (s : State) : exec (.lLdb f) s = execLLdb f s := rfl
@[simp] theorem exec_lLdacq (f : LF) (s : State) : exec (.lLdacq f) s = execLLdacq f s := rfl
@[simp] theorem exec_lStrel (f : LF) (s : State) : exec (.lStrel f) s = execLStrel f s := rfl
@[simp] theorem exec_lLdws (f : LF) (s : State) : exec (.lLdws f) s = execLLdws f s := rfl
@[simp] theorem exec_lLdcl (f : LF) (s : State) : exec (.lLdcl f) s = execLLdcl f s := rfl
@[simp] theorem exec_lStcl (f : LF) (s : State) : exec (.lStcl f) s = execLStcl f s := rfl
@[simp] theorem exec_lAtom (f : LF) (s : State) : exec (.lAtom f) s = execLAtom f s := rfl
@[simp] theorem exec_lAcas (f : LF) (s : State) : exec (.lAcas f) s = execLAcas f s := rfl
@[simp] theorem exec_lApush (f : LF) (s : State) : exec (.lApush f) s = execLApush f s := rfl
@[simp] theorem exec_lCpl (f : LF) (s : State) : exec (.lCpl f) s = execLCpl f s := rfl
@[simp] theorem exec_lSpatom (f : LF) (s : State) : exec (.lSpatom f) s = execLSpatom f s := rfl
@[simp] theorem exec_illegalInstruction (word : Word) (s : State) : exec (.illegalInstruction word) s = execIllegalInstruction word s := rfl
@[simp] theorem exec_illegalLaneInstruction (w0 w1 w2 : Word) (s : State) : exec (.illegalLaneInstruction w0 w1 w2) s = execIllegalLaneInstruction w0 w1 w2 s := rfl
@[simp] theorem exec_packageReset (s : State) : exec .packageReset s = execPackageReset s := rfl
@[simp] theorem exec_powerFailure (s : State) : exec .powerFailure s = execPowerFailure s := rfl
@[simp] theorem exec_hostLinkTraining (width rate : Nat) (flit cxlIo cxlCache cxlMem ide : Bool) (s : State) : exec (.hostLinkTraining width rate flit cxlIo cxlCache cxlMem ide) s = execHostLinkTraining width rate flit cxlIo cxlCache cxlMem ide s := rfl
@[simp] theorem exec_hostBar2Request (off : BitVec 36) (rw : HostRw) (s : State) : exec (.hostBar2Request off rw) s = execHostBar2Request off rw s := rfl
@[simp] theorem exec_hostCxlMemRequest (x : Nat) (rw : HostRw) (s : State) : exec (.hostCxlMemRequest x rw) s = execHostCxlMemRequest x rw s := rfl
@[simp] theorem exec_hostCxlCacheSnoop (pa : Nat) (bytes : Option (List Byte)) (s : State) : exec (.hostCxlCacheSnoop pa bytes) s = execHostCxlCacheSnoop pa bytes s := rfl
@[simp] theorem exec_globalPersistentFlush (s : State) : exec .globalPersistentFlush s = execGlobalPersistentFlush s := rfl
@[simp] theorem exec_gpfComplete (s : State) : exec .gpfComplete s = execGpfComplete s := rfl
@[simp] theorem exec_hwinWrite (v : DWord) (s : State) : exec (.hwinWrite v) s = execHwinWrite v s := rfl
@[simp] theorem exec_loadFirmware (s : State) : exec .loadFirmware s = execLoadFirmware s := rfl
@[simp] theorem exec_attest (s : State) : exec .attest s = execAttest s := rfl
@[simp] theorem exec_setContextWorld (s : State) : exec .setContextWorld s = execSetContextWorld s := rfl
@[simp] theorem exec_setWindow (s : State) : exec .setWindow s = execSetWindow s := rfl
@[simp] theorem exec_retry (s : State) : exec .retry s = execRetry s := rfl
@[simp] theorem exec_continue (s : State) : exec .continue s = execContinue s := rfl
@[simp] theorem exec_kill (s : State) : exec .kill s = execKill s := rfl
@[simp] theorem exec_deliver (s : State) : exec .deliver s = execDeliver s := rfl
@[simp] theorem exec_mailboxRequestEnd (s : State) : exec .mailboxRequestEnd s = execMailboxRequestEnd s := rfl
@[simp] theorem exec_contextEnable (c : BitVec 6) (s : State) : exec (.contextEnable c) s = execContextEnable c s := rfl
@[simp] theorem exec_contextDisable (c : BitVec 6) (s : State) : exec (.contextDisable c) s = execContextDisable c s := rfl
@[simp] theorem exec_genbump (c : BitVec 6) (s : State) : exec (.genbump c) s = execGenbump c s := rfl
@[simp] theorem exec_genbumpCoreAdopt (c : BitVec 6) (core : CoreKey) (s : State) : exec (.genbumpCoreAdopt c core) s = execGenbumpCoreAdopt c core s := rfl
@[simp] theorem exec_genbumpCoreReport (c : BitVec 6) (core : CoreKey) (s : State) : exec (.genbumpCoreReport c core) s = execGenbumpCoreReport c core s := rfl
@[simp] theorem exec_genbumpPhase2 (c : BitVec 6) (s : State) : exec (.genbumpPhase2 c) s = execGenbumpPhase2 c s := rfl
@[simp] theorem exec_tailWrite (c : BitVec 6) (q : BitVec 3) (v : Word) (s : State) : exec (.tailWrite c q v) s = execTailWrite c q v s := rfl
@[simp] theorem exec_cqheadWrite (c : BitVec 6) (v : Word) (s : State) : exec (.cqheadWrite c v) s = execCqheadWrite c v s := rfl
@[simp] theorem exec_cqerrClear (c : BitVec 6) (s : State) : exec (.cqerrClear c) s = execCqerrClear c s := rfl
@[simp] theorem exec_evsetWrite (c : BitVec 6) (v : BitVec 256) (s : State) : exec (.evsetWrite c v) s = execEvsetWrite c v s := rfl
@[simp] theorem exec_evclrWrite (c : BitVec 6) (v : BitVec 256) (s : State) : exec (.evclrWrite c v) s = execEvclrWrite c v s := rfl
@[simp] theorem exec_arm (s : State) : exec .arm s = execArm s := rfl
@[simp] theorem exec_stepload (x : DWord) (s : State) : exec (.stepload x) s = execStepload x s := rfl
@[simp] theorem exec_optload (x : DWord) (s : State) : exec (.optload x) s = execOptload x s := rfl
@[simp] theorem exec_recoveryGo (s : State) : exec .recoveryGo s = execRecoveryGo s := rfl
@[simp] theorem exec_registerWrite (r : HostReg) (v : DWord) (s : State) : exec (.registerWrite r v) s = execRegisterWrite r v s := rfl
@[simp] theorem exec_queueSlotRead (c : BitVec 6) (q : BitVec 3) (s : State) : exec (.queueSlotRead c q) s = execQueueSlotRead c q s := rfl
@[simp] theorem exec_kernelQueueTake (c : BitVec 6) (s : State) : exec (.kernelQueueTake c) s = execKernelQueueTake c s := rfl
@[simp] theorem exec_launchStart (c : BitVec 6) (q : BitVec 4) (s : State) : exec (.launchStart c q) s = execLaunchStart c q s := rfl
@[simp] theorem exec_ageingStep (launch : Nat) (s : State) : exec (.ageingStep launch) s = execAgeingStep launch s := rfl
@[simp] theorem exec_clusterPlace (launch : Nat) (die col row : Nat) (s : State) : exec (.clusterPlace launch die col row) s = execClusterPlace launch die col row s := rfl
@[simp] theorem exec_placementReservation (launch : Nat) (s : State) : exec (.placementReservation launch) s = execPlacementReservation launch s := rfl
@[simp] theorem exec_preempt (launch : Nat) (victim cluster : Nat) (s : State) : exec (.preempt launch victim cluster) s = execPreempt launch victim cluster s := rfl
@[simp] theorem exec_preemptSave (launch : Nat) (cluster : Nat) (s : State) : exec (.preemptSave launch cluster) s = execPreemptSave launch cluster s := rfl
@[simp] theorem exec_clusterResume (launch : Nat) (cluster die col row : Nat) (s : State) : exec (.clusterResume launch cluster die col row) s = execClusterResume launch cluster die col row s := rfl
@[simp] theorem exec_dieRenumber (die : Nat) (s : State) : exec (.dieRenumber die) s = execDieRenumber die s := rfl
@[simp] theorem exec_launchComplete (launch : Nat) (s : State) : exec (.launchComplete launch) s = execLaunchComplete launch s := rfl
@[simp] theorem exec_groupRetire (gid : Nat) (s : State) : exec (.groupRetire gid) s = execGroupRetire gid s := rfl
@[simp] theorem exec_producerLand (id : Nat) (s : State) : exec (.producerLand id) s = execProducerLand id s := rfl
@[simp] theorem exec_quarantineLeave (gid : Nat) (s : State) : exec (.quarantineLeave gid) s = execQuarantineLeave gid s := rfl
@[simp] theorem exec_l1WriteBack (core : CoreKey) (line : Nat) (evict : Bool) (s : State) : exec (.l1WriteBack core line evict) s = execL1WriteBack core line evict s := rfl
@[simp] theorem exec_pageWalk (core : CoreKey) (c : BitVec 6) (ea : DWord) (s : State) : exec (.pageWalk core c ea) s = execPageWalk core c ea s := rfl
@[simp] theorem exec_lateFault (id : Nat) (lane : Nat) (s : State) : exec (.lateFault id lane) s = execLateFault id lane s := rfl
@[simp] theorem exec_staleGenerationReject (id : Nat) (lane : Nat) (s : State) : exec (.staleGenerationReject id lane) s = execStaleGenerationReject id lane s := rfl
@[simp] theorem exec_staleGenerationReissue (gid : Nat) (s : State) : exec (.staleGenerationReissue gid) s = execStaleGenerationReissue gid s := rfl
@[simp] theorem exec_barrierHang (gid : Nat) (s : State) : exec (.barrierHang gid) s = execBarrierHang gid s := rfl
@[simp] theorem exec_roundHang (gid : Nat) (s : State) : exec (.roundHang gid) s = execRoundHang gid s := rfl
@[simp] theorem exec_yieldExpiry (gid : Nat) (s : State) : exec (.yieldExpiry gid) s = execYieldExpiry gid s := rfl
@[simp] theorem exec_regangTimeout (gid : Nat) (pc : Word) (depth : Nat) (s : State) : exec (.regangTimeout gid pc depth) s = execRegangTimeout gid pc depth s := rfl
@[simp] theorem exec_gfreeRelease (gid : Nat) (s : State) : exec (.gfreeRelease gid) s = execGfreeRelease gid s := rfl
@[simp] theorem exec_releaseComplete (id : Nat) (s : State) : exec (.releaseComplete id) s = execReleaseComplete id s := rfl
@[simp] theorem exec_rgnCheckpoint (gid : Nat) (s : State) : exec (.rgnCheckpoint gid) s = execRgnCheckpoint gid s := rfl
@[simp] theorem exec_strike (core : CoreKey) (s : State) : exec (.strike core) s = execStrike core s := rfl
@[simp] theorem exec_strikeReplay (gid : Nat) (s : State) : exec (.strikeReplay gid) s = execStrikeReplay gid s := rfl
@[simp] theorem exec_weightStoreRefresh (die : Nat) (s : State) : exec (.weightStoreRefresh die) s = execWeightStoreRefresh die s := rfl
@[simp] theorem exec_weightStoreBankReturn (die : Nat) (s : State) : exec (.weightStoreBankReturn die) s = execWeightStoreBankReturn die s := rfl
@[simp] theorem exec_ncuOperation (op : NcuOp) (s : State) : exec (.ncuOperation op) s = execNcuOperation op s := rfl
@[simp] theorem exec_activeMessage (id : Nat) (s : State) : exec (.activeMessage id) s = execActiveMessage id s := rfl
@[simp] theorem exec_clusterScratchpadArrival (id : Nat) (lane : Nat) (s : State) : exec (.clusterScratchpadArrival id lane) s = execClusterScratchpadArrival id lane s := rfl
@[simp] theorem exec_remoteAccessArrival (id : Nat) (s : State) : exec (.remoteAccessArrival id) s = execRemoteAccessArrival id s := rfl
@[simp] theorem exec_wbqAccept (granule : Nat) (s : State) : exec (.wbqAccept granule) s = execWbqAccept granule s := rfl
@[simp] theorem exec_laneBlockStart (gid : Nat) (s : State) : exec (.laneBlockStart gid) s = execLaneBlockStart gid s := rfl
@[simp] theorem exec_mldStart (gid : Nat) (s : State) : exec (.mldStart gid) s = execMldStart gid s := rfl
@[simp] theorem exec_mldPairStart (gid : Nat) (s : State) : exec (.mldPairStart gid) s = execMldPairStart gid s := rfl
@[simp] theorem exec_mmulStart (gid : Nat) (s : State) : exec (.mmulStart gid) s = execMmulStart gid s := rfl
@[simp] theorem exec_mmtStart (gid : Nat) (s : State) : exec (.mmtStart gid) s = execMmtStart gid s := rfl
@[simp] theorem exec_matrixAccumulation (id : Nat) (m o : Nat) (s : State) : exec (.matrixAccumulation id m o) s = execMatrixAccumulation id m o s := rfl
@[simp] theorem exec_batchComplete (gid : Nat) (s : State) : exec (.batchComplete gid) s = execBatchComplete gid s := rfl
@[simp] theorem exec_mrelStart (gid : Nat) (s : State) : exec (.mrelStart gid) s = execMrelStart gid s := rfl
@[simp] theorem exec_ofenceStart (gid : Nat) (s : State) : exec (.ofenceStart gid) s = execOfenceStart gid s := rfl
@[simp] theorem exec_ofenceComplete (gid : Nat) (s : State) : exec (.ofenceComplete gid) s = execOfenceComplete gid s := rfl
@[simp] theorem exec_cptStart (gid : Nat) (s : State) : exec (.cptStart gid) s = execCptStart gid s := rfl
@[simp] theorem exec_cptIdxStart (gid : Nat) (s : State) : exec (.cptIdxStart gid) s = execCptIdxStart gid s := rfl
@[simp] theorem exec_cptWsStart (gid : Nat) (s : State) : exec (.cptWsStart gid) s = execCptWsStart gid s := rfl
@[simp] theorem exec_cptPStart (gid : Nat) (s : State) : exec (.cptPStart gid) s = execCptPStart gid s := rfl
@[simp] theorem exec_copyElementLand (id : Nat) (j i e : Nat) (fetch : Bool) (s : State) : exec (.copyElementLand id j i e fetch) s = execCopyElementLand id j i e fetch s := rfl
@[simp] theorem exec_copyComplete (id : Nat) (s : State) : exec (.copyComplete id) s = execCopyComplete id s := rfl
@[simp] theorem exec_pbarStart (gid : Nat) (s : State) : exec (.pbarStart gid) s = execPbarStart gid s := rfl
@[simp] theorem exec_pbarComplete (gid : Nat) (s : State) : exec (.pbarComplete gid) s = execPbarComplete gid s := rfl
@[simp] theorem exec_barrierInitialise (id : Nat) (s : State) : exec (.barrierInitialise id) s = execBarrierInitialise id s := rfl
@[simp] theorem exec_barrierArm (id : Nat) (s : State) : exec (.barrierArm id) s = execBarrierArm id s := rfl
@[simp] theorem exec_laneArrival (id : Nat) (s : State) : exec (.laneArrival id) s = execLaneArrival id s := rfl
@[simp] theorem exec_groupArrival (id : Nat) (s : State) : exec (.groupArrival id) s = execGroupArrival id s := rfl
@[simp] theorem exec_barrierCredit (id : Nat) (s : State) : exec (.barrierCredit id) s = execBarrierCredit id s := rfl
@[simp] theorem exec_xmarStart (gid : Nat) (s : State) : exec (.xmarStart gid) s = execXmarStart gid s := rfl
@[simp] theorem exec_xmarPieceArrival (id : Nat) (src index : Nat) (s : State) : exec (.xmarPieceArrival id src index) s = execXmarPieceArrival id src index s := rfl
@[simp] theorem exec_xredStart (gid : Nat) (s : State) : exec (.xredStart gid) s = execXredStart gid s := rfl
@[simp] theorem exec_xnormStart (gid : Nat) (s : State) : exec (.xnormStart gid) s = execXnormStart gid s := rfl
@[simp] theorem exec_xnormResult (id : Nat) (s : State) : exec (.xnormResult id) s = execXnormResult id s := rfl
@[simp] theorem exec_xnormCommit (id : Nat) (s : State) : exec (.xnormCommit id) s = execXnormCommit id s := rfl
@[simp] theorem exec_xbarStart (gid : Nat) (s : State) : exec (.xbarStart gid) s = execXbarStart gid s := rfl
@[simp] theorem exec_collectiveComplete (id : Nat) (s : State) : exec (.collectiveComplete id) s = execCollectiveComplete id s := rfl
@[simp] theorem exec_roundAdvance (c : BitVec 6) (region : BitVec 12) (s : State) : exec (.roundAdvance c region) s = execRoundAdvance c region s := rfl
@[simp] theorem exec_roundAdopt (c : BitVec 6) (region : BitVec 12) (die slice : Nat) (s : State) : exec (.roundAdopt c region die slice) s = execRoundAdopt c region die slice s := rfl
@[simp] theorem exec_roundAdvanceCommit (c : BitVec 6) (region : BitVec 12) (s : State) : exec (.roundAdvanceCommit c region) s = execRoundAdvanceCommit c region s := rfl
@[simp] theorem exec_ldbHeldServe (id : Nat) (lane : Nat) (s : State) : exec (.ldbHeldServe id lane) s = execLdbHeldServe id lane s := rfl
@[simp] theorem exec_flitReceive (port : Nat) (good : Bool) (msg : FabricMsg) (s : State) : exec (.flitReceive port good msg) s = execFlitReceive port good msg s := rfl
@[simp] theorem exec_fabricLaneFailure (port : Nat) (s : State) : exec (.fabricLaneFailure port) s = execFabricLaneFailure port s := rfl
@[simp] theorem exec_fabricPortStateChange (port lanes : Nat) (up : Bool) (peer pport : Nat) (s : State) : exec (.fabricPortStateChange port lanes up peer pport) s = execFabricPortStateChange port lanes up peer pport s := rfl
@[simp] theorem exec_packageLost (how : LostHow) (s : State) : exec (.packageLost how) s = execPackageLost how s := rfl
@[simp] theorem exec_lehrCaptureStart (line : Nat) (s : State) : exec (.lehrCaptureStart line) s = execLehrCaptureStart line s := rfl
@[simp] theorem exec_lehrDrain (s : State) : exec .lehrDrain s = execLehrDrain s := rfl
@[simp] theorem exec_drainedMessage (s : State) : exec .drainedMessage s = execDrainedMessage s := rfl
@[simp] theorem exec_lehrComplete (s : State) : exec .lehrComplete s = execLehrComplete s := rfl
@[simp] theorem exec_culletEncode (stripe : Nat) (s : State) : exec (.culletEncode stripe) s = execCulletEncode stripe s := rfl
@[simp] theorem exec_culletProtect (s : State) : exec .culletProtect s = execCulletProtect s := rfl
@[simp] theorem exec_recoveryServe (s : State) : exec .recoveryServe s = execRecoveryServe s := rfl
@[simp] theorem exec_stripeRebuild (stripe : Nat) (fragments : List (Nat × List Byte)) (s : State) : exec (.stripeRebuild stripe fragments) s = execStripeRebuild stripe fragments s := rfl
@[simp] theorem exec_rebuildDone (s : State) : exec .rebuildDone s = execRebuildDone s := rfl
@[simp] theorem exec_registerEccError (target : EccTarget) (s : State) : exec (.registerEccError target) s = execRegisterEccError target s := rfl
@[simp] theorem exec_patrolScrub (word : Nat) (s : State) : exec (.patrolScrub word) s = execPatrolScrub word s := rfl
@[simp] theorem exec_coreRetire (core : CoreKey) (s : State) : exec (.coreRetire core) s = execCoreRetire core s := rfl
@[simp] theorem exec_l2SliceFailure (die slice : Nat) (s : State) : exec (.l2SliceFailure die slice) s = execL2SliceFailure die slice s := rfl
@[simp] theorem exec_slice480Switch (die : Nat) (s : State) : exec (.slice480Switch die) s = execSlice480Switch die s := rfl
@[simp] theorem exec_pseudoChannelFailure (stack : Nat) (lines : List Nat) (s : State) : exec (.pseudoChannelFailure stack lines) s = execPseudoChannelFailure stack lines s := rfl
@[simp] theorem exec_dieLoss (die : Nat) (s : State) : exec (.dieLoss die) s = execDieLoss die s := rfl
@[simp] theorem exec_retirementTableUpdate (s : State) : exec .retirementTableUpdate s = execRetirementTableUpdate s := rfl

end Sys2Proof.Machine
end

