-- ==== Sys2Proof/Laws/Memory.lean ====
section
/-!
SUPPORT. Memory cells: the canonical form is kept by every write, a write is read back, and it leaves every other address alone.
-/
namespace Sys2Proof.Machine

theorem Memory.wfFrom_mono {lo hi : Nat} {m : List Host.Cell} (h : lo ≤ hi) (w : Memory.wfFrom hi m = true) : Memory.wfFrom lo m = true := by
  cases m with
  | nil => rfl
  | cons p t => obtain ⟨k, v⟩ := p; simp_all [Memory.wfFrom]; omega

theorem Memory.wfFrom_cellWrite {lo a : Nat} {m : List Host.Cell} (b : Byte) (h : lo ≤ a) (w : Memory.wfFrom lo m = true) :
    Memory.wfFrom lo (cellWrite m a b) = true := by
  induction m generalizing lo with
  | nil => simp only [cellWrite]; split <;> simp_all [Memory.wfFrom]
  | cons p t ih =>
    obtain ⟨k, v⟩ := p
    simp only [Memory.wfFrom, Bool.and_eq_true, decide_eq_true_eq, bne_iff_ne] at w
    simp only [cellWrite]
    split
    · subst k
      split
      · exact Memory.wfFrom_mono (by omega) w.2
      · simp_all [Memory.wfFrom]
    · split
      · split
        · simp_all [Memory.wfFrom]
        · simp_all [Memory.wfFrom] <;> omega
      · simp only [Memory.wfFrom, Bool.and_eq_true, decide_eq_true_eq, bne_iff_ne]
        exact ⟨w.1, ih (by omega) w.2⟩

/-- A write of one byte keeps the canonical form. -/
theorem Memory.wf_cellWrite {m : List Host.Cell} (a : Nat) (b : Byte) (w : Memory.wf m = true) : Memory.wf (cellWrite m a b) = true :=
  Memory.wfFrom_cellWrite b (Nat.zero_le a) w

/-- A masked write of several bytes keeps the canonical form. -/
theorem Memory.wf_cellsWrite {m : List Host.Cell} (a : Nat) (bs : List (Option Byte)) (w : Memory.wf m = true) :
    Memory.wf (cellsWrite m a bs) = true := by
  induction bs generalizing m a with
  | nil => exact w
  | cons b bs ih =>
    cases b with
    | none => exact ih (a + 1) w
    | some b => exact ih (a + 1) (Memory.wf_cellWrite a b w)

theorem cellRead_below {lo a : Nat} {m : List Host.Cell} (w : Memory.wfFrom lo m = true) (h : a < lo) : cellRead m a = unlisted := by
  induction m generalizing lo with
  | nil => rfl
  | cons p t ih =>
    obtain ⟨k, v⟩ := p
    simp only [Memory.wfFrom, Bool.and_eq_true, decide_eq_true_eq] at w
    simp only [cellRead, show a ≠ k by omega, if_false]
    exact ih w.2 (by omega)

/-- A byte that was written reads as written. -/
theorem cellRead_cellWrite_same {lo a : Nat} {m : List Host.Cell} (b : Byte) (w : Memory.wfFrom lo m = true) :
    cellRead (cellWrite m a b) a = b := by
  induction m generalizing lo with
  | nil => simp only [cellWrite]; split <;> simp_all [cellRead]
  | cons p t ih =>
    obtain ⟨k, v⟩ := p
    simp only [Memory.wfFrom, Bool.and_eq_true, decide_eq_true_eq] at w
    simp only [cellWrite]
    split
    · subst k
      split
      · subst b; exact cellRead_below w.2 (by omega)
      · simp [cellRead]
    · split
      · split
        · subst b
          simp only [cellRead, show a ≠ k by assumption, if_false]
          exact cellRead_below w.2 (by omega)
        · simp [cellRead]
      · simp only [cellRead, show a ≠ k by assumption, if_false]
        exact ih w.2

/-- A write leaves every other address alone. -/
theorem cellRead_cellWrite_ne {a c : Nat} (m : List Host.Cell) (b : Byte) (h : c ≠ a) : cellRead (cellWrite m a b) c = cellRead m c := by
  induction m with
  | nil => simp only [cellWrite]; split <;> simp [cellRead, h]
  | cons p t ih =>
    obtain ⟨k, v⟩ := p
    simp only [cellWrite]
    split
    · subst k; split <;> simp [cellRead, h]
    · split
      · split <;> simp [cellRead, h]
      · simp only [cellRead, ih]

/-- A masked write leaves every address outside its range alone. -/
theorem cellRead_cellsWrite_outside (bs : List (Option Byte)) (m : List Host.Cell) (a c : Nat) (h : c < a ∨ a + bs.length ≤ c) :
    cellRead (cellsWrite m a bs) c = cellRead m c := by
  induction bs generalizing m a with
  | nil => rfl
  | cons b bs ih =>
    simp only [List.length_cons] at h
    cases b with
    | none => exact ih m (a + 1) (by omega)
    | some b => rw [cellsWrite, ih _ (a + 1) (by omega), cellRead_cellWrite_ne _ _ (by omega)]

/-- Within its range a masked write is read back, and a byte that the mask leaves out is as before. -/
theorem cellRead_cellsWrite_inside (bs : List (Option Byte)) (m : List Host.Cell) (a i : Nat) (w : Memory.wf m = true)
    (h : i < bs.length) : cellRead (cellsWrite m a bs) (a + i) = (bs[i]).getD (cellRead m (a + i)) := by
  induction bs generalizing m a i with
  | nil => simp at h
  | cons b bs ih =>
    simp only [List.length_cons] at h
    cases i with
    | zero =>
      cases b with
      | none => simp [cellsWrite, cellRead_cellsWrite_outside bs m (a + 1) a (by omega)]
      | some b =>
        simp only [cellsWrite, Nat.add_zero, List.getElem_cons_zero, Option.getD_some]
        rw [cellRead_cellsWrite_outside bs _ (a + 1) a (by omega)]
        exact cellRead_cellWrite_same b w
    | succ i =>
      cases b with
      | none =>
        have e := ih m (a + 1) i w (by omega)
        simpa [cellsWrite, Nat.add_assoc, Nat.add_comm 1 i] using e
      | some b =>
        have e := ih (cellWrite m a b) (a + 1) i (Memory.wf_cellWrite a b w) (by omega)
        rw [cellRead_cellWrite_ne m b (by omega)] at e
        simpa [cellsWrite, Nat.add_assoc, Nat.add_comm 1 i] using e

@[simp] theorem cellsRead_length (m : List Host.Cell) (a n : Nat) : (cellsRead m a n).length = n := by
  induction n generalizing a with
  | zero => rfl
  | succ n ih => simp [cellsRead, ih]

theorem cellsRead_getElem (m : List Host.Cell) (a n i : Nat) (h : i < (cellsRead m a n).length) :
    (cellsRead m a n)[i] = cellRead m (a + i) := by
  induction n generalizing a i with
  | zero => simp [cellsRead] at h
  | succ n ih =>
    cases i with
    | zero => rfl
    | succ i =>
      simp only [cellsRead, List.getElem_cons_succ]
      rw [ih]
      congr 1; omega

/-- Reset memory is in canonical form, and so are the modules of the persistence tier. -/
theorem reset_memory_wf : Memory.wf State.reset.mem = true ∧ Memory.wf State.reset.modules = true := ⟨rfl, rfl⟩

end Sys2Proof.Machine
end

