-- ==== Sys2Proof/Laws/State.lean ====
section
/-!
SUPPORT. What each update of the state, of a group and of a lane leaves alone, field by field, and what it writes.
-/
namespace Sys2Proof.Machine

/-! ## `State.setGroup` -/

@[simp] theorem State.setGroup_cycle (s : State) (gid : Nat) (g : Group) : (s.setGroup gid g).cycle = s.cycle := rfl
@[simp] theorem State.setGroup_agenda (s : State) (gid : Nat) (g : Group) : (s.setGroup gid g).agenda = s.agenda := rfl
@[simp] theorem State.setGroup_cur (s : State) (gid : Nat) (g : Group) : (s.setGroup gid g).cur = s.cur := rfl
@[simp] theorem State.setGroup_fresh (s : State) (gid : Nat) (g : Group) : (s.setGroup gid g).fresh = s.fresh := rfl
@[simp] theorem State.setGroup_nextId (s : State) (gid : Nat) (g : Group) : (s.setGroup gid g).nextId = s.nextId := rfl
@[simp] theorem State.setGroup_mem (s : State) (gid : Nat) (g : Group) : (s.setGroup gid g).mem = s.mem := rfl
@[simp] theorem State.setGroup_stamp (s : State) (gid : Nat) (g : Group) : (s.setGroup gid g).stamp = s.stamp := rfl
@[simp] theorem State.setGroup_ecc (s : State) (gid : Nat) (g : Group) : (s.setGroup gid g).ecc = s.ecc := rfl
@[simp] theorem State.setGroup_tags (s : State) (gid : Nat) (g : Group) : (s.setGroup gid g).tags = s.tags := rfl
@[simp] theorem State.setGroup_l2dirty (s : State) (gid : Nat) (g : Group) : (s.setGroup gid g).l2dirty = s.l2dirty := rfl
@[simp] theorem State.setGroup_l2tierDirty (s : State) (gid : Nat) (g : Group) : (s.setGroup gid g).l2tierDirty = s.l2tierDirty := rfl
@[simp] theorem State.setGroup_images (s : State) (gid : Nat) (g : Group) : (s.setGroup gid g).images = s.images := rfl
@[simp] theorem State.setGroup_wbq (s : State) (gid : Nat) (g : Group) : (s.setGroup gid g).wbq = s.wbq := rfl
@[simp] theorem State.setGroup_modules (s : State) (gid : Nat) (g : Group) : (s.setGroup gid g).modules = s.modules := rfl
@[simp] theorem State.setGroup_moduleEcc (s : State) (gid : Nat) (g : Group) : (s.setGroup gid g).moduleEcc = s.moduleEcc := rfl
@[simp] theorem State.setGroup_moduleTags (s : State) (gid : Nat) (g : Group) : (s.setGroup gid g).moduleTags = s.moduleTags := rfl
@[simp] theorem State.setGroup_powered (s : State) (gid : Nat) (g : Group) : (s.setGroup gid g).powered = s.powered := rfl
@[simp] theorem State.setGroup_ctxs (s : State) (gid : Nat) (g : Group) : (s.setGroup gid g).ctxs = s.ctxs := rfl
@[simp] theorem State.setGroup_launches (s : State) (gid : Nat) (g : Group) : (s.setGroup gid g).launches = s.launches := rfl
@[simp] theorem State.setGroup_clusters (s : State) (gid : Nat) (g : Group) : (s.setGroup gid g).clusters = s.clusters := rfl
@[simp] theorem State.setGroup_teams (s : State) (gid : Nat) (g : Group) : (s.setGroup gid g).teams = s.teams := rfl
@[simp] theorem State.setGroup_groups (s : State) (gid : Nat) (g : Group) : (s.setGroup gid g).groups = aset s.groups gid g := rfl
@[simp] theorem State.setGroup_cores (s : State) (gid : Nat) (g : Group) : (s.setGroup gid g).cores = s.cores := rfl
@[simp] theorem State.setGroup_dies (s : State) (gid : Nat) (g : Group) : (s.setGroup gid g).dies = s.dies := rfl
@[simp] theorem State.setGroup_lastDie (s : State) (gid : Nat) (g : Group) : (s.setGroup gid g).lastDie = s.lastDie := rfl
@[simp] theorem State.setGroup_rrPos (s : State) (gid : Nat) (g : Group) : (s.setGroup gid g).rrPos = s.rrPos := rfl
@[simp] theorem State.setGroup_cmds (s : State) (gid : Nat) (g : Group) : (s.setGroup gid g).cmds = s.cmds := rfl
@[simp] theorem State.setGroup_reqs (s : State) (gid : Nat) (g : Group) : (s.setGroup gid g).reqs = s.reqs := rfl
@[simp] theorem State.setGroup_net (s : State) (gid : Nat) (g : Group) : (s.setGroup gid g).net = s.net := rfl
@[simp] theorem State.setGroup_rels (s : State) (gid : Nat) (g : Group) : (s.setGroup gid g).rels = s.rels := rfl
@[simp] theorem State.setGroup_copies (s : State) (gid : Nat) (g : Group) : (s.setGroup gid g).copies = s.copies := rfl
@[simp] theorem State.setGroup_batches (s : State) (gid : Nat) (g : Group) : (s.setGroup gid g).batches = s.batches := rfl
@[simp] theorem State.setGroup_streams (s : State) (gid : Nat) (g : Group) : (s.setGroup gid g).streams = s.streams := rfl
@[simp] theorem State.setGroup_colls (s : State) (gid : Nat) (g : Group) : (s.setGroup gid g).colls = s.colls := rfl
@[simp] theorem State.setGroup_commCounts (s : State) (gid : Nat) (g : Group) : (s.setGroup gid g).commCounts = s.commCounts := rfl
@[simp] theorem State.setGroup_collIn (s : State) (gid : Nat) (g : Group) : (s.setGroup gid g).collIn = s.collIn := rfl
@[simp] theorem State.setGroup_rcls (s : State) (gid : Nat) (g : Group) : (s.setGroup gid g).rcls = s.rcls := rfl
@[simp] theorem State.setGroup_advances (s : State) (gid : Nat) (g : Group) : (s.setGroup gid g).advances = s.advances := rfl
@[simp] theorem State.setGroup_demand (s : State) (gid : Nat) (g : Group) : (s.setGroup gid g).demand = s.demand := rfl
@[simp] theorem State.setGroup_arrivedSince (s : State) (gid : Nat) (g : Group) : (s.setGroup gid g).arrivedSince = s.arrivedSince := rfl
@[simp] theorem State.setGroup_normbox (s : State) (gid : Nat) (g : Group) : (s.setGroup gid g).normbox = s.normbox := rfl
@[simp] theorem State.setGroup_windows (s : State) (gid : Nat) (g : Group) : (s.setGroup gid g).windows = s.windows := rfl
@[simp] theorem State.setGroup_wfcount (s : State) (gid : Nat) (g : Group) : (s.setGroup gid g).wfcount = s.wfcount := rfl
@[simp] theorem State.setGroup_mbox (s : State) (gid : Nat) (g : Group) : (s.setGroup gid g).mbox = s.mbox := rfl
@[simp] theorem State.setGroup_ints (s : State) (gid : Nat) (g : Group) : (s.setGroup gid g).ints = s.ints := rfl
@[simp] theorem State.setGroup_hport (s : State) (gid : Nat) (g : Group) : (s.setGroup gid g).hport = s.hport := rfl
@[simp] theorem State.setGroup_lehr (s : State) (gid : Nat) (g : Group) : (s.setGroup gid g).lehr = s.lehr := rfl
@[simp] theorem State.setGroup_cullet (s : State) (gid : Nat) (g : Group) : (s.setGroup gid g).cullet = s.cullet := rfl
@[simp] theorem State.setGroup_hbmSize (s : State) (gid : Nat) (g : Group) : (s.setGroup gid g).hbmSize = s.hbmSize := rfl
@[simp] theorem State.setGroup_rsvSize (s : State) (gid : Nat) (g : Group) : (s.setGroup gid g).rsvSize = s.rsvSize := rfl
@[simp] theorem State.setGroup_cfggen (s : State) (gid : Nat) (g : Group) : (s.setGroup gid g).cfggen = s.cfggen := rfl
@[simp] theorem State.setGroup_cfgPending (s : State) (gid : Nat) (g : Group) : (s.setGroup gid g).cfgPending = s.cfgPending := rfl
@[simp] theorem State.setGroup_pcdead (s : State) (gid : Nat) (g : Group) : (s.setGroup gid g).pcdead = s.pcdead := rfl
@[simp] theorem State.setGroup_tables (s : State) (gid : Nat) (g : Group) : (s.setGroup gid g).tables = s.tables := rfl
@[simp] theorem State.setGroup_ports (s : State) (gid : Nat) (g : Group) : (s.setGroup gid g).ports = s.ports := rfl
@[simp] theorem State.setGroup_self (s : State) (gid : Nat) (g : Group) : (s.setGroup gid g).self = s.self := rfl
@[simp] theorem State.setGroup_domain (s : State) (gid : Nat) (g : Group) : (s.setGroup gid g).domain = s.domain := rfl
@[simp] theorem State.setGroup_lostPkgs (s : State) (gid : Nat) (g : Group) : (s.setGroup gid g).lostPkgs = s.lostPkgs := rfl
@[simp] theorem State.setGroup_lost (s : State) (gid : Nat) (g : Group) : (s.setGroup gid g).lost = s.lost := rfl
@[simp] theorem State.setGroup_fabricOut (s : State) (gid : Nat) (g : Group) : (s.setGroup gid g).fabricOut = s.fabricOut := rfl
@[simp] theorem State.setGroup_fabricIn (s : State) (gid : Nat) (g : Group) : (s.setGroup gid g).fabricIn = s.fabricIn := rfl
@[simp] theorem State.setGroup_hostOut (s : State) (gid : Nat) (g : Group) : (s.setGroup gid g).hostOut = s.hostOut := rfl
@[simp] theorem State.setGroup_remoteAcks (s : State) (gid : Nat) (g : Group) : (s.setGroup gid g).remoteAcks = s.remoteAcks := rfl
@[simp] theorem State.setGroup_devAsks (s : State) (gid : Nat) (g : Group) : (s.setGroup gid g).devAsks = s.devAsks := rfl
@[simp] theorem State.setGroup_regionCopies (s : State) (gid : Nat) (g : Group) : (s.setGroup gid g).regionCopies = s.regionCopies := rfl
@[simp] theorem State.setGroup_recReads (s : State) (gid : Nat) (g : Group) : (s.setGroup gid g).recReads = s.recReads := rfl
@[simp] theorem State.setGroup_frames (s : State) (gid : Nat) (g : Group) : (s.setGroup gid g).frames = s.frames := rfl

/-! ## `State.setTeam` -/

@[simp] theorem State.setTeam_cycle (s : State) (i : Nat) (x : Team) : (s.setTeam i x).cycle = s.cycle := rfl
@[simp] theorem State.setTeam_agenda (s : State) (i : Nat) (x : Team) : (s.setTeam i x).agenda = s.agenda := rfl
@[simp] theorem State.setTeam_cur (s : State) (i : Nat) (x : Team) : (s.setTeam i x).cur = s.cur := rfl
@[simp] theorem State.setTeam_fresh (s : State) (i : Nat) (x : Team) : (s.setTeam i x).fresh = s.fresh := rfl
@[simp] theorem State.setTeam_nextId (s : State) (i : Nat) (x : Team) : (s.setTeam i x).nextId = s.nextId := rfl
@[simp] theorem State.setTeam_mem (s : State) (i : Nat) (x : Team) : (s.setTeam i x).mem = s.mem := rfl
@[simp] theorem State.setTeam_stamp (s : State) (i : Nat) (x : Team) : (s.setTeam i x).stamp = s.stamp := rfl
@[simp] theorem State.setTeam_ecc (s : State) (i : Nat) (x : Team) : (s.setTeam i x).ecc = s.ecc := rfl
@[simp] theorem State.setTeam_tags (s : State) (i : Nat) (x : Team) : (s.setTeam i x).tags = s.tags := rfl
@[simp] theorem State.setTeam_l2dirty (s : State) (i : Nat) (x : Team) : (s.setTeam i x).l2dirty = s.l2dirty := rfl
@[simp] theorem State.setTeam_l2tierDirty (s : State) (i : Nat) (x : Team) : (s.setTeam i x).l2tierDirty = s.l2tierDirty := rfl
@[simp] theorem State.setTeam_images (s : State) (i : Nat) (x : Team) : (s.setTeam i x).images = s.images := rfl
@[simp] theorem State.setTeam_wbq (s : State) (i : Nat) (x : Team) : (s.setTeam i x).wbq = s.wbq := rfl
@[simp] theorem State.setTeam_modules (s : State) (i : Nat) (x : Team) : (s.setTeam i x).modules = s.modules := rfl
@[simp] theorem State.setTeam_moduleEcc (s : State) (i : Nat) (x : Team) : (s.setTeam i x).moduleEcc = s.moduleEcc := rfl
@[simp] theorem State.setTeam_moduleTags (s : State) (i : Nat) (x : Team) : (s.setTeam i x).moduleTags = s.moduleTags := rfl
@[simp] theorem State.setTeam_powered (s : State) (i : Nat) (x : Team) : (s.setTeam i x).powered = s.powered := rfl
@[simp] theorem State.setTeam_ctxs (s : State) (i : Nat) (x : Team) : (s.setTeam i x).ctxs = s.ctxs := rfl
@[simp] theorem State.setTeam_launches (s : State) (i : Nat) (x : Team) : (s.setTeam i x).launches = s.launches := rfl
@[simp] theorem State.setTeam_clusters (s : State) (i : Nat) (x : Team) : (s.setTeam i x).clusters = s.clusters := rfl
@[simp] theorem State.setTeam_teams (s : State) (i : Nat) (x : Team) : (s.setTeam i x).teams = aset s.teams i x := rfl
@[simp] theorem State.setTeam_groups (s : State) (i : Nat) (x : Team) : (s.setTeam i x).groups = s.groups := rfl
@[simp] theorem State.setTeam_cores (s : State) (i : Nat) (x : Team) : (s.setTeam i x).cores = s.cores := rfl
@[simp] theorem State.setTeam_dies (s : State) (i : Nat) (x : Team) : (s.setTeam i x).dies = s.dies := rfl
@[simp] theorem State.setTeam_lastDie (s : State) (i : Nat) (x : Team) : (s.setTeam i x).lastDie = s.lastDie := rfl
@[simp] theorem State.setTeam_rrPos (s : State) (i : Nat) (x : Team) : (s.setTeam i x).rrPos = s.rrPos := rfl
@[simp] theorem State.setTeam_cmds (s : State) (i : Nat) (x : Team) : (s.setTeam i x).cmds = s.cmds := rfl
@[simp] theorem State.setTeam_reqs (s : State) (i : Nat) (x : Team) : (s.setTeam i x).reqs = s.reqs := rfl
@[simp] theorem State.setTeam_net (s : State) (i : Nat) (x : Team) : (s.setTeam i x).net = s.net := rfl
@[simp] theorem State.setTeam_rels (s : State) (i : Nat) (x : Team) : (s.setTeam i x).rels = s.rels := rfl
@[simp] theorem State.setTeam_copies (s : State) (i : Nat) (x : Team) : (s.setTeam i x).copies = s.copies := rfl
@[simp] theorem State.setTeam_batches (s : State) (i : Nat) (x : Team) : (s.setTeam i x).batches = s.batches := rfl
@[simp] theorem State.setTeam_streams (s : State) (i : Nat) (x : Team) : (s.setTeam i x).streams = s.streams := rfl
@[simp] theorem State.setTeam_colls (s : State) (i : Nat) (x : Team) : (s.setTeam i x).colls = s.colls := rfl
@[simp] theorem State.setTeam_commCounts (s : State) (i : Nat) (x : Team) : (s.setTeam i x).commCounts = s.commCounts := rfl
@[simp] theorem State.setTeam_collIn (s : State) (i : Nat) (x : Team) : (s.setTeam i x).collIn = s.collIn := rfl
@[simp] theorem State.setTeam_rcls (s : State) (i : Nat) (x : Team) : (s.setTeam i x).rcls = s.rcls := rfl
@[simp] theorem State.setTeam_advances (s : State) (i : Nat) (x : Team) : (s.setTeam i x).advances = s.advances := rfl
@[simp] theorem State.setTeam_demand (s : State) (i : Nat) (x : Team) : (s.setTeam i x).demand = s.demand := rfl
@[simp] theorem State.setTeam_arrivedSince (s : State) (i : Nat) (x : Team) : (s.setTeam i x).arrivedSince = s.arrivedSince := rfl
@[simp] theorem State.setTeam_normbox (s : State) (i : Nat) (x : Team) : (s.setTeam i x).normbox = s.normbox := rfl
@[simp] theorem State.setTeam_windows (s : State) (i : Nat) (x : Team) : (s.setTeam i x).windows = s.windows := rfl
@[simp] theorem State.setTeam_wfcount (s : State) (i : Nat) (x : Team) : (s.setTeam i x).wfcount = s.wfcount := rfl
@[simp] theorem State.setTeam_mbox (s : State) (i : Nat) (x : Team) : (s.setTeam i x).mbox = s.mbox := rfl
@[simp] theorem State.setTeam_ints (s : State) (i : Nat) (x : Team) : (s.setTeam i x).ints = s.ints := rfl
@[simp] theorem State.setTeam_hport (s : State) (i : Nat) (x : Team) : (s.setTeam i x).hport = s.hport := rfl
@[simp] theorem State.setTeam_lehr (s : State) (i : Nat) (x : Team) : (s.setTeam i x).lehr = s.lehr := rfl
@[simp] theorem State.setTeam_cullet (s : State) (i : Nat) (x : Team) : (s.setTeam i x).cullet = s.cullet := rfl
@[simp] theorem State.setTeam_hbmSize (s : State) (i : Nat) (x : Team) : (s.setTeam i x).hbmSize = s.hbmSize := rfl
@[simp] theorem State.setTeam_rsvSize (s : State) (i : Nat) (x : Team) : (s.setTeam i x).rsvSize = s.rsvSize := rfl
@[simp] theorem State.setTeam_cfggen (s : State) (i : Nat) (x : Team) : (s.setTeam i x).cfggen = s.cfggen := rfl
@[simp] theorem State.setTeam_cfgPending (s : State) (i : Nat) (x : Team) : (s.setTeam i x).cfgPending = s.cfgPending := rfl
@[simp] theorem State.setTeam_pcdead (s : State) (i : Nat) (x : Team) : (s.setTeam i x).pcdead = s.pcdead := rfl
@[simp] theorem State.setTeam_tables (s : State) (i : Nat) (x : Team) : (s.setTeam i x).tables = s.tables := rfl
@[simp] theorem State.setTeam_ports (s : State) (i : Nat) (x : Team) : (s.setTeam i x).ports = s.ports := rfl
@[simp] theorem State.setTeam_self (s : State) (i : Nat) (x : Team) : (s.setTeam i x).self = s.self := rfl
@[simp] theorem State.setTeam_domain (s : State) (i : Nat) (x : Team) : (s.setTeam i x).domain = s.domain := rfl
@[simp] theorem State.setTeam_lostPkgs (s : State) (i : Nat) (x : Team) : (s.setTeam i x).lostPkgs = s.lostPkgs := rfl
@[simp] theorem State.setTeam_lost (s : State) (i : Nat) (x : Team) : (s.setTeam i x).lost = s.lost := rfl
@[simp] theorem State.setTeam_fabricOut (s : State) (i : Nat) (x : Team) : (s.setTeam i x).fabricOut = s.fabricOut := rfl
@[simp] theorem State.setTeam_fabricIn (s : State) (i : Nat) (x : Team) : (s.setTeam i x).fabricIn = s.fabricIn := rfl
@[simp] theorem State.setTeam_hostOut (s : State) (i : Nat) (x : Team) : (s.setTeam i x).hostOut = s.hostOut := rfl
@[simp] theorem State.setTeam_remoteAcks (s : State) (i : Nat) (x : Team) : (s.setTeam i x).remoteAcks = s.remoteAcks := rfl
@[simp] theorem State.setTeam_devAsks (s : State) (i : Nat) (x : Team) : (s.setTeam i x).devAsks = s.devAsks := rfl
@[simp] theorem State.setTeam_regionCopies (s : State) (i : Nat) (x : Team) : (s.setTeam i x).regionCopies = s.regionCopies := rfl
@[simp] theorem State.setTeam_recReads (s : State) (i : Nat) (x : Team) : (s.setTeam i x).recReads = s.recReads := rfl
@[simp] theorem State.setTeam_frames (s : State) (i : Nat) (x : Team) : (s.setTeam i x).frames = s.frames := rfl

/-! ## `State.setCore` -/

@[simp] theorem State.setCore_cycle (s : State) (k : CoreKey) (x : Core) : (s.setCore k x).cycle = s.cycle := rfl
@[simp] theorem State.setCore_agenda (s : State) (k : CoreKey) (x : Core) : (s.setCore k x).agenda = s.agenda := rfl
@[simp] theorem State.setCore_cur (s : State) (k : CoreKey) (x : Core) : (s.setCore k x).cur = s.cur := rfl
@[simp] theorem State.setCore_fresh (s : State) (k : CoreKey) (x : Core) : (s.setCore k x).fresh = s.fresh := rfl
@[simp] theorem State.setCore_nextId (s : State) (k : CoreKey) (x : Core) : (s.setCore k x).nextId = s.nextId := rfl
@[simp] theorem State.setCore_mem (s : State) (k : CoreKey) (x : Core) : (s.setCore k x).mem = s.mem := rfl
@[simp] theorem State.setCore_stamp (s : State) (k : CoreKey) (x : Core) : (s.setCore k x).stamp = s.stamp := rfl
@[simp] theorem State.setCore_ecc (s : State) (k : CoreKey) (x : Core) : (s.setCore k x).ecc = s.ecc := rfl
@[simp] theorem State.setCore_tags (s : State) (k : CoreKey) (x : Core) : (s.setCore k x).tags = s.tags := rfl
@[simp] theorem State.setCore_l2dirty (s : State) (k : CoreKey) (x : Core) : (s.setCore k x).l2dirty = s.l2dirty := rfl
@[simp] theorem State.setCore_l2tierDirty (s : State) (k : CoreKey) (x : Core) : (s.setCore k x).l2tierDirty = s.l2tierDirty := rfl
@[simp] theorem State.setCore_images (s : State) (k : CoreKey) (x : Core) : (s.setCore k x).images = s.images := rfl
@[simp] theorem State.setCore_wbq (s : State) (k : CoreKey) (x : Core) : (s.setCore k x).wbq = s.wbq := rfl
@[simp] theorem State.setCore_modules (s : State) (k : CoreKey) (x : Core) : (s.setCore k x).modules = s.modules := rfl
@[simp] theorem State.setCore_moduleEcc (s : State) (k : CoreKey) (x : Core) : (s.setCore k x).moduleEcc = s.moduleEcc := rfl
@[simp] theorem State.setCore_moduleTags (s : State) (k : CoreKey) (x : Core) : (s.setCore k x).moduleTags = s.moduleTags := rfl
@[simp] theorem State.setCore_powered (s : State) (k : CoreKey) (x : Core) : (s.setCore k x).powered = s.powered := rfl
@[simp] theorem State.setCore_ctxs (s : State) (k : CoreKey) (x : Core) : (s.setCore k x).ctxs = s.ctxs := rfl
@[simp] theorem State.setCore_launches (s : State) (k : CoreKey) (x : Core) : (s.setCore k x).launches = s.launches := rfl
@[simp] theorem State.setCore_clusters (s : State) (k : CoreKey) (x : Core) : (s.setCore k x).clusters = s.clusters := rfl
@[simp] theorem State.setCore_teams (s : State) (k : CoreKey) (x : Core) : (s.setCore k x).teams = s.teams := rfl
@[simp] theorem State.setCore_groups (s : State) (k : CoreKey) (x : Core) : (s.setCore k x).groups = s.groups := rfl
@[simp] theorem State.setCore_cores (s : State) (k : CoreKey) (x : Core) : (s.setCore k x).cores = aset s.cores (coreIx k) x := rfl
@[simp] theorem State.setCore_dies (s : State) (k : CoreKey) (x : Core) : (s.setCore k x).dies = s.dies := rfl
@[simp] theorem State.setCore_lastDie (s : State) (k : CoreKey) (x : Core) : (s.setCore k x).lastDie = s.lastDie := rfl
@[simp] theorem State.setCore_rrPos (s : State) (k : CoreKey) (x : Core) : (s.setCore k x).rrPos = s.rrPos := rfl
@[simp] theorem State.setCore_cmds (s : State) (k : CoreKey) (x : Core) : (s.setCore k x).cmds = s.cmds := rfl
@[simp] theorem State.setCore_reqs (s : State) (k : CoreKey) (x : Core) : (s.setCore k x).reqs = s.reqs := rfl
@[simp] theorem State.setCore_net (s : State) (k : CoreKey) (x : Core) : (s.setCore k x).net = s.net := rfl
@[simp] theorem State.setCore_rels (s : State) (k : CoreKey) (x : Core) : (s.setCore k x).rels = s.rels := rfl
@[simp] theorem State.setCore_copies (s : State) (k : CoreKey) (x : Core) : (s.setCore k x).copies = s.copies := rfl
@[simp] theorem State.setCore_batches (s : State) (k : CoreKey) (x : Core) : (s.setCore k x).batches = s.batches := rfl
@[simp] theorem State.setCore_streams (s : State) (k : CoreKey) (x : Core) : (s.setCore k x).streams = s.streams := rfl
@[simp] theorem State.setCore_colls (s : State) (k : CoreKey) (x : Core) : (s.setCore k x).colls = s.colls := rfl
@[simp] theorem State.setCore_commCounts (s : State) (k : CoreKey) (x : Core) : (s.setCore k x).commCounts = s.commCounts := rfl
@[simp] theorem State.setCore_collIn (s : State) (k : CoreKey) (x : Core) : (s.setCore k x).collIn = s.collIn := rfl
@[simp] theorem State.setCore_rcls (s : State) (k : CoreKey) (x : Core) : (s.setCore k x).rcls = s.rcls := rfl
@[simp] theorem State.setCore_advances (s : State) (k : CoreKey) (x : Core) : (s.setCore k x).advances = s.advances := rfl
@[simp] theorem State.setCore_demand (s : State) (k : CoreKey) (x : Core) : (s.setCore k x).demand = s.demand := rfl
@[simp] theorem State.setCore_arrivedSince (s : State) (k : CoreKey) (x : Core) : (s.setCore k x).arrivedSince = s.arrivedSince := rfl
@[simp] theorem State.setCore_normbox (s : State) (k : CoreKey) (x : Core) : (s.setCore k x).normbox = s.normbox := rfl
@[simp] theorem State.setCore_windows (s : State) (k : CoreKey) (x : Core) : (s.setCore k x).windows = s.windows := rfl
@[simp] theorem State.setCore_wfcount (s : State) (k : CoreKey) (x : Core) : (s.setCore k x).wfcount = s.wfcount := rfl
@[simp] theorem State.setCore_mbox (s : State) (k : CoreKey) (x : Core) : (s.setCore k x).mbox = s.mbox := rfl
@[simp] theorem State.setCore_ints (s : State) (k : CoreKey) (x : Core) : (s.setCore k x).ints = s.ints := rfl
@[simp] theorem State.setCore_hport (s : State) (k : CoreKey) (x : Core) : (s.setCore k x).hport = s.hport := rfl
@[simp] theorem State.setCore_lehr (s : State) (k : CoreKey) (x : Core) : (s.setCore k x).lehr = s.lehr := rfl
@[simp] theorem State.setCore_cullet (s : State) (k : CoreKey) (x : Core) : (s.setCore k x).cullet = s.cullet := rfl
@[simp] theorem State.setCore_hbmSize (s : State) (k : CoreKey) (x : Core) : (s.setCore k x).hbmSize = s.hbmSize := rfl
@[simp] theorem State.setCore_rsvSize (s : State) (k : CoreKey) (x : Core) : (s.setCore k x).rsvSize = s.rsvSize := rfl
@[simp] theorem State.setCore_cfggen (s : State) (k : CoreKey) (x : Core) : (s.setCore k x).cfggen = s.cfggen := rfl
@[simp] theorem State.setCore_cfgPending (s : State) (k : CoreKey) (x : Core) : (s.setCore k x).cfgPending = s.cfgPending := rfl
@[simp] theorem State.setCore_pcdead (s : State) (k : CoreKey) (x : Core) : (s.setCore k x).pcdead = s.pcdead := rfl
@[simp] theorem State.setCore_tables (s : State) (k : CoreKey) (x : Core) : (s.setCore k x).tables = s.tables := rfl
@[simp] theorem State.setCore_ports (s : State) (k : CoreKey) (x : Core) : (s.setCore k x).ports = s.ports := rfl
@[simp] theorem State.setCore_self (s : State) (k : CoreKey) (x : Core) : (s.setCore k x).self = s.self := rfl
@[simp] theorem State.setCore_domain (s : State) (k : CoreKey) (x : Core) : (s.setCore k x).domain = s.domain := rfl
@[simp] theorem State.setCore_lostPkgs (s : State) (k : CoreKey) (x : Core) : (s.setCore k x).lostPkgs = s.lostPkgs := rfl
@[simp] theorem State.setCore_lost (s : State) (k : CoreKey) (x : Core) : (s.setCore k x).lost = s.lost := rfl
@[simp] theorem State.setCore_fabricOut (s : State) (k : CoreKey) (x : Core) : (s.setCore k x).fabricOut = s.fabricOut := rfl
@[simp] theorem State.setCore_fabricIn (s : State) (k : CoreKey) (x : Core) : (s.setCore k x).fabricIn = s.fabricIn := rfl
@[simp] theorem State.setCore_hostOut (s : State) (k : CoreKey) (x : Core) : (s.setCore k x).hostOut = s.hostOut := rfl
@[simp] theorem State.setCore_remoteAcks (s : State) (k : CoreKey) (x : Core) : (s.setCore k x).remoteAcks = s.remoteAcks := rfl
@[simp] theorem State.setCore_devAsks (s : State) (k : CoreKey) (x : Core) : (s.setCore k x).devAsks = s.devAsks := rfl
@[simp] theorem State.setCore_regionCopies (s : State) (k : CoreKey) (x : Core) : (s.setCore k x).regionCopies = s.regionCopies := rfl
@[simp] theorem State.setCore_recReads (s : State) (k : CoreKey) (x : Core) : (s.setCore k x).recReads = s.recReads := rfl
@[simp] theorem State.setCore_frames (s : State) (k : CoreKey) (x : Core) : (s.setCore k x).frames = s.frames := rfl

/-! ## `State.setCtx` -/

@[simp] theorem State.setCtx_cycle (s : State) (i : Nat) (x : Context) : (s.setCtx i x).cycle = s.cycle := rfl
@[simp] theorem State.setCtx_agenda (s : State) (i : Nat) (x : Context) : (s.setCtx i x).agenda = s.agenda := rfl
@[simp] theorem State.setCtx_cur (s : State) (i : Nat) (x : Context) : (s.setCtx i x).cur = s.cur := rfl
@[simp] theorem State.setCtx_fresh (s : State) (i : Nat) (x : Context) : (s.setCtx i x).fresh = s.fresh := rfl
@[simp] theorem State.setCtx_nextId (s : State) (i : Nat) (x : Context) : (s.setCtx i x).nextId = s.nextId := rfl
@[simp] theorem State.setCtx_mem (s : State) (i : Nat) (x : Context) : (s.setCtx i x).mem = s.mem := rfl
@[simp] theorem State.setCtx_stamp (s : State) (i : Nat) (x : Context) : (s.setCtx i x).stamp = s.stamp := rfl
@[simp] theorem State.setCtx_ecc (s : State) (i : Nat) (x : Context) : (s.setCtx i x).ecc = s.ecc := rfl
@[simp] theorem State.setCtx_tags (s : State) (i : Nat) (x : Context) : (s.setCtx i x).tags = s.tags := rfl
@[simp] theorem State.setCtx_l2dirty (s : State) (i : Nat) (x : Context) : (s.setCtx i x).l2dirty = s.l2dirty := rfl
@[simp] theorem State.setCtx_l2tierDirty (s : State) (i : Nat) (x : Context) : (s.setCtx i x).l2tierDirty = s.l2tierDirty := rfl
@[simp] theorem State.setCtx_images (s : State) (i : Nat) (x : Context) : (s.setCtx i x).images = s.images := rfl
@[simp] theorem State.setCtx_wbq (s : State) (i : Nat) (x : Context) : (s.setCtx i x).wbq = s.wbq := rfl
@[simp] theorem State.setCtx_modules (s : State) (i : Nat) (x : Context) : (s.setCtx i x).modules = s.modules := rfl
@[simp] theorem State.setCtx_moduleEcc (s : State) (i : Nat) (x : Context) : (s.setCtx i x).moduleEcc = s.moduleEcc := rfl
@[simp] theorem State.setCtx_moduleTags (s : State) (i : Nat) (x : Context) : (s.setCtx i x).moduleTags = s.moduleTags := rfl
@[simp] theorem State.setCtx_powered (s : State) (i : Nat) (x : Context) : (s.setCtx i x).powered = s.powered := rfl
@[simp] theorem State.setCtx_ctxs (s : State) (i : Nat) (x : Context) : (s.setCtx i x).ctxs = aset s.ctxs i x := rfl
@[simp] theorem State.setCtx_launches (s : State) (i : Nat) (x : Context) : (s.setCtx i x).launches = s.launches := rfl
@[simp] theorem State.setCtx_clusters (s : State) (i : Nat) (x : Context) : (s.setCtx i x).clusters = s.clusters := rfl
@[simp] theorem State.setCtx_teams (s : State) (i : Nat) (x : Context) : (s.setCtx i x).teams = s.teams := rfl
@[simp] theorem State.setCtx_groups (s : State) (i : Nat) (x : Context) : (s.setCtx i x).groups = s.groups := rfl
@[simp] theorem State.setCtx_cores (s : State) (i : Nat) (x : Context) : (s.setCtx i x).cores = s.cores := rfl
@[simp] theorem State.setCtx_dies (s : State) (i : Nat) (x : Context) : (s.setCtx i x).dies = s.dies := rfl
@[simp] theorem State.setCtx_lastDie (s : State) (i : Nat) (x : Context) : (s.setCtx i x).lastDie = s.lastDie := rfl
@[simp] theorem State.setCtx_rrPos (s : State) (i : Nat) (x : Context) : (s.setCtx i x).rrPos = s.rrPos := rfl
@[simp] theorem State.setCtx_cmds (s : State) (i : Nat) (x : Context) : (s.setCtx i x).cmds = s.cmds := rfl
@[simp] theorem State.setCtx_reqs (s : State) (i : Nat) (x : Context) : (s.setCtx i x).reqs = s.reqs := rfl
@[simp] theorem State.setCtx_net (s : State) (i : Nat) (x : Context) : (s.setCtx i x).net = s.net := rfl
@[simp] theorem State.setCtx_rels (s : State) (i : Nat) (x : Context) : (s.setCtx i x).rels = s.rels := rfl
@[simp] theorem State.setCtx_copies (s : State) (i : Nat) (x : Context) : (s.setCtx i x).copies = s.copies := rfl
@[simp] theorem State.setCtx_batches (s : State) (i : Nat) (x : Context) : (s.setCtx i x).batches = s.batches := rfl
@[simp] theorem State.setCtx_streams (s : State) (i : Nat) (x : Context) : (s.setCtx i x).streams = s.streams := rfl
@[simp] theorem State.setCtx_colls (s : State) (i : Nat) (x : Context) : (s.setCtx i x).colls = s.colls := rfl
@[simp] theorem State.setCtx_commCounts (s : State) (i : Nat) (x : Context) : (s.setCtx i x).commCounts = s.commCounts := rfl
@[simp] theorem State.setCtx_collIn (s : State) (i : Nat) (x : Context) : (s.setCtx i x).collIn = s.collIn := rfl
@[simp] theorem State.setCtx_rcls (s : State) (i : Nat) (x : Context) : (s.setCtx i x).rcls = s.rcls := rfl
@[simp] theorem State.setCtx_advances (s : State) (i : Nat) (x : Context) : (s.setCtx i x).advances = s.advances := rfl
@[simp] theorem State.setCtx_demand (s : State) (i : Nat) (x : Context) : (s.setCtx i x).demand = s.demand := rfl
@[simp] theorem State.setCtx_arrivedSince (s : State) (i : Nat) (x : Context) : (s.setCtx i x).arrivedSince = s.arrivedSince := rfl
@[simp] theorem State.setCtx_normbox (s : State) (i : Nat) (x : Context) : (s.setCtx i x).normbox = s.normbox := rfl
@[simp] theorem State.setCtx_windows (s : State) (i : Nat) (x : Context) : (s.setCtx i x).windows = s.windows := rfl
@[simp] theorem State.setCtx_wfcount (s : State) (i : Nat) (x : Context) : (s.setCtx i x).wfcount = s.wfcount := rfl
@[simp] theorem State.setCtx_mbox (s : State) (i : Nat) (x : Context) : (s.setCtx i x).mbox = s.mbox := rfl
@[simp] theorem State.setCtx_ints (s : State) (i : Nat) (x : Context) : (s.setCtx i x).ints = s.ints := rfl
@[simp] theorem State.setCtx_hport (s : State) (i : Nat) (x : Context) : (s.setCtx i x).hport = s.hport := rfl
@[simp] theorem State.setCtx_lehr (s : State) (i : Nat) (x : Context) : (s.setCtx i x).lehr = s.lehr := rfl
@[simp] theorem State.setCtx_cullet (s : State) (i : Nat) (x : Context) : (s.setCtx i x).cullet = s.cullet := rfl
@[simp] theorem State.setCtx_hbmSize (s : State) (i : Nat) (x : Context) : (s.setCtx i x).hbmSize = s.hbmSize := rfl
@[simp] theorem State.setCtx_rsvSize (s : State) (i : Nat) (x : Context) : (s.setCtx i x).rsvSize = s.rsvSize := rfl
@[simp] theorem State.setCtx_cfggen (s : State) (i : Nat) (x : Context) : (s.setCtx i x).cfggen = s.cfggen := rfl
@[simp] theorem State.setCtx_cfgPending (s : State) (i : Nat) (x : Context) : (s.setCtx i x).cfgPending = s.cfgPending := rfl
@[simp] theorem State.setCtx_pcdead (s : State) (i : Nat) (x : Context) : (s.setCtx i x).pcdead = s.pcdead := rfl
@[simp] theorem State.setCtx_tables (s : State) (i : Nat) (x : Context) : (s.setCtx i x).tables = s.tables := rfl
@[simp] theorem State.setCtx_ports (s : State) (i : Nat) (x : Context) : (s.setCtx i x).ports = s.ports := rfl
@[simp] theorem State.setCtx_self (s : State) (i : Nat) (x : Context) : (s.setCtx i x).self = s.self := rfl
@[simp] theorem State.setCtx_domain (s : State) (i : Nat) (x : Context) : (s.setCtx i x).domain = s.domain := rfl
@[simp] theorem State.setCtx_lostPkgs (s : State) (i : Nat) (x : Context) : (s.setCtx i x).lostPkgs = s.lostPkgs := rfl
@[simp] theorem State.setCtx_lost (s : State) (i : Nat) (x : Context) : (s.setCtx i x).lost = s.lost := rfl
@[simp] theorem State.setCtx_fabricOut (s : State) (i : Nat) (x : Context) : (s.setCtx i x).fabricOut = s.fabricOut := rfl
@[simp] theorem State.setCtx_fabricIn (s : State) (i : Nat) (x : Context) : (s.setCtx i x).fabricIn = s.fabricIn := rfl
@[simp] theorem State.setCtx_hostOut (s : State) (i : Nat) (x : Context) : (s.setCtx i x).hostOut = s.hostOut := rfl
@[simp] theorem State.setCtx_remoteAcks (s : State) (i : Nat) (x : Context) : (s.setCtx i x).remoteAcks = s.remoteAcks := rfl
@[simp] theorem State.setCtx_devAsks (s : State) (i : Nat) (x : Context) : (s.setCtx i x).devAsks = s.devAsks := rfl
@[simp] theorem State.setCtx_regionCopies (s : State) (i : Nat) (x : Context) : (s.setCtx i x).regionCopies = s.regionCopies := rfl
@[simp] theorem State.setCtx_recReads (s : State) (i : Nat) (x : Context) : (s.setCtx i x).recReads = s.recReads := rfl
@[simp] theorem State.setCtx_frames (s : State) (i : Nat) (x : Context) : (s.setCtx i x).frames = s.frames := rfl

/-! ## `State.modGroup` -/

@[simp] theorem State.modGroup_cycle (s : State) (gid : Nat) (f : Group → Group) : (s.modGroup gid f).cycle = s.cycle := rfl
@[simp] theorem State.modGroup_agenda (s : State) (gid : Nat) (f : Group → Group) : (s.modGroup gid f).agenda = s.agenda := rfl
@[simp] theorem State.modGroup_cur (s : State) (gid : Nat) (f : Group → Group) : (s.modGroup gid f).cur = s.cur := rfl
@[simp] theorem State.modGroup_fresh (s : State) (gid : Nat) (f : Group → Group) : (s.modGroup gid f).fresh = s.fresh := rfl
@[simp] theorem State.modGroup_nextId (s : State) (gid : Nat) (f : Group → Group) : (s.modGroup gid f).nextId = s.nextId := rfl
@[simp] theorem State.modGroup_mem (s : State) (gid : Nat) (f : Group → Group) : (s.modGroup gid f).mem = s.mem := rfl
@[simp] theorem State.modGroup_stamp (s : State) (gid : Nat) (f : Group → Group) : (s.modGroup gid f).stamp = s.stamp := rfl
@[simp] theorem State.modGroup_ecc (s : State) (gid : Nat) (f : Group → Group) : (s.modGroup gid f).ecc = s.ecc := rfl
@[simp] theorem State.modGroup_tags (s : State) (gid : Nat) (f : Group → Group) : (s.modGroup gid f).tags = s.tags := rfl
@[simp] theorem State.modGroup_l2dirty (s : State) (gid : Nat) (f : Group → Group) : (s.modGroup gid f).l2dirty = s.l2dirty := rfl
@[simp] theorem State.modGroup_l2tierDirty (s : State) (gid : Nat) (f : Group → Group) : (s.modGroup gid f).l2tierDirty = s.l2tierDirty := rfl
@[simp] theorem State.modGroup_images (s : State) (gid : Nat) (f : Group → Group) : (s.modGroup gid f).images = s.images := rfl
@[simp] theorem State.modGroup_wbq (s : State) (gid : Nat) (f : Group → Group) : (s.modGroup gid f).wbq = s.wbq := rfl
@[simp] theorem State.modGroup_modules (s : State) (gid : Nat) (f : Group → Group) : (s.modGroup gid f).modules = s.modules := rfl
@[simp] theorem State.modGroup_moduleEcc (s : State) (gid : Nat) (f : Group → Group) : (s.modGroup gid f).moduleEcc = s.moduleEcc := rfl
@[simp] theorem State.modGroup_moduleTags (s : State) (gid : Nat) (f : Group → Group) : (s.modGroup gid f).moduleTags = s.moduleTags := rfl
@[simp] theorem State.modGroup_powered (s : State) (gid : Nat) (f : Group → Group) : (s.modGroup gid f).powered = s.powered := rfl
@[simp] theorem State.modGroup_ctxs (s : State) (gid : Nat) (f : Group → Group) : (s.modGroup gid f).ctxs = s.ctxs := rfl
@[simp] theorem State.modGroup_launches (s : State) (gid : Nat) (f : Group → Group) : (s.modGroup gid f).launches = s.launches := rfl
@[simp] theorem State.modGroup_clusters (s : State) (gid : Nat) (f : Group → Group) : (s.modGroup gid f).clusters = s.clusters := rfl
@[simp] theorem State.modGroup_teams (s : State) (gid : Nat) (f : Group → Group) : (s.modGroup gid f).teams = s.teams := rfl
@[simp] theorem State.modGroup_groups (s : State) (gid : Nat) (f : Group → Group) : (s.modGroup gid f).groups = amod s.groups gid f := rfl
@[simp] theorem State.modGroup_cores (s : State) (gid : Nat) (f : Group → Group) : (s.modGroup gid f).cores = s.cores := rfl
@[simp] theorem State.modGroup_dies (s : State) (gid : Nat) (f : Group → Group) : (s.modGroup gid f).dies = s.dies := rfl
@[simp] theorem State.modGroup_lastDie (s : State) (gid : Nat) (f : Group → Group) : (s.modGroup gid f).lastDie = s.lastDie := rfl
@[simp] theorem State.modGroup_rrPos (s : State) (gid : Nat) (f : Group → Group) : (s.modGroup gid f).rrPos = s.rrPos := rfl
@[simp] theorem State.modGroup_cmds (s : State) (gid : Nat) (f : Group → Group) : (s.modGroup gid f).cmds = s.cmds := rfl
@[simp] theorem State.modGroup_reqs (s : State) (gid : Nat) (f : Group → Group) : (s.modGroup gid f).reqs = s.reqs := rfl
@[simp] theorem State.modGroup_net (s : State) (gid : Nat) (f : Group → Group) : (s.modGroup gid f).net = s.net := rfl
@[simp] theorem State.modGroup_rels (s : State) (gid : Nat) (f : Group → Group) : (s.modGroup gid f).rels = s.rels := rfl
@[simp] theorem State.modGroup_copies (s : State) (gid : Nat) (f : Group → Group) : (s.modGroup gid f).copies = s.copies := rfl
@[simp] theorem State.modGroup_batches (s : State) (gid : Nat) (f : Group → Group) : (s.modGroup gid f).batches = s.batches := rfl
@[simp] theorem State.modGroup_streams (s : State) (gid : Nat) (f : Group → Group) : (s.modGroup gid f).streams = s.streams := rfl
@[simp] theorem State.modGroup_colls (s : State) (gid : Nat) (f : Group → Group) : (s.modGroup gid f).colls = s.colls := rfl
@[simp] theorem State.modGroup_commCounts (s : State) (gid : Nat) (f : Group → Group) : (s.modGroup gid f).commCounts = s.commCounts := rfl
@[simp] theorem State.modGroup_collIn (s : State) (gid : Nat) (f : Group → Group) : (s.modGroup gid f).collIn = s.collIn := rfl
@[simp] theorem State.modGroup_rcls (s : State) (gid : Nat) (f : Group → Group) : (s.modGroup gid f).rcls = s.rcls := rfl
@[simp] theorem State.modGroup_advances (s : State) (gid : Nat) (f : Group → Group) : (s.modGroup gid f).advances = s.advances := rfl
@[simp] theorem State.modGroup_demand (s : State) (gid : Nat) (f : Group → Group) : (s.modGroup gid f).demand = s.demand := rfl
@[simp] theorem State.modGroup_arrivedSince (s : State) (gid : Nat) (f : Group → Group) : (s.modGroup gid f).arrivedSince = s.arrivedSince := rfl
@[simp] theorem State.modGroup_normbox (s : State) (gid : Nat) (f : Group → Group) : (s.modGroup gid f).normbox = s.normbox := rfl
@[simp] theorem State.modGroup_windows (s : State) (gid : Nat) (f : Group → Group) : (s.modGroup gid f).windows = s.windows := rfl
@[simp] theorem State.modGroup_wfcount (s : State) (gid : Nat) (f : Group → Group) : (s.modGroup gid f).wfcount = s.wfcount := rfl
@[simp] theorem State.modGroup_mbox (s : State) (gid : Nat) (f : Group → Group) : (s.modGroup gid f).mbox = s.mbox := rfl
@[simp] theorem State.modGroup_ints (s : State) (gid : Nat) (f : Group → Group) : (s.modGroup gid f).ints = s.ints := rfl
@[simp] theorem State.modGroup_hport (s : State) (gid : Nat) (f : Group → Group) : (s.modGroup gid f).hport = s.hport := rfl
@[simp] theorem State.modGroup_lehr (s : State) (gid : Nat) (f : Group → Group) : (s.modGroup gid f).lehr = s.lehr := rfl
@[simp] theorem State.modGroup_cullet (s : State) (gid : Nat) (f : Group → Group) : (s.modGroup gid f).cullet = s.cullet := rfl
@[simp] theorem State.modGroup_hbmSize (s : State) (gid : Nat) (f : Group → Group) : (s.modGroup gid f).hbmSize = s.hbmSize := rfl
@[simp] theorem State.modGroup_rsvSize (s : State) (gid : Nat) (f : Group → Group) : (s.modGroup gid f).rsvSize = s.rsvSize := rfl
@[simp] theorem State.modGroup_cfggen (s : State) (gid : Nat) (f : Group → Group) : (s.modGroup gid f).cfggen = s.cfggen := rfl
@[simp] theorem State.modGroup_cfgPending (s : State) (gid : Nat) (f : Group → Group) : (s.modGroup gid f).cfgPending = s.cfgPending := rfl
@[simp] theorem State.modGroup_pcdead (s : State) (gid : Nat) (f : Group → Group) : (s.modGroup gid f).pcdead = s.pcdead := rfl
@[simp] theorem State.modGroup_tables (s : State) (gid : Nat) (f : Group → Group) : (s.modGroup gid f).tables = s.tables := rfl
@[simp] theorem State.modGroup_ports (s : State) (gid : Nat) (f : Group → Group) : (s.modGroup gid f).ports = s.ports := rfl
@[simp] theorem State.modGroup_self (s : State) (gid : Nat) (f : Group → Group) : (s.modGroup gid f).self = s.self := rfl
@[simp] theorem State.modGroup_domain (s : State) (gid : Nat) (f : Group → Group) : (s.modGroup gid f).domain = s.domain := rfl
@[simp] theorem State.modGroup_lostPkgs (s : State) (gid : Nat) (f : Group → Group) : (s.modGroup gid f).lostPkgs = s.lostPkgs := rfl
@[simp] theorem State.modGroup_lost (s : State) (gid : Nat) (f : Group → Group) : (s.modGroup gid f).lost = s.lost := rfl
@[simp] theorem State.modGroup_fabricOut (s : State) (gid : Nat) (f : Group → Group) : (s.modGroup gid f).fabricOut = s.fabricOut := rfl
@[simp] theorem State.modGroup_fabricIn (s : State) (gid : Nat) (f : Group → Group) : (s.modGroup gid f).fabricIn = s.fabricIn := rfl
@[simp] theorem State.modGroup_hostOut (s : State) (gid : Nat) (f : Group → Group) : (s.modGroup gid f).hostOut = s.hostOut := rfl
@[simp] theorem State.modGroup_remoteAcks (s : State) (gid : Nat) (f : Group → Group) : (s.modGroup gid f).remoteAcks = s.remoteAcks := rfl
@[simp] theorem State.modGroup_devAsks (s : State) (gid : Nat) (f : Group → Group) : (s.modGroup gid f).devAsks = s.devAsks := rfl
@[simp] theorem State.modGroup_regionCopies (s : State) (gid : Nat) (f : Group → Group) : (s.modGroup gid f).regionCopies = s.regionCopies := rfl
@[simp] theorem State.modGroup_recReads (s : State) (gid : Nat) (f : Group → Group) : (s.modGroup gid f).recReads = s.recReads := rfl
@[simp] theorem State.modGroup_frames (s : State) (gid : Nat) (f : Group → Group) : (s.modGroup gid f).frames = s.frames := rfl

/-! ## `State.modTeam` -/

@[simp] theorem State.modTeam_cycle (s : State) (i : Nat) (f : Team → Team) : (s.modTeam i f).cycle = s.cycle := rfl
@[simp] theorem State.modTeam_agenda (s : State) (i : Nat) (f : Team → Team) : (s.modTeam i f).agenda = s.agenda := rfl
@[simp] theorem State.modTeam_cur (s : State) (i : Nat) (f : Team → Team) : (s.modTeam i f).cur = s.cur := rfl
@[simp] theorem State.modTeam_fresh (s : State) (i : Nat) (f : Team → Team) : (s.modTeam i f).fresh = s.fresh := rfl
@[simp] theorem State.modTeam_nextId (s : State) (i : Nat) (f : Team → Team) : (s.modTeam i f).nextId = s.nextId := rfl
@[simp] theorem State.modTeam_mem (s : State) (i : Nat) (f : Team → Team) : (s.modTeam i f).mem = s.mem := rfl
@[simp] theorem State.modTeam_stamp (s : State) (i : Nat) (f : Team → Team) : (s.modTeam i f).stamp = s.stamp := rfl
@[simp] theorem State.modTeam_ecc (s : State) (i : Nat) (f : Team → Team) : (s.modTeam i f).ecc = s.ecc := rfl
@[simp] theorem State.modTeam_tags (s : State) (i : Nat) (f : Team → Team) : (s.modTeam i f).tags = s.tags := rfl
@[simp] theorem State.modTeam_l2dirty (s : State) (i : Nat) (f : Team → Team) : (s.modTeam i f).l2dirty = s.l2dirty := rfl
@[simp] theorem State.modTeam_l2tierDirty (s : State) (i : Nat) (f : Team → Team) : (s.modTeam i f).l2tierDirty = s.l2tierDirty := rfl
@[simp] theorem State.modTeam_images (s : State) (i : Nat) (f : Team → Team) : (s.modTeam i f).images = s.images := rfl
@[simp] theorem State.modTeam_wbq (s : State) (i : Nat) (f : Team → Team) : (s.modTeam i f).wbq = s.wbq := rfl
@[simp] theorem State.modTeam_modules (s : State) (i : Nat) (f : Team → Team) : (s.modTeam i f).modules = s.modules := rfl
@[simp] theorem State.modTeam_moduleEcc (s : State) (i : Nat) (f : Team → Team) : (s.modTeam i f).moduleEcc = s.moduleEcc := rfl
@[simp] theorem State.modTeam_moduleTags (s : State) (i : Nat) (f : Team → Team) : (s.modTeam i f).moduleTags = s.moduleTags := rfl
@[simp] theorem State.modTeam_powered (s : State) (i : Nat) (f : Team → Team) : (s.modTeam i f).powered = s.powered := rfl
@[simp] theorem State.modTeam_ctxs (s : State) (i : Nat) (f : Team → Team) : (s.modTeam i f).ctxs = s.ctxs := rfl
@[simp] theorem State.modTeam_launches (s : State) (i : Nat) (f : Team → Team) : (s.modTeam i f).launches = s.launches := rfl
@[simp] theorem State.modTeam_clusters (s : State) (i : Nat) (f : Team → Team) : (s.modTeam i f).clusters = s.clusters := rfl
@[simp] theorem State.modTeam_teams (s : State) (i : Nat) (f : Team → Team) : (s.modTeam i f).teams = amod s.teams i f := rfl
@[simp] theorem State.modTeam_groups (s : State) (i : Nat) (f : Team → Team) : (s.modTeam i f).groups = s.groups := rfl
@[simp] theorem State.modTeam_cores (s : State) (i : Nat) (f : Team → Team) : (s.modTeam i f).cores = s.cores := rfl
@[simp] theorem State.modTeam_dies (s : State) (i : Nat) (f : Team → Team) : (s.modTeam i f).dies = s.dies := rfl
@[simp] theorem State.modTeam_lastDie (s : State) (i : Nat) (f : Team → Team) : (s.modTeam i f).lastDie = s.lastDie := rfl
@[simp] theorem State.modTeam_rrPos (s : State) (i : Nat) (f : Team → Team) : (s.modTeam i f).rrPos = s.rrPos := rfl
@[simp] theorem State.modTeam_cmds (s : State) (i : Nat) (f : Team → Team) : (s.modTeam i f).cmds = s.cmds := rfl
@[simp] theorem State.modTeam_reqs (s : State) (i : Nat) (f : Team → Team) : (s.modTeam i f).reqs = s.reqs := rfl
@[simp] theorem State.modTeam_net (s : State) (i : Nat) (f : Team → Team) : (s.modTeam i f).net = s.net := rfl
@[simp] theorem State.modTeam_rels (s : State) (i : Nat) (f : Team → Team) : (s.modTeam i f).rels = s.rels := rfl
@[simp] theorem State.modTeam_copies (s : State) (i : Nat) (f : Team → Team) : (s.modTeam i f).copies = s.copies := rfl
@[simp] theorem State.modTeam_batches (s : State) (i : Nat) (f : Team → Team) : (s.modTeam i f).batches = s.batches := rfl
@[simp] theorem State.modTeam_streams (s : State) (i : Nat) (f : Team → Team) : (s.modTeam i f).streams = s.streams := rfl
@[simp] theorem State.modTeam_colls (s : State) (i : Nat) (f : Team → Team) : (s.modTeam i f).colls = s.colls := rfl
@[simp] theorem State.modTeam_commCounts (s : State) (i : Nat) (f : Team → Team) : (s.modTeam i f).commCounts = s.commCounts := rfl
@[simp] theorem State.modTeam_collIn (s : State) (i : Nat) (f : Team → Team) : (s.modTeam i f).collIn = s.collIn := rfl
@[simp] theorem State.modTeam_rcls (s : State) (i : Nat) (f : Team → Team) : (s.modTeam i f).rcls = s.rcls := rfl
@[simp] theorem State.modTeam_advances (s : State) (i : Nat) (f : Team → Team) : (s.modTeam i f).advances = s.advances := rfl
@[simp] theorem State.modTeam_demand (s : State) (i : Nat) (f : Team → Team) : (s.modTeam i f).demand = s.demand := rfl
@[simp] theorem State.modTeam_arrivedSince (s : State) (i : Nat) (f : Team → Team) : (s.modTeam i f).arrivedSince = s.arrivedSince := rfl
@[simp] theorem State.modTeam_normbox (s : State) (i : Nat) (f : Team → Team) : (s.modTeam i f).normbox = s.normbox := rfl
@[simp] theorem State.modTeam_windows (s : State) (i : Nat) (f : Team → Team) : (s.modTeam i f).windows = s.windows := rfl
@[simp] theorem State.modTeam_wfcount (s : State) (i : Nat) (f : Team → Team) : (s.modTeam i f).wfcount = s.wfcount := rfl
@[simp] theorem State.modTeam_mbox (s : State) (i : Nat) (f : Team → Team) : (s.modTeam i f).mbox = s.mbox := rfl
@[simp] theorem State.modTeam_ints (s : State) (i : Nat) (f : Team → Team) : (s.modTeam i f).ints = s.ints := rfl
@[simp] theorem State.modTeam_hport (s : State) (i : Nat) (f : Team → Team) : (s.modTeam i f).hport = s.hport := rfl
@[simp] theorem State.modTeam_lehr (s : State) (i : Nat) (f : Team → Team) : (s.modTeam i f).lehr = s.lehr := rfl
@[simp] theorem State.modTeam_cullet (s : State) (i : Nat) (f : Team → Team) : (s.modTeam i f).cullet = s.cullet := rfl
@[simp] theorem State.modTeam_hbmSize (s : State) (i : Nat) (f : Team → Team) : (s.modTeam i f).hbmSize = s.hbmSize := rfl
@[simp] theorem State.modTeam_rsvSize (s : State) (i : Nat) (f : Team → Team) : (s.modTeam i f).rsvSize = s.rsvSize := rfl
@[simp] theorem State.modTeam_cfggen (s : State) (i : Nat) (f : Team → Team) : (s.modTeam i f).cfggen = s.cfggen := rfl
@[simp] theorem State.modTeam_cfgPending (s : State) (i : Nat) (f : Team → Team) : (s.modTeam i f).cfgPending = s.cfgPending := rfl
@[simp] theorem State.modTeam_pcdead (s : State) (i : Nat) (f : Team → Team) : (s.modTeam i f).pcdead = s.pcdead := rfl
@[simp] theorem State.modTeam_tables (s : State) (i : Nat) (f : Team → Team) : (s.modTeam i f).tables = s.tables := rfl
@[simp] theorem State.modTeam_ports (s : State) (i : Nat) (f : Team → Team) : (s.modTeam i f).ports = s.ports := rfl
@[simp] theorem State.modTeam_self (s : State) (i : Nat) (f : Team → Team) : (s.modTeam i f).self = s.self := rfl
@[simp] theorem State.modTeam_domain (s : State) (i : Nat) (f : Team → Team) : (s.modTeam i f).domain = s.domain := rfl
@[simp] theorem State.modTeam_lostPkgs (s : State) (i : Nat) (f : Team → Team) : (s.modTeam i f).lostPkgs = s.lostPkgs := rfl
@[simp] theorem State.modTeam_lost (s : State) (i : Nat) (f : Team → Team) : (s.modTeam i f).lost = s.lost := rfl
@[simp] theorem State.modTeam_fabricOut (s : State) (i : Nat) (f : Team → Team) : (s.modTeam i f).fabricOut = s.fabricOut := rfl
@[simp] theorem State.modTeam_fabricIn (s : State) (i : Nat) (f : Team → Team) : (s.modTeam i f).fabricIn = s.fabricIn := rfl
@[simp] theorem State.modTeam_hostOut (s : State) (i : Nat) (f : Team → Team) : (s.modTeam i f).hostOut = s.hostOut := rfl
@[simp] theorem State.modTeam_remoteAcks (s : State) (i : Nat) (f : Team → Team) : (s.modTeam i f).remoteAcks = s.remoteAcks := rfl
@[simp] theorem State.modTeam_devAsks (s : State) (i : Nat) (f : Team → Team) : (s.modTeam i f).devAsks = s.devAsks := rfl
@[simp] theorem State.modTeam_regionCopies (s : State) (i : Nat) (f : Team → Team) : (s.modTeam i f).regionCopies = s.regionCopies := rfl
@[simp] theorem State.modTeam_recReads (s : State) (i : Nat) (f : Team → Team) : (s.modTeam i f).recReads = s.recReads := rfl
@[simp] theorem State.modTeam_frames (s : State) (i : Nat) (f : Team → Team) : (s.modTeam i f).frames = s.frames := rfl

/-! ## `State.modCore` -/

@[simp] theorem State.modCore_cycle (s : State) (k : CoreKey) (f : Core → Core) : (s.modCore k f).cycle = s.cycle := rfl
@[simp] theorem State.modCore_agenda (s : State) (k : CoreKey) (f : Core → Core) : (s.modCore k f).agenda = s.agenda := rfl
@[simp] theorem State.modCore_cur (s : State) (k : CoreKey) (f : Core → Core) : (s.modCore k f).cur = s.cur := rfl
@[simp] theorem State.modCore_fresh (s : State) (k : CoreKey) (f : Core → Core) : (s.modCore k f).fresh = s.fresh := rfl
@[simp] theorem State.modCore_nextId (s : State) (k : CoreKey) (f : Core → Core) : (s.modCore k f).nextId = s.nextId := rfl
@[simp] theorem State.modCore_mem (s : State) (k : CoreKey) (f : Core → Core) : (s.modCore k f).mem = s.mem := rfl
@[simp] theorem State.modCore_stamp (s : State) (k : CoreKey) (f : Core → Core) : (s.modCore k f).stamp = s.stamp := rfl
@[simp] theorem State.modCore_ecc (s : State) (k : CoreKey) (f : Core → Core) : (s.modCore k f).ecc = s.ecc := rfl
@[simp] theorem State.modCore_tags (s : State) (k : CoreKey) (f : Core → Core) : (s.modCore k f).tags = s.tags := rfl
@[simp] theorem State.modCore_l2dirty (s : State) (k : CoreKey) (f : Core → Core) : (s.modCore k f).l2dirty = s.l2dirty := rfl
@[simp] theorem State.modCore_l2tierDirty (s : State) (k : CoreKey) (f : Core → Core) : (s.modCore k f).l2tierDirty = s.l2tierDirty := rfl
@[simp] theorem State.modCore_images (s : State) (k : CoreKey) (f : Core → Core) : (s.modCore k f).images = s.images := rfl
@[simp] theorem State.modCore_wbq (s : State) (k : CoreKey) (f : Core → Core) : (s.modCore k f).wbq = s.wbq := rfl
@[simp] theorem State.modCore_modules (s : State) (k : CoreKey) (f : Core → Core) : (s.modCore k f).modules = s.modules := rfl
@[simp] theorem State.modCore_moduleEcc (s : State) (k : CoreKey) (f : Core → Core) : (s.modCore k f).moduleEcc = s.moduleEcc := rfl
@[simp] theorem State.modCore_moduleTags (s : State) (k : CoreKey) (f : Core → Core) : (s.modCore k f).moduleTags = s.moduleTags := rfl
@[simp] theorem State.modCore_powered (s : State) (k : CoreKey) (f : Core → Core) : (s.modCore k f).powered = s.powered := rfl
@[simp] theorem State.modCore_ctxs (s : State) (k : CoreKey) (f : Core → Core) : (s.modCore k f).ctxs = s.ctxs := rfl
@[simp] theorem State.modCore_launches (s : State) (k : CoreKey) (f : Core → Core) : (s.modCore k f).launches = s.launches := rfl
@[simp] theorem State.modCore_clusters (s : State) (k : CoreKey) (f : Core → Core) : (s.modCore k f).clusters = s.clusters := rfl
@[simp] theorem State.modCore_teams (s : State) (k : CoreKey) (f : Core → Core) : (s.modCore k f).teams = s.teams := rfl
@[simp] theorem State.modCore_groups (s : State) (k : CoreKey) (f : Core → Core) : (s.modCore k f).groups = s.groups := rfl
@[simp] theorem State.modCore_cores (s : State) (k : CoreKey) (f : Core → Core) : (s.modCore k f).cores = aset s.cores (coreIx k) (f (s.core k)) := rfl
@[simp] theorem State.modCore_dies (s : State) (k : CoreKey) (f : Core → Core) : (s.modCore k f).dies = s.dies := rfl
@[simp] theorem State.modCore_lastDie (s : State) (k : CoreKey) (f : Core → Core) : (s.modCore k f).lastDie = s.lastDie := rfl
@[simp] theorem State.modCore_rrPos (s : State) (k : CoreKey) (f : Core → Core) : (s.modCore k f).rrPos = s.rrPos := rfl
@[simp] theorem State.modCore_cmds (s : State) (k : CoreKey) (f : Core → Core) : (s.modCore k f).cmds = s.cmds := rfl
@[simp] theorem State.modCore_reqs (s : State) (k : CoreKey) (f : Core → Core) : (s.modCore k f).reqs = s.reqs := rfl
@[simp] theorem State.modCore_net (s : State) (k : CoreKey) (f : Core → Core) : (s.modCore k f).net = s.net := rfl
@[simp] theorem State.modCore_rels (s : State) (k : CoreKey) (f : Core → Core) : (s.modCore k f).rels = s.rels := rfl
@[simp] theorem State.modCore_copies (s : State) (k : CoreKey) (f : Core → Core) : (s.modCore k f).copies = s.copies := rfl
@[simp] theorem State.modCore_batches (s : State) (k : CoreKey) (f : Core → Core) : (s.modCore k f).batches = s.batches := rfl
@[simp] theorem State.modCore_streams (s : State) (k : CoreKey) (f : Core → Core) : (s.modCore k f).streams = s.streams := rfl
@[simp] theorem State.modCore_colls (s : State) (k : CoreKey) (f : Core → Core) : (s.modCore k f).colls = s.colls := rfl
@[simp] theorem State.modCore_commCounts (s : State) (k : CoreKey) (f : Core → Core) : (s.modCore k f).commCounts = s.commCounts := rfl
@[simp] theorem State.modCore_collIn (s : State) (k : CoreKey) (f : Core → Core) : (s.modCore k f).collIn = s.collIn := rfl
@[simp] theorem State.modCore_rcls (s : State) (k : CoreKey) (f : Core → Core) : (s.modCore k f).rcls = s.rcls := rfl
@[simp] theorem State.modCore_advances (s : State) (k : CoreKey) (f : Core → Core) : (s.modCore k f).advances = s.advances := rfl
@[simp] theorem State.modCore_demand (s : State) (k : CoreKey) (f : Core → Core) : (s.modCore k f).demand = s.demand := rfl
@[simp] theorem State.modCore_arrivedSince (s : State) (k : CoreKey) (f : Core → Core) : (s.modCore k f).arrivedSince = s.arrivedSince := rfl
@[simp] theorem State.modCore_normbox (s : State) (k : CoreKey) (f : Core → Core) : (s.modCore k f).normbox = s.normbox := rfl
@[simp] theorem State.modCore_windows (s : State) (k : CoreKey) (f : Core → Core) : (s.modCore k f).windows = s.windows := rfl
@[simp] theorem State.modCore_wfcount (s : State) (k : CoreKey) (f : Core → Core) : (s.modCore k f).wfcount = s.wfcount := rfl
@[simp] theorem State.modCore_mbox (s : State) (k : CoreKey) (f : Core → Core) : (s.modCore k f).mbox = s.mbox := rfl
@[simp] theorem State.modCore_ints (s : State) (k : CoreKey) (f : Core → Core) : (s.modCore k f).ints = s.ints := rfl
@[simp] theorem State.modCore_hport (s : State) (k : CoreKey) (f : Core → Core) : (s.modCore k f).hport = s.hport := rfl
@[simp] theorem State.modCore_lehr (s : State) (k : CoreKey) (f : Core → Core) : (s.modCore k f).lehr = s.lehr := rfl
@[simp] theorem State.modCore_cullet (s : State) (k : CoreKey) (f : Core → Core) : (s.modCore k f).cullet = s.cullet := rfl
@[simp] theorem State.modCore_hbmSize (s : State) (k : CoreKey) (f : Core → Core) : (s.modCore k f).hbmSize = s.hbmSize := rfl
@[simp] theorem State.modCore_rsvSize (s : State) (k : CoreKey) (f : Core → Core) : (s.modCore k f).rsvSize = s.rsvSize := rfl
@[simp] theorem State.modCore_cfggen (s : State) (k : CoreKey) (f : Core → Core) : (s.modCore k f).cfggen = s.cfggen := rfl
@[simp] theorem State.modCore_cfgPending (s : State) (k : CoreKey) (f : Core → Core) : (s.modCore k f).cfgPending = s.cfgPending := rfl
@[simp] theorem State.modCore_pcdead (s : State) (k : CoreKey) (f : Core → Core) : (s.modCore k f).pcdead = s.pcdead := rfl
@[simp] theorem State.modCore_tables (s : State) (k : CoreKey) (f : Core → Core) : (s.modCore k f).tables = s.tables := rfl
@[simp] theorem State.modCore_ports (s : State) (k : CoreKey) (f : Core → Core) : (s.modCore k f).ports = s.ports := rfl
@[simp] theorem State.modCore_self (s : State) (k : CoreKey) (f : Core → Core) : (s.modCore k f).self = s.self := rfl
@[simp] theorem State.modCore_domain (s : State) (k : CoreKey) (f : Core → Core) : (s.modCore k f).domain = s.domain := rfl
@[simp] theorem State.modCore_lostPkgs (s : State) (k : CoreKey) (f : Core → Core) : (s.modCore k f).lostPkgs = s.lostPkgs := rfl
@[simp] theorem State.modCore_lost (s : State) (k : CoreKey) (f : Core → Core) : (s.modCore k f).lost = s.lost := rfl
@[simp] theorem State.modCore_fabricOut (s : State) (k : CoreKey) (f : Core → Core) : (s.modCore k f).fabricOut = s.fabricOut := rfl
@[simp] theorem State.modCore_fabricIn (s : State) (k : CoreKey) (f : Core → Core) : (s.modCore k f).fabricIn = s.fabricIn := rfl
@[simp] theorem State.modCore_hostOut (s : State) (k : CoreKey) (f : Core → Core) : (s.modCore k f).hostOut = s.hostOut := rfl
@[simp] theorem State.modCore_remoteAcks (s : State) (k : CoreKey) (f : Core → Core) : (s.modCore k f).remoteAcks = s.remoteAcks := rfl
@[simp] theorem State.modCore_devAsks (s : State) (k : CoreKey) (f : Core → Core) : (s.modCore k f).devAsks = s.devAsks := rfl
@[simp] theorem State.modCore_regionCopies (s : State) (k : CoreKey) (f : Core → Core) : (s.modCore k f).regionCopies = s.regionCopies := rfl
@[simp] theorem State.modCore_recReads (s : State) (k : CoreKey) (f : Core → Core) : (s.modCore k f).recReads = s.recReads := rfl
@[simp] theorem State.modCore_frames (s : State) (k : CoreKey) (f : Core → Core) : (s.modCore k f).frames = s.frames := rfl

/-! ## `State.modCtx` -/

@[simp] theorem State.modCtx_cycle (s : State) (i : Nat) (f : Context → Context) : (s.modCtx i f).cycle = s.cycle := rfl
@[simp] theorem State.modCtx_agenda (s : State) (i : Nat) (f : Context → Context) : (s.modCtx i f).agenda = s.agenda := rfl
@[simp] theorem State.modCtx_cur (s : State) (i : Nat) (f : Context → Context) : (s.modCtx i f).cur = s.cur := rfl
@[simp] theorem State.modCtx_fresh (s : State) (i : Nat) (f : Context → Context) : (s.modCtx i f).fresh = s.fresh := rfl
@[simp] theorem State.modCtx_nextId (s : State) (i : Nat) (f : Context → Context) : (s.modCtx i f).nextId = s.nextId := rfl
@[simp] theorem State.modCtx_mem (s : State) (i : Nat) (f : Context → Context) : (s.modCtx i f).mem = s.mem := rfl
@[simp] theorem State.modCtx_stamp (s : State) (i : Nat) (f : Context → Context) : (s.modCtx i f).stamp = s.stamp := rfl
@[simp] theorem State.modCtx_ecc (s : State) (i : Nat) (f : Context → Context) : (s.modCtx i f).ecc = s.ecc := rfl
@[simp] theorem State.modCtx_tags (s : State) (i : Nat) (f : Context → Context) : (s.modCtx i f).tags = s.tags := rfl
@[simp] theorem State.modCtx_l2dirty (s : State) (i : Nat) (f : Context → Context) : (s.modCtx i f).l2dirty = s.l2dirty := rfl
@[simp] theorem State.modCtx_l2tierDirty (s : State) (i : Nat) (f : Context → Context) : (s.modCtx i f).l2tierDirty = s.l2tierDirty := rfl
@[simp] theorem State.modCtx_images (s : State) (i : Nat) (f : Context → Context) : (s.modCtx i f).images = s.images := rfl
@[simp] theorem State.modCtx_wbq (s : State) (i : Nat) (f : Context → Context) : (s.modCtx i f).wbq = s.wbq := rfl
@[simp] theorem State.modCtx_modules (s : State) (i : Nat) (f : Context → Context) : (s.modCtx i f).modules = s.modules := rfl
@[simp] theorem State.modCtx_moduleEcc (s : State) (i : Nat) (f : Context → Context) : (s.modCtx i f).moduleEcc = s.moduleEcc := rfl
@[simp] theorem State.modCtx_moduleTags (s : State) (i : Nat) (f : Context → Context) : (s.modCtx i f).moduleTags = s.moduleTags := rfl
@[simp] theorem State.modCtx_powered (s : State) (i : Nat) (f : Context → Context) : (s.modCtx i f).powered = s.powered := rfl
@[simp] theorem State.modCtx_ctxs (s : State) (i : Nat) (f : Context → Context) : (s.modCtx i f).ctxs = aset s.ctxs i (f (s.ctx i)) := rfl
@[simp] theorem State.modCtx_launches (s : State) (i : Nat) (f : Context → Context) : (s.modCtx i f).launches = s.launches := rfl
@[simp] theorem State.modCtx_clusters (s : State) (i : Nat) (f : Context → Context) : (s.modCtx i f).clusters = s.clusters := rfl
@[simp] theorem State.modCtx_teams (s : State) (i : Nat) (f : Context → Context) : (s.modCtx i f).teams = s.teams := rfl
@[simp] theorem State.modCtx_groups (s : State) (i : Nat) (f : Context → Context) : (s.modCtx i f).groups = s.groups := rfl
@[simp] theorem State.modCtx_cores (s : State) (i : Nat) (f : Context → Context) : (s.modCtx i f).cores = s.cores := rfl
@[simp] theorem State.modCtx_dies (s : State) (i : Nat) (f : Context → Context) : (s.modCtx i f).dies = s.dies := rfl
@[simp] theorem State.modCtx_lastDie (s : State) (i : Nat) (f : Context → Context) : (s.modCtx i f).lastDie = s.lastDie := rfl
@[simp] theorem State.modCtx_rrPos (s : State) (i : Nat) (f : Context → Context) : (s.modCtx i f).rrPos = s.rrPos := rfl
@[simp] theorem State.modCtx_cmds (s : State) (i : Nat) (f : Context → Context) : (s.modCtx i f).cmds = s.cmds := rfl
@[simp] theorem State.modCtx_reqs (s : State) (i : Nat) (f : Context → Context) : (s.modCtx i f).reqs = s.reqs := rfl
@[simp] theorem State.modCtx_net (s : State) (i : Nat) (f : Context → Context) : (s.modCtx i f).net = s.net := rfl
@[simp] theorem State.modCtx_rels (s : State) (i : Nat) (f : Context → Context) : (s.modCtx i f).rels = s.rels := rfl
@[simp] theorem State.modCtx_copies (s : State) (i : Nat) (f : Context → Context) : (s.modCtx i f).copies = s.copies := rfl
@[simp] theorem State.modCtx_batches (s : State) (i : Nat) (f : Context → Context) : (s.modCtx i f).batches = s.batches := rfl
@[simp] theorem State.modCtx_streams (s : State) (i : Nat) (f : Context → Context) : (s.modCtx i f).streams = s.streams := rfl
@[simp] theorem State.modCtx_colls (s : State) (i : Nat) (f : Context → Context) : (s.modCtx i f).colls = s.colls := rfl
@[simp] theorem State.modCtx_commCounts (s : State) (i : Nat) (f : Context → Context) : (s.modCtx i f).commCounts = s.commCounts := rfl
@[simp] theorem State.modCtx_collIn (s : State) (i : Nat) (f : Context → Context) : (s.modCtx i f).collIn = s.collIn := rfl
@[simp] theorem State.modCtx_rcls (s : State) (i : Nat) (f : Context → Context) : (s.modCtx i f).rcls = s.rcls := rfl
@[simp] theorem State.modCtx_advances (s : State) (i : Nat) (f : Context → Context) : (s.modCtx i f).advances = s.advances := rfl
@[simp] theorem State.modCtx_demand (s : State) (i : Nat) (f : Context → Context) : (s.modCtx i f).demand = s.demand := rfl
@[simp] theorem State.modCtx_arrivedSince (s : State) (i : Nat) (f : Context → Context) : (s.modCtx i f).arrivedSince = s.arrivedSince := rfl
@[simp] theorem State.modCtx_normbox (s : State) (i : Nat) (f : Context → Context) : (s.modCtx i f).normbox = s.normbox := rfl
@[simp] theorem State.modCtx_windows (s : State) (i : Nat) (f : Context → Context) : (s.modCtx i f).windows = s.windows := rfl
@[simp] theorem State.modCtx_wfcount (s : State) (i : Nat) (f : Context → Context) : (s.modCtx i f).wfcount = s.wfcount := rfl
@[simp] theorem State.modCtx_mbox (s : State) (i : Nat) (f : Context → Context) : (s.modCtx i f).mbox = s.mbox := rfl
@[simp] theorem State.modCtx_ints (s : State) (i : Nat) (f : Context → Context) : (s.modCtx i f).ints = s.ints := rfl
@[simp] theorem State.modCtx_hport (s : State) (i : Nat) (f : Context → Context) : (s.modCtx i f).hport = s.hport := rfl
@[simp] theorem State.modCtx_lehr (s : State) (i : Nat) (f : Context → Context) : (s.modCtx i f).lehr = s.lehr := rfl
@[simp] theorem State.modCtx_cullet (s : State) (i : Nat) (f : Context → Context) : (s.modCtx i f).cullet = s.cullet := rfl
@[simp] theorem State.modCtx_hbmSize (s : State) (i : Nat) (f : Context → Context) : (s.modCtx i f).hbmSize = s.hbmSize := rfl
@[simp] theorem State.modCtx_rsvSize (s : State) (i : Nat) (f : Context → Context) : (s.modCtx i f).rsvSize = s.rsvSize := rfl
@[simp] theorem State.modCtx_cfggen (s : State) (i : Nat) (f : Context → Context) : (s.modCtx i f).cfggen = s.cfggen := rfl
@[simp] theorem State.modCtx_cfgPending (s : State) (i : Nat) (f : Context → Context) : (s.modCtx i f).cfgPending = s.cfgPending := rfl
@[simp] theorem State.modCtx_pcdead (s : State) (i : Nat) (f : Context → Context) : (s.modCtx i f).pcdead = s.pcdead := rfl
@[simp] theorem State.modCtx_tables (s : State) (i : Nat) (f : Context → Context) : (s.modCtx i f).tables = s.tables := rfl
@[simp] theorem State.modCtx_ports (s : State) (i : Nat) (f : Context → Context) : (s.modCtx i f).ports = s.ports := rfl
@[simp] theorem State.modCtx_self (s : State) (i : Nat) (f : Context → Context) : (s.modCtx i f).self = s.self := rfl
@[simp] theorem State.modCtx_domain (s : State) (i : Nat) (f : Context → Context) : (s.modCtx i f).domain = s.domain := rfl
@[simp] theorem State.modCtx_lostPkgs (s : State) (i : Nat) (f : Context → Context) : (s.modCtx i f).lostPkgs = s.lostPkgs := rfl
@[simp] theorem State.modCtx_lost (s : State) (i : Nat) (f : Context → Context) : (s.modCtx i f).lost = s.lost := rfl
@[simp] theorem State.modCtx_fabricOut (s : State) (i : Nat) (f : Context → Context) : (s.modCtx i f).fabricOut = s.fabricOut := rfl
@[simp] theorem State.modCtx_fabricIn (s : State) (i : Nat) (f : Context → Context) : (s.modCtx i f).fabricIn = s.fabricIn := rfl
@[simp] theorem State.modCtx_hostOut (s : State) (i : Nat) (f : Context → Context) : (s.modCtx i f).hostOut = s.hostOut := rfl
@[simp] theorem State.modCtx_remoteAcks (s : State) (i : Nat) (f : Context → Context) : (s.modCtx i f).remoteAcks = s.remoteAcks := rfl
@[simp] theorem State.modCtx_devAsks (s : State) (i : Nat) (f : Context → Context) : (s.modCtx i f).devAsks = s.devAsks := rfl
@[simp] theorem State.modCtx_regionCopies (s : State) (i : Nat) (f : Context → Context) : (s.modCtx i f).regionCopies = s.regionCopies := rfl
@[simp] theorem State.modCtx_recReads (s : State) (i : Nat) (f : Context → Context) : (s.modCtx i f).recReads = s.recReads := rfl
@[simp] theorem State.modCtx_frames (s : State) (i : Nat) (f : Context → Context) : (s.modCtx i f).frames = s.frames := rfl

/-! ## `State.modDie` -/

@[simp] theorem State.modDie_cycle (s : State) (d : Nat) (f : Die → Die) : (s.modDie d f).cycle = s.cycle := rfl
@[simp] theorem State.modDie_agenda (s : State) (d : Nat) (f : Die → Die) : (s.modDie d f).agenda = s.agenda := rfl
@[simp] theorem State.modDie_cur (s : State) (d : Nat) (f : Die → Die) : (s.modDie d f).cur = s.cur := rfl
@[simp] theorem State.modDie_fresh (s : State) (d : Nat) (f : Die → Die) : (s.modDie d f).fresh = s.fresh := rfl
@[simp] theorem State.modDie_nextId (s : State) (d : Nat) (f : Die → Die) : (s.modDie d f).nextId = s.nextId := rfl
@[simp] theorem State.modDie_mem (s : State) (d : Nat) (f : Die → Die) : (s.modDie d f).mem = s.mem := rfl
@[simp] theorem State.modDie_stamp (s : State) (d : Nat) (f : Die → Die) : (s.modDie d f).stamp = s.stamp := rfl
@[simp] theorem State.modDie_ecc (s : State) (d : Nat) (f : Die → Die) : (s.modDie d f).ecc = s.ecc := rfl
@[simp] theorem State.modDie_tags (s : State) (d : Nat) (f : Die → Die) : (s.modDie d f).tags = s.tags := rfl
@[simp] theorem State.modDie_l2dirty (s : State) (d : Nat) (f : Die → Die) : (s.modDie d f).l2dirty = s.l2dirty := rfl
@[simp] theorem State.modDie_l2tierDirty (s : State) (d : Nat) (f : Die → Die) : (s.modDie d f).l2tierDirty = s.l2tierDirty := rfl
@[simp] theorem State.modDie_images (s : State) (d : Nat) (f : Die → Die) : (s.modDie d f).images = s.images := rfl
@[simp] theorem State.modDie_wbq (s : State) (d : Nat) (f : Die → Die) : (s.modDie d f).wbq = s.wbq := rfl
@[simp] theorem State.modDie_modules (s : State) (d : Nat) (f : Die → Die) : (s.modDie d f).modules = s.modules := rfl
@[simp] theorem State.modDie_moduleEcc (s : State) (d : Nat) (f : Die → Die) : (s.modDie d f).moduleEcc = s.moduleEcc := rfl
@[simp] theorem State.modDie_moduleTags (s : State) (d : Nat) (f : Die → Die) : (s.modDie d f).moduleTags = s.moduleTags := rfl
@[simp] theorem State.modDie_powered (s : State) (d : Nat) (f : Die → Die) : (s.modDie d f).powered = s.powered := rfl
@[simp] theorem State.modDie_ctxs (s : State) (d : Nat) (f : Die → Die) : (s.modDie d f).ctxs = s.ctxs := rfl
@[simp] theorem State.modDie_launches (s : State) (d : Nat) (f : Die → Die) : (s.modDie d f).launches = s.launches := rfl
@[simp] theorem State.modDie_clusters (s : State) (d : Nat) (f : Die → Die) : (s.modDie d f).clusters = s.clusters := rfl
@[simp] theorem State.modDie_teams (s : State) (d : Nat) (f : Die → Die) : (s.modDie d f).teams = s.teams := rfl
@[simp] theorem State.modDie_groups (s : State) (d : Nat) (f : Die → Die) : (s.modDie d f).groups = s.groups := rfl
@[simp] theorem State.modDie_cores (s : State) (d : Nat) (f : Die → Die) : (s.modDie d f).cores = s.cores := rfl
@[simp] theorem State.modDie_dies (s : State) (d : Nat) (f : Die → Die) : (s.modDie d f).dies = aset s.dies d (f (s.die d)) := rfl
@[simp] theorem State.modDie_lastDie (s : State) (d : Nat) (f : Die → Die) : (s.modDie d f).lastDie = s.lastDie := rfl
@[simp] theorem State.modDie_rrPos (s : State) (d : Nat) (f : Die → Die) : (s.modDie d f).rrPos = s.rrPos := rfl
@[simp] theorem State.modDie_cmds (s : State) (d : Nat) (f : Die → Die) : (s.modDie d f).cmds = s.cmds := rfl
@[simp] theorem State.modDie_reqs (s : State) (d : Nat) (f : Die → Die) : (s.modDie d f).reqs = s.reqs := rfl
@[simp] theorem State.modDie_net (s : State) (d : Nat) (f : Die → Die) : (s.modDie d f).net = s.net := rfl
@[simp] theorem State.modDie_rels (s : State) (d : Nat) (f : Die → Die) : (s.modDie d f).rels = s.rels := rfl
@[simp] theorem State.modDie_copies (s : State) (d : Nat) (f : Die → Die) : (s.modDie d f).copies = s.copies := rfl
@[simp] theorem State.modDie_batches (s : State) (d : Nat) (f : Die → Die) : (s.modDie d f).batches = s.batches := rfl
@[simp] theorem State.modDie_streams (s : State) (d : Nat) (f : Die → Die) : (s.modDie d f).streams = s.streams := rfl
@[simp] theorem State.modDie_colls (s : State) (d : Nat) (f : Die → Die) : (s.modDie d f).colls = s.colls := rfl
@[simp] theorem State.modDie_commCounts (s : State) (d : Nat) (f : Die → Die) : (s.modDie d f).commCounts = s.commCounts := rfl
@[simp] theorem State.modDie_collIn (s : State) (d : Nat) (f : Die → Die) : (s.modDie d f).collIn = s.collIn := rfl
@[simp] theorem State.modDie_rcls (s : State) (d : Nat) (f : Die → Die) : (s.modDie d f).rcls = s.rcls := rfl
@[simp] theorem State.modDie_advances (s : State) (d : Nat) (f : Die → Die) : (s.modDie d f).advances = s.advances := rfl
@[simp] theorem State.modDie_demand (s : State) (d : Nat) (f : Die → Die) : (s.modDie d f).demand = s.demand := rfl
@[simp] theorem State.modDie_arrivedSince (s : State) (d : Nat) (f : Die → Die) : (s.modDie d f).arrivedSince = s.arrivedSince := rfl
@[simp] theorem State.modDie_normbox (s : State) (d : Nat) (f : Die → Die) : (s.modDie d f).normbox = s.normbox := rfl
@[simp] theorem State.modDie_windows (s : State) (d : Nat) (f : Die → Die) : (s.modDie d f).windows = s.windows := rfl
@[simp] theorem State.modDie_wfcount (s : State) (d : Nat) (f : Die → Die) : (s.modDie d f).wfcount = s.wfcount := rfl
@[simp] theorem State.modDie_mbox (s : State) (d : Nat) (f : Die → Die) : (s.modDie d f).mbox = s.mbox := rfl
@[simp] theorem State.modDie_ints (s : State) (d : Nat) (f : Die → Die) : (s.modDie d f).ints = s.ints := rfl
@[simp] theorem State.modDie_hport (s : State) (d : Nat) (f : Die → Die) : (s.modDie d f).hport = s.hport := rfl
@[simp] theorem State.modDie_lehr (s : State) (d : Nat) (f : Die → Die) : (s.modDie d f).lehr = s.lehr := rfl
@[simp] theorem State.modDie_cullet (s : State) (d : Nat) (f : Die → Die) : (s.modDie d f).cullet = s.cullet := rfl
@[simp] theorem State.modDie_hbmSize (s : State) (d : Nat) (f : Die → Die) : (s.modDie d f).hbmSize = s.hbmSize := rfl
@[simp] theorem State.modDie_rsvSize (s : State) (d : Nat) (f : Die → Die) : (s.modDie d f).rsvSize = s.rsvSize := rfl
@[simp] theorem State.modDie_cfggen (s : State) (d : Nat) (f : Die → Die) : (s.modDie d f).cfggen = s.cfggen := rfl
@[simp] theorem State.modDie_cfgPending (s : State) (d : Nat) (f : Die → Die) : (s.modDie d f).cfgPending = s.cfgPending := rfl
@[simp] theorem State.modDie_pcdead (s : State) (d : Nat) (f : Die → Die) : (s.modDie d f).pcdead = s.pcdead := rfl
@[simp] theorem State.modDie_tables (s : State) (d : Nat) (f : Die → Die) : (s.modDie d f).tables = s.tables := rfl
@[simp] theorem State.modDie_ports (s : State) (d : Nat) (f : Die → Die) : (s.modDie d f).ports = s.ports := rfl
@[simp] theorem State.modDie_self (s : State) (d : Nat) (f : Die → Die) : (s.modDie d f).self = s.self := rfl
@[simp] theorem State.modDie_domain (s : State) (d : Nat) (f : Die → Die) : (s.modDie d f).domain = s.domain := rfl
@[simp] theorem State.modDie_lostPkgs (s : State) (d : Nat) (f : Die → Die) : (s.modDie d f).lostPkgs = s.lostPkgs := rfl
@[simp] theorem State.modDie_lost (s : State) (d : Nat) (f : Die → Die) : (s.modDie d f).lost = s.lost := rfl
@[simp] theorem State.modDie_fabricOut (s : State) (d : Nat) (f : Die → Die) : (s.modDie d f).fabricOut = s.fabricOut := rfl
@[simp] theorem State.modDie_fabricIn (s : State) (d : Nat) (f : Die → Die) : (s.modDie d f).fabricIn = s.fabricIn := rfl
@[simp] theorem State.modDie_hostOut (s : State) (d : Nat) (f : Die → Die) : (s.modDie d f).hostOut = s.hostOut := rfl
@[simp] theorem State.modDie_remoteAcks (s : State) (d : Nat) (f : Die → Die) : (s.modDie d f).remoteAcks = s.remoteAcks := rfl
@[simp] theorem State.modDie_devAsks (s : State) (d : Nat) (f : Die → Die) : (s.modDie d f).devAsks = s.devAsks := rfl
@[simp] theorem State.modDie_regionCopies (s : State) (d : Nat) (f : Die → Die) : (s.modDie d f).regionCopies = s.regionCopies := rfl
@[simp] theorem State.modDie_recReads (s : State) (d : Nat) (f : Die → Die) : (s.modDie d f).recReads = s.recReads := rfl
@[simp] theorem State.modDie_frames (s : State) (d : Nat) (f : Die → Die) : (s.modDie d f).frames = s.frames := rfl

/-! ## `Group.next` -/

@[simp] theorem Group.next_team (g : Group) : g.next.team = g.team := rfl
@[simp] theorem Group.next_idx (g : Group) : g.next.idx = g.idx := rfl
@[simp] theorem Group.next_slot (g : Group) : g.next.slot = g.slot := rfl
@[simp] theorem Group.next_home (g : Group) : g.next.home = g.home := rfl
@[simp] theorem Group.next_since (g : Group) : g.next.since = g.since := rfl
@[simp] theorem Group.next_width (g : Group) : g.next.width = g.width := rfl
@[simp] theorem Group.next_spc (g : Group) : g.next.spc = g.spc + 4 := rfl
@[simp] theorem Group.next_sregs (g : Group) : g.next.sregs = g.sregs := rfl
@[simp] theorem Group.next_sfe (g : Group) : g.next.sfe = g.sfe := rfl
@[simp] theorem Group.next_mods (g : Group) : g.next.mods = g.mods := rfl
@[simp] theorem Group.next_guards (g : Group) : g.next.guards = g.guards := rfl
@[simp] theorem Group.next_ovfl (g : Group) : g.next.ovfl = g.ovfl := rfl
@[simp] theorem Group.next_nval (g : Group) : g.next.nval = g.nval := rfl
@[simp] theorem Group.next_trap (g : Group) : g.next.trap = g.trap := rfl
@[simp] theorem Group.next_inHandler (g : Group) : g.next.inHandler = g.inHandler := rfl
@[simp] theorem Group.next_sExited (g : Group) : g.next.sExited = g.sExited := rfl
@[simp] theorem Group.next_done (g : Group) : g.next.done = g.done := rfl
@[simp] theorem Group.next_park (g : Group) : g.next.park = g.park := rfl
@[simp] theorem Group.next_late (g : Group) : g.next.late = g.late := rfl
@[simp] theorem Group.next_hold (g : Group) : g.next.hold = none := rfl
@[simp] theorem Group.next_lrgn (g : Group) : g.next.lrgn = g.lrgn := rfl
@[simp] theorem Group.next_waits (g : Group) : g.next.waits = adel g.waits sWaitKey := rfl
@[simp] theorem Group.next_yieldFrom (g : Group) : g.next.yieldFrom = g.yieldFrom := rfl
@[simp] theorem Group.next_lanes (g : Group) : g.next.lanes = g.lanes := rfl
@[simp] theorem Group.next_vfe (g : Group) : g.next.vfe = g.vfe := rfl
@[simp] theorem Group.next_slices (g : Group) : g.next.slices = g.slices := rfl
@[simp] theorem Group.next_block (g : Group) : g.next.block = g.block := rfl
@[simp] theorem Group.next_gangs (g : Group) : g.next.gangs = g.gangs := rfl
@[simp] theorem Group.next_lq (g : Group) : g.next.lq = g.lq := rfl
@[simp] theorem Group.next_mq (g : Group) : g.next.mq = g.mq := rfl
@[simp] theorem Group.next_cq (g : Group) : g.next.cq = g.cq := rfl
@[simp] theorem Group.next_batchCtr (g : Group) : g.next.batchCtr = g.batchCtr := rfl
@[simp] theorem Group.next_openBatch (g : Group) : g.next.openBatch = g.openBatch := rfl
@[simp] theorem Group.next_quar (g : Group) : g.next.quar = g.quar := rfl
@[simp] theorem Group.next_region (g : Group) : g.next.region = g.region := rfl
@[simp] theorem Group.next_striking (g : Group) : g.next.striking = g.striking := rfl
@[simp] theorem Group.next_staleWait (g : Group) : g.next.staleWait = g.staleWait := rfl
@[simp] theorem Group.next_rejected (g : Group) : g.next.rejected = g.rejected := rfl
@[simp] theorem Group.next_savedArray (g : Group) : g.next.savedArray = g.savedArray := rfl
@[simp] theorem Group.next_kept (g : Group) : g.next.kept = g.kept := rfl
@[simp] theorem Group.next_relPend (g : Group) : g.next.relPend = g.relPend := rfl
@[simp] theorem Group.next_dmIssue (g : Group) : g.next.dmIssue = g.dmIssue := rfl

/-! ## `Group.goto` -/

@[simp] theorem Group.goto_team (g : Group) (x : DWord) : (g.goto x).team = g.team := rfl
@[simp] theorem Group.goto_idx (g : Group) (x : DWord) : (g.goto x).idx = g.idx := rfl
@[simp] theorem Group.goto_slot (g : Group) (x : DWord) : (g.goto x).slot = g.slot := rfl
@[simp] theorem Group.goto_home (g : Group) (x : DWord) : (g.goto x).home = g.home := rfl
@[simp] theorem Group.goto_since (g : Group) (x : DWord) : (g.goto x).since = g.since := rfl
@[simp] theorem Group.goto_width (g : Group) (x : DWord) : (g.goto x).width = g.width := rfl
@[simp] theorem Group.goto_spc (g : Group) (x : DWord) : (g.goto x).spc = x := rfl
@[simp] theorem Group.goto_sregs (g : Group) (x : DWord) : (g.goto x).sregs = g.sregs := rfl
@[simp] theorem Group.goto_sfe (g : Group) (x : DWord) : (g.goto x).sfe = g.sfe := rfl
@[simp] theorem Group.goto_mods (g : Group) (x : DWord) : (g.goto x).mods = g.mods := rfl
@[simp] theorem Group.goto_guards (g : Group) (x : DWord) : (g.goto x).guards = g.guards := rfl
@[simp] theorem Group.goto_ovfl (g : Group) (x : DWord) : (g.goto x).ovfl = g.ovfl := rfl
@[simp] theorem Group.goto_nval (g : Group) (x : DWord) : (g.goto x).nval = g.nval := rfl
@[simp] theorem Group.goto_trap (g : Group) (x : DWord) : (g.goto x).trap = g.trap := rfl
@[simp] theorem Group.goto_inHandler (g : Group) (x : DWord) : (g.goto x).inHandler = g.inHandler := rfl
@[simp] theorem Group.goto_sExited (g : Group) (x : DWord) : (g.goto x).sExited = g.sExited := rfl
@[simp] theorem Group.goto_done (g : Group) (x : DWord) : (g.goto x).done = g.done := rfl
@[simp] theorem Group.goto_park (g : Group) (x : DWord) : (g.goto x).park = g.park := rfl
@[simp] theorem Group.goto_late (g : Group) (x : DWord) : (g.goto x).late = g.late := rfl
@[simp] theorem Group.goto_hold (g : Group) (x : DWord) : (g.goto x).hold = none := rfl
@[simp] theorem Group.goto_lrgn (g : Group) (x : DWord) : (g.goto x).lrgn = g.lrgn := rfl
@[simp] theorem Group.goto_waits (g : Group) (x : DWord) : (g.goto x).waits = adel g.waits sWaitKey := rfl
@[simp] theorem Group.goto_yieldFrom (g : Group) (x : DWord) : (g.goto x).yieldFrom = g.yieldFrom := rfl
@[simp] theorem Group.goto_lanes (g : Group) (x : DWord) : (g.goto x).lanes = g.lanes := rfl
@[simp] theorem Group.goto_vfe (g : Group) (x : DWord) : (g.goto x).vfe = g.vfe := rfl
@[simp] theorem Group.goto_slices (g : Group) (x : DWord) : (g.goto x).slices = g.slices := rfl
@[simp] theorem Group.goto_block (g : Group) (x : DWord) : (g.goto x).block = g.block := rfl
@[simp] theorem Group.goto_gangs (g : Group) (x : DWord) : (g.goto x).gangs = g.gangs := rfl
@[simp] theorem Group.goto_lq (g : Group) (x : DWord) : (g.goto x).lq = g.lq := rfl
@[simp] theorem Group.goto_mq (g : Group) (x : DWord) : (g.goto x).mq = g.mq := rfl
@[simp] theorem Group.goto_cq (g : Group) (x : DWord) : (g.goto x).cq = g.cq := rfl
@[simp] theorem Group.goto_batchCtr (g : Group) (x : DWord) : (g.goto x).batchCtr = g.batchCtr := rfl
@[simp] theorem Group.goto_openBatch (g : Group) (x : DWord) : (g.goto x).openBatch = g.openBatch := rfl
@[simp] theorem Group.goto_quar (g : Group) (x : DWord) : (g.goto x).quar = g.quar := rfl
@[simp] theorem Group.goto_region (g : Group) (x : DWord) : (g.goto x).region = g.region := rfl
@[simp] theorem Group.goto_striking (g : Group) (x : DWord) : (g.goto x).striking = g.striking := rfl
@[simp] theorem Group.goto_staleWait (g : Group) (x : DWord) : (g.goto x).staleWait = g.staleWait := rfl
@[simp] theorem Group.goto_rejected (g : Group) (x : DWord) : (g.goto x).rejected = g.rejected := rfl
@[simp] theorem Group.goto_savedArray (g : Group) (x : DWord) : (g.goto x).savedArray = g.savedArray := rfl
@[simp] theorem Group.goto_kept (g : Group) (x : DWord) : (g.goto x).kept = g.kept := rfl
@[simp] theorem Group.goto_relPend (g : Group) (x : DWord) : (g.goto x).relPend = g.relPend := rfl
@[simp] theorem Group.goto_dmIssue (g : Group) (x : DWord) : (g.goto x).dmIssue = g.dmIssue := rfl

/-! ## `Group.setLane` -/

@[simp] theorem Group.setLane_team (g : Group) (l : Nat) (x : Lane) : (g.setLane l x).team = g.team := rfl
@[simp] theorem Group.setLane_idx (g : Group) (l : Nat) (x : Lane) : (g.setLane l x).idx = g.idx := rfl
@[simp] theorem Group.setLane_slot (g : Group) (l : Nat) (x : Lane) : (g.setLane l x).slot = g.slot := rfl
@[simp] theorem Group.setLane_home (g : Group) (l : Nat) (x : Lane) : (g.setLane l x).home = g.home := rfl
@[simp] theorem Group.setLane_since (g : Group) (l : Nat) (x : Lane) : (g.setLane l x).since = g.since := rfl
@[simp] theorem Group.setLane_width (g : Group) (l : Nat) (x : Lane) : (g.setLane l x).width = g.width := rfl
@[simp] theorem Group.setLane_spc (g : Group) (l : Nat) (x : Lane) : (g.setLane l x).spc = g.spc := rfl
@[simp] theorem Group.setLane_sregs (g : Group) (l : Nat) (x : Lane) : (g.setLane l x).sregs = g.sregs := rfl
@[simp] theorem Group.setLane_sfe (g : Group) (l : Nat) (x : Lane) : (g.setLane l x).sfe = g.sfe := rfl
@[simp] theorem Group.setLane_mods (g : Group) (l : Nat) (x : Lane) : (g.setLane l x).mods = g.mods := rfl
@[simp] theorem Group.setLane_guards (g : Group) (l : Nat) (x : Lane) : (g.setLane l x).guards = g.guards := rfl
@[simp] theorem Group.setLane_ovfl (g : Group) (l : Nat) (x : Lane) : (g.setLane l x).ovfl = g.ovfl := rfl
@[simp] theorem Group.setLane_nval (g : Group) (l : Nat) (x : Lane) : (g.setLane l x).nval = g.nval := rfl
@[simp] theorem Group.setLane_trap (g : Group) (l : Nat) (x : Lane) : (g.setLane l x).trap = g.trap := rfl
@[simp] theorem Group.setLane_inHandler (g : Group) (l : Nat) (x : Lane) : (g.setLane l x).inHandler = g.inHandler := rfl
@[simp] theorem Group.setLane_sExited (g : Group) (l : Nat) (x : Lane) : (g.setLane l x).sExited = g.sExited := rfl
@[simp] theorem Group.setLane_done (g : Group) (l : Nat) (x : Lane) : (g.setLane l x).done = g.done := rfl
@[simp] theorem Group.setLane_park (g : Group) (l : Nat) (x : Lane) : (g.setLane l x).park = g.park := rfl
@[simp] theorem Group.setLane_late (g : Group) (l : Nat) (x : Lane) : (g.setLane l x).late = g.late := rfl
@[simp] theorem Group.setLane_hold (g : Group) (l : Nat) (x : Lane) : (g.setLane l x).hold = g.hold := rfl
@[simp] theorem Group.setLane_lrgn (g : Group) (l : Nat) (x : Lane) : (g.setLane l x).lrgn = g.lrgn := rfl
@[simp] theorem Group.setLane_waits (g : Group) (l : Nat) (x : Lane) : (g.setLane l x).waits = g.waits := rfl
@[simp] theorem Group.setLane_yieldFrom (g : Group) (l : Nat) (x : Lane) : (g.setLane l x).yieldFrom = g.yieldFrom := rfl
@[simp] theorem Group.setLane_lanes (g : Group) (l : Nat) (x : Lane) : (g.setLane l x).lanes = aset g.lanes l x := rfl
@[simp] theorem Group.setLane_vfe (g : Group) (l : Nat) (x : Lane) : (g.setLane l x).vfe = g.vfe := rfl
@[simp] theorem Group.setLane_slices (g : Group) (l : Nat) (x : Lane) : (g.setLane l x).slices = g.slices := rfl
@[simp] theorem Group.setLane_block (g : Group) (l : Nat) (x : Lane) : (g.setLane l x).block = g.block := rfl
@[simp] theorem Group.setLane_gangs (g : Group) (l : Nat) (x : Lane) : (g.setLane l x).gangs = g.gangs := rfl
@[simp] theorem Group.setLane_lq (g : Group) (l : Nat) (x : Lane) : (g.setLane l x).lq = g.lq := rfl
@[simp] theorem Group.setLane_mq (g : Group) (l : Nat) (x : Lane) : (g.setLane l x).mq = g.mq := rfl
@[simp] theorem Group.setLane_cq (g : Group) (l : Nat) (x : Lane) : (g.setLane l x).cq = g.cq := rfl
@[simp] theorem Group.setLane_batchCtr (g : Group) (l : Nat) (x : Lane) : (g.setLane l x).batchCtr = g.batchCtr := rfl
@[simp] theorem Group.setLane_openBatch (g : Group) (l : Nat) (x : Lane) : (g.setLane l x).openBatch = g.openBatch := rfl
@[simp] theorem Group.setLane_quar (g : Group) (l : Nat) (x : Lane) : (g.setLane l x).quar = g.quar := rfl
@[simp] theorem Group.setLane_region (g : Group) (l : Nat) (x : Lane) : (g.setLane l x).region = g.region := rfl
@[simp] theorem Group.setLane_striking (g : Group) (l : Nat) (x : Lane) : (g.setLane l x).striking = g.striking := rfl
@[simp] theorem Group.setLane_staleWait (g : Group) (l : Nat) (x : Lane) : (g.setLane l x).staleWait = g.staleWait := rfl
@[simp] theorem Group.setLane_rejected (g : Group) (l : Nat) (x : Lane) : (g.setLane l x).rejected = g.rejected := rfl
@[simp] theorem Group.setLane_savedArray (g : Group) (l : Nat) (x : Lane) : (g.setLane l x).savedArray = g.savedArray := rfl
@[simp] theorem Group.setLane_kept (g : Group) (l : Nat) (x : Lane) : (g.setLane l x).kept = g.kept := rfl
@[simp] theorem Group.setLane_relPend (g : Group) (l : Nat) (x : Lane) : (g.setLane l x).relPend = g.relPend := rfl
@[simp] theorem Group.setLane_dmIssue (g : Group) (l : Nat) (x : Lane) : (g.setLane l x).dmIssue = g.dmIssue := rfl

/-! ## `Group.vempty` -/

@[simp] theorem Group.vempty_team (g : Group) (k : Nat) : (g.vempty k).team = g.team := rfl
@[simp] theorem Group.vempty_idx (g : Group) (k : Nat) : (g.vempty k).idx = g.idx := rfl
@[simp] theorem Group.vempty_slot (g : Group) (k : Nat) : (g.vempty k).slot = g.slot := rfl
@[simp] theorem Group.vempty_home (g : Group) (k : Nat) : (g.vempty k).home = g.home := rfl
@[simp] theorem Group.vempty_since (g : Group) (k : Nat) : (g.vempty k).since = g.since := rfl
@[simp] theorem Group.vempty_width (g : Group) (k : Nat) : (g.vempty k).width = g.width := rfl
@[simp] theorem Group.vempty_spc (g : Group) (k : Nat) : (g.vempty k).spc = g.spc := rfl
@[simp] theorem Group.vempty_sregs (g : Group) (k : Nat) : (g.vempty k).sregs = g.sregs := rfl
@[simp] theorem Group.vempty_sfe (g : Group) (k : Nat) : (g.vempty k).sfe = g.sfe := rfl
@[simp] theorem Group.vempty_mods (g : Group) (k : Nat) : (g.vempty k).mods = g.mods := rfl
@[simp] theorem Group.vempty_guards (g : Group) (k : Nat) : (g.vempty k).guards = g.guards := rfl
@[simp] theorem Group.vempty_ovfl (g : Group) (k : Nat) : (g.vempty k).ovfl = g.ovfl := rfl
@[simp] theorem Group.vempty_nval (g : Group) (k : Nat) : (g.vempty k).nval = g.nval := rfl
@[simp] theorem Group.vempty_trap (g : Group) (k : Nat) : (g.vempty k).trap = g.trap := rfl
@[simp] theorem Group.vempty_inHandler (g : Group) (k : Nat) : (g.vempty k).inHandler = g.inHandler := rfl
@[simp] theorem Group.vempty_sExited (g : Group) (k : Nat) : (g.vempty k).sExited = g.sExited := rfl
@[simp] theorem Group.vempty_done (g : Group) (k : Nat) : (g.vempty k).done = g.done := rfl
@[simp] theorem Group.vempty_park (g : Group) (k : Nat) : (g.vempty k).park = g.park := rfl
@[simp] theorem Group.vempty_late (g : Group) (k : Nat) : (g.vempty k).late = g.late := rfl
@[simp] theorem Group.vempty_hold (g : Group) (k : Nat) : (g.vempty k).hold = g.hold := rfl
@[simp] theorem Group.vempty_lrgn (g : Group) (k : Nat) : (g.vempty k).lrgn = g.lrgn := rfl
@[simp] theorem Group.vempty_waits (g : Group) (k : Nat) : (g.vempty k).waits = g.waits := rfl
@[simp] theorem Group.vempty_yieldFrom (g : Group) (k : Nat) : (g.vempty k).yieldFrom = g.yieldFrom := rfl
@[simp] theorem Group.vempty_lanes (g : Group) (k : Nat) : (g.vempty k).lanes = g.lanes := rfl
@[simp] theorem Group.vempty_vfe (g : Group) (k : Nat) : (g.vempty k).vfe = g.vfe &&& ~~~((1 : BitVec 256) <<< k) := rfl
@[simp] theorem Group.vempty_slices (g : Group) (k : Nat) : (g.vempty k).slices = g.slices := rfl
@[simp] theorem Group.vempty_block (g : Group) (k : Nat) : (g.vempty k).block = g.block := rfl
@[simp] theorem Group.vempty_gangs (g : Group) (k : Nat) : (g.vempty k).gangs = g.gangs := rfl
@[simp] theorem Group.vempty_lq (g : Group) (k : Nat) : (g.vempty k).lq = g.lq := rfl
@[simp] theorem Group.vempty_mq (g : Group) (k : Nat) : (g.vempty k).mq = g.mq := rfl
@[simp] theorem Group.vempty_cq (g : Group) (k : Nat) : (g.vempty k).cq = g.cq := rfl
@[simp] theorem Group.vempty_batchCtr (g : Group) (k : Nat) : (g.vempty k).batchCtr = g.batchCtr := rfl
@[simp] theorem Group.vempty_openBatch (g : Group) (k : Nat) : (g.vempty k).openBatch = g.openBatch := rfl
@[simp] theorem Group.vempty_quar (g : Group) (k : Nat) : (g.vempty k).quar = g.quar := rfl
@[simp] theorem Group.vempty_region (g : Group) (k : Nat) : (g.vempty k).region = g.region := rfl
@[simp] theorem Group.vempty_striking (g : Group) (k : Nat) : (g.vempty k).striking = g.striking := rfl
@[simp] theorem Group.vempty_staleWait (g : Group) (k : Nat) : (g.vempty k).staleWait = g.staleWait := rfl
@[simp] theorem Group.vempty_rejected (g : Group) (k : Nat) : (g.vempty k).rejected = g.rejected := rfl
@[simp] theorem Group.vempty_savedArray (g : Group) (k : Nat) : (g.vempty k).savedArray = g.savedArray := rfl
@[simp] theorem Group.vempty_kept (g : Group) (k : Nat) : (g.vempty k).kept = g.kept := rfl
@[simp] theorem Group.vempty_relPend (g : Group) (k : Nat) : (g.vempty k).relPend = g.relPend := rfl
@[simp] theorem Group.vempty_dmIssue (g : Group) (k : Nat) : (g.vempty k).dmIssue = g.dmIssue := rfl

/-! ## `Group.vmarkFull` -/

@[simp] theorem Group.vmarkFull_team (g : Group) (k : Nat) : (g.vmarkFull k).team = g.team := rfl
@[simp] theorem Group.vmarkFull_idx (g : Group) (k : Nat) : (g.vmarkFull k).idx = g.idx := rfl
@[simp] theorem Group.vmarkFull_slot (g : Group) (k : Nat) : (g.vmarkFull k).slot = g.slot := rfl
@[simp] theorem Group.vmarkFull_home (g : Group) (k : Nat) : (g.vmarkFull k).home = g.home := rfl
@[simp] theorem Group.vmarkFull_since (g : Group) (k : Nat) : (g.vmarkFull k).since = g.since := rfl
@[simp] theorem Group.vmarkFull_width (g : Group) (k : Nat) : (g.vmarkFull k).width = g.width := rfl
@[simp] theorem Group.vmarkFull_spc (g : Group) (k : Nat) : (g.vmarkFull k).spc = g.spc := rfl
@[simp] theorem Group.vmarkFull_sregs (g : Group) (k : Nat) : (g.vmarkFull k).sregs = g.sregs := rfl
@[simp] theorem Group.vmarkFull_sfe (g : Group) (k : Nat) : (g.vmarkFull k).sfe = g.sfe := rfl
@[simp] theorem Group.vmarkFull_mods (g : Group) (k : Nat) : (g.vmarkFull k).mods = g.mods := rfl
@[simp] theorem Group.vmarkFull_guards (g : Group) (k : Nat) : (g.vmarkFull k).guards = g.guards := rfl
@[simp] theorem Group.vmarkFull_ovfl (g : Group) (k : Nat) : (g.vmarkFull k).ovfl = g.ovfl := rfl
@[simp] theorem Group.vmarkFull_nval (g : Group) (k : Nat) : (g.vmarkFull k).nval = g.nval := rfl
@[simp] theorem Group.vmarkFull_trap (g : Group) (k : Nat) : (g.vmarkFull k).trap = g.trap := rfl
@[simp] theorem Group.vmarkFull_inHandler (g : Group) (k : Nat) : (g.vmarkFull k).inHandler = g.inHandler := rfl
@[simp] theorem Group.vmarkFull_sExited (g : Group) (k : Nat) : (g.vmarkFull k).sExited = g.sExited := rfl
@[simp] theorem Group.vmarkFull_done (g : Group) (k : Nat) : (g.vmarkFull k).done = g.done := rfl
@[simp] theorem Group.vmarkFull_park (g : Group) (k : Nat) : (g.vmarkFull k).park = g.park := rfl
@[simp] theorem Group.vmarkFull_late (g : Group) (k : Nat) : (g.vmarkFull k).late = g.late := rfl
@[simp] theorem Group.vmarkFull_hold (g : Group) (k : Nat) : (g.vmarkFull k).hold = g.hold := rfl
@[simp] theorem Group.vmarkFull_lrgn (g : Group) (k : Nat) : (g.vmarkFull k).lrgn = g.lrgn := rfl
@[simp] theorem Group.vmarkFull_waits (g : Group) (k : Nat) : (g.vmarkFull k).waits = g.waits := rfl
@[simp] theorem Group.vmarkFull_yieldFrom (g : Group) (k : Nat) : (g.vmarkFull k).yieldFrom = g.yieldFrom := rfl
@[simp] theorem Group.vmarkFull_lanes (g : Group) (k : Nat) : (g.vmarkFull k).lanes = g.lanes := rfl
@[simp] theorem Group.vmarkFull_vfe (g : Group) (k : Nat) : (g.vmarkFull k).vfe = g.vfe ||| ((1 : BitVec 256) <<< k) := rfl
@[simp] theorem Group.vmarkFull_slices (g : Group) (k : Nat) : (g.vmarkFull k).slices = g.slices := rfl
@[simp] theorem Group.vmarkFull_block (g : Group) (k : Nat) : (g.vmarkFull k).block = g.block := rfl
@[simp] theorem Group.vmarkFull_gangs (g : Group) (k : Nat) : (g.vmarkFull k).gangs = g.gangs := rfl
@[simp] theorem Group.vmarkFull_lq (g : Group) (k : Nat) : (g.vmarkFull k).lq = g.lq := rfl
@[simp] theorem Group.vmarkFull_mq (g : Group) (k : Nat) : (g.vmarkFull k).mq = g.mq := rfl
@[simp] theorem Group.vmarkFull_cq (g : Group) (k : Nat) : (g.vmarkFull k).cq = g.cq := rfl
@[simp] theorem Group.vmarkFull_batchCtr (g : Group) (k : Nat) : (g.vmarkFull k).batchCtr = g.batchCtr := rfl
@[simp] theorem Group.vmarkFull_openBatch (g : Group) (k : Nat) : (g.vmarkFull k).openBatch = g.openBatch := rfl
@[simp] theorem Group.vmarkFull_quar (g : Group) (k : Nat) : (g.vmarkFull k).quar = g.quar := rfl
@[simp] theorem Group.vmarkFull_region (g : Group) (k : Nat) : (g.vmarkFull k).region = g.region := rfl
@[simp] theorem Group.vmarkFull_striking (g : Group) (k : Nat) : (g.vmarkFull k).striking = g.striking := rfl
@[simp] theorem Group.vmarkFull_staleWait (g : Group) (k : Nat) : (g.vmarkFull k).staleWait = g.staleWait := rfl
@[simp] theorem Group.vmarkFull_rejected (g : Group) (k : Nat) : (g.vmarkFull k).rejected = g.rejected := rfl
@[simp] theorem Group.vmarkFull_savedArray (g : Group) (k : Nat) : (g.vmarkFull k).savedArray = g.savedArray := rfl
@[simp] theorem Group.vmarkFull_kept (g : Group) (k : Nat) : (g.vmarkFull k).kept = g.kept := rfl
@[simp] theorem Group.vmarkFull_relPend (g : Group) (k : Nat) : (g.vmarkFull k).relPend = g.relPend := rfl
@[simp] theorem Group.vmarkFull_dmIssue (g : Group) (k : Nat) : (g.vmarkFull k).dmIssue = g.dmIssue := rfl

/-! ## `Group.sput` -/

@[simp] theorem Group.sput_team (g : Group) (r : SReg) (v : DWord) : (g.sput r v).team = g.team := by unfold Group.sput; split <;> rfl
@[simp] theorem Group.sput_idx (g : Group) (r : SReg) (v : DWord) : (g.sput r v).idx = g.idx := by unfold Group.sput; split <;> rfl
@[simp] theorem Group.sput_slot (g : Group) (r : SReg) (v : DWord) : (g.sput r v).slot = g.slot := by unfold Group.sput; split <;> rfl
@[simp] theorem Group.sput_home (g : Group) (r : SReg) (v : DWord) : (g.sput r v).home = g.home := by unfold Group.sput; split <;> rfl
@[simp] theorem Group.sput_since (g : Group) (r : SReg) (v : DWord) : (g.sput r v).since = g.since := by unfold Group.sput; split <;> rfl
@[simp] theorem Group.sput_width (g : Group) (r : SReg) (v : DWord) : (g.sput r v).width = g.width := by unfold Group.sput; split <;> rfl
@[simp] theorem Group.sput_spc (g : Group) (r : SReg) (v : DWord) : (g.sput r v).spc = g.spc := by unfold Group.sput; split <;> rfl
@[simp] theorem Group.sput_mods (g : Group) (r : SReg) (v : DWord) : (g.sput r v).mods = g.mods := by unfold Group.sput; split <;> rfl
@[simp] theorem Group.sput_guards (g : Group) (r : SReg) (v : DWord) : (g.sput r v).guards = g.guards := by unfold Group.sput; split <;> rfl
@[simp] theorem Group.sput_ovfl (g : Group) (r : SReg) (v : DWord) : (g.sput r v).ovfl = g.ovfl := by unfold Group.sput; split <;> rfl
@[simp] theorem Group.sput_nval (g : Group) (r : SReg) (v : DWord) : (g.sput r v).nval = g.nval := by unfold Group.sput; split <;> rfl
@[simp] theorem Group.sput_trap (g : Group) (r : SReg) (v : DWord) : (g.sput r v).trap = g.trap := by unfold Group.sput; split <;> rfl
@[simp] theorem Group.sput_inHandler (g : Group) (r : SReg) (v : DWord) : (g.sput r v).inHandler = g.inHandler := by unfold Group.sput; split <;> rfl
@[simp] theorem Group.sput_sExited (g : Group) (r : SReg) (v : DWord) : (g.sput r v).sExited = g.sExited := by unfold Group.sput; split <;> rfl
@[simp] theorem Group.sput_done (g : Group) (r : SReg) (v : DWord) : (g.sput r v).done = g.done := by unfold Group.sput; split <;> rfl
@[simp] theorem Group.sput_park (g : Group) (r : SReg) (v : DWord) : (g.sput r v).park = g.park := by unfold Group.sput; split <;> rfl
@[simp] theorem Group.sput_late (g : Group) (r : SReg) (v : DWord) : (g.sput r v).late = g.late := by unfold Group.sput; split <;> rfl
@[simp] theorem Group.sput_hold (g : Group) (r : SReg) (v : DWord) : (g.sput r v).hold = g.hold := by unfold Group.sput; split <;> rfl
@[simp] theorem Group.sput_lrgn (g : Group) (r : SReg) (v : DWord) : (g.sput r v).lrgn = g.lrgn := by unfold Group.sput; split <;> rfl
@[simp] theorem Group.sput_waits (g : Group) (r : SReg) (v : DWord) : (g.sput r v).waits = g.waits := by unfold Group.sput; split <;> rfl
@[simp] theorem Group.sput_yieldFrom (g : Group) (r : SReg) (v : DWord) : (g.sput r v).yieldFrom = g.yieldFrom := by unfold Group.sput; split <;> rfl
@[simp] theorem Group.sput_lanes (g : Group) (r : SReg) (v : DWord) : (g.sput r v).lanes = g.lanes := by unfold Group.sput; split <;> rfl
@[simp] theorem Group.sput_vfe (g : Group) (r : SReg) (v : DWord) : (g.sput r v).vfe = g.vfe := by unfold Group.sput; split <;> rfl
@[simp] theorem Group.sput_slices (g : Group) (r : SReg) (v : DWord) : (g.sput r v).slices = g.slices := by unfold Group.sput; split <;> rfl
@[simp] theorem Group.sput_block (g : Group) (r : SReg) (v : DWord) : (g.sput r v).block = g.block := by unfold Group.sput; split <;> rfl
@[simp] theorem Group.sput_gangs (g : Group) (r : SReg) (v : DWord) : (g.sput r v).gangs = g.gangs := by unfold Group.sput; split <;> rfl
@[simp] theorem Group.sput_lq (g : Group) (r : SReg) (v : DWord) : (g.sput r v).lq = g.lq := by unfold Group.sput; split <;> rfl
@[simp] theorem Group.sput_mq (g : Group) (r : SReg) (v : DWord) : (g.sput r v).mq = g.mq := by unfold Group.sput; split <;> rfl
@[simp] theorem Group.sput_cq (g : Group) (r : SReg) (v : DWord) : (g.sput r v).cq = g.cq := by unfold Group.sput; split <;> rfl
@[simp] theorem Group.sput_batchCtr (g : Group) (r : SReg) (v : DWord) : (g.sput r v).batchCtr = g.batchCtr := by unfold Group.sput; split <;> rfl
@[simp] theorem Group.sput_openBatch (g : Group) (r : SReg) (v : DWord) : (g.sput r v).openBatch = g.openBatch := by unfold Group.sput; split <;> rfl
@[simp] theorem Group.sput_quar (g : Group) (r : SReg) (v : DWord) : (g.sput r v).quar = g.quar := by unfold Group.sput; split <;> rfl
@[simp] theorem Group.sput_region (g : Group) (r : SReg) (v : DWord) : (g.sput r v).region = g.region := by unfold Group.sput; split <;> rfl
@[simp] theorem Group.sput_striking (g : Group) (r : SReg) (v : DWord) : (g.sput r v).striking = g.striking := by unfold Group.sput; split <;> rfl
@[simp] theorem Group.sput_staleWait (g : Group) (r : SReg) (v : DWord) : (g.sput r v).staleWait = g.staleWait := by unfold Group.sput; split <;> rfl
@[simp] theorem Group.sput_rejected (g : Group) (r : SReg) (v : DWord) : (g.sput r v).rejected = g.rejected := by unfold Group.sput; split <;> rfl
@[simp] theorem Group.sput_savedArray (g : Group) (r : SReg) (v : DWord) : (g.sput r v).savedArray = g.savedArray := by unfold Group.sput; split <;> rfl
@[simp] theorem Group.sput_kept (g : Group) (r : SReg) (v : DWord) : (g.sput r v).kept = g.kept := by unfold Group.sput; split <;> rfl
@[simp] theorem Group.sput_relPend (g : Group) (r : SReg) (v : DWord) : (g.sput r v).relPend = g.relPend := by unfold Group.sput; split <;> rfl
@[simp] theorem Group.sput_dmIssue (g : Group) (r : SReg) (v : DWord) : (g.sput r v).dmIssue = g.dmIssue := by unfold Group.sput; split <;> rfl

/-! ## `Group.sempty` -/

@[simp] theorem Group.sempty_team (g : Group) (r : SReg) : (g.sempty r).team = g.team := by unfold Group.sempty; split <;> rfl
@[simp] theorem Group.sempty_idx (g : Group) (r : SReg) : (g.sempty r).idx = g.idx := by unfold Group.sempty; split <;> rfl
@[simp] theorem Group.sempty_slot (g : Group) (r : SReg) : (g.sempty r).slot = g.slot := by unfold Group.sempty; split <;> rfl
@[simp] theorem Group.sempty_home (g : Group) (r : SReg) : (g.sempty r).home = g.home := by unfold Group.sempty; split <;> rfl
@[simp] theorem Group.sempty_since (g : Group) (r : SReg) : (g.sempty r).since = g.since := by unfold Group.sempty; split <;> rfl
@[simp] theorem Group.sempty_width (g : Group) (r : SReg) : (g.sempty r).width = g.width := by unfold Group.sempty; split <;> rfl
@[simp] theorem Group.sempty_spc (g : Group) (r : SReg) : (g.sempty r).spc = g.spc := by unfold Group.sempty; split <;> rfl
@[simp] theorem Group.sempty_sregs (g : Group) (r : SReg) : (g.sempty r).sregs = g.sregs := by unfold Group.sempty; split <;> rfl
@[simp] theorem Group.sempty_mods (g : Group) (r : SReg) : (g.sempty r).mods = g.mods := by unfold Group.sempty; split <;> rfl
@[simp] theorem Group.sempty_guards (g : Group) (r : SReg) : (g.sempty r).guards = g.guards := by unfold Group.sempty; split <;> rfl
@[simp] theorem Group.sempty_ovfl (g : Group) (r : SReg) : (g.sempty r).ovfl = g.ovfl := by unfold Group.sempty; split <;> rfl
@[simp] theorem Group.sempty_nval (g : Group) (r : SReg) : (g.sempty r).nval = g.nval := by unfold Group.sempty; split <;> rfl
@[simp] theorem Group.sempty_trap (g : Group) (r : SReg) : (g.sempty r).trap = g.trap := by unfold Group.sempty; split <;> rfl
@[simp] theorem Group.sempty_inHandler (g : Group) (r : SReg) : (g.sempty r).inHandler = g.inHandler := by unfold Group.sempty; split <;> rfl
@[simp] theorem Group.sempty_sExited (g : Group) (r : SReg) : (g.sempty r).sExited = g.sExited := by unfold Group.sempty; split <;> rfl
@[simp] theorem Group.sempty_done (g : Group) (r : SReg) : (g.sempty r).done = g.done := by unfold Group.sempty; split <;> rfl
@[simp] theorem Group.sempty_park (g : Group) (r : SReg) : (g.sempty r).park = g.park := by unfold Group.sempty; split <;> rfl
@[simp] theorem Group.sempty_late (g : Group) (r : SReg) : (g.sempty r).late = g.late := by unfold Group.sempty; split <;> rfl
@[simp] theorem Group.sempty_hold (g : Group) (r : SReg) : (g.sempty r).hold = g.hold := by unfold Group.sempty; split <;> rfl
@[simp] theorem Group.sempty_lrgn (g : Group) (r : SReg) : (g.sempty r).lrgn = g.lrgn := by unfold Group.sempty; split <;> rfl
@[simp] theorem Group.sempty_waits (g : Group) (r : SReg) : (g.sempty r).waits = g.waits := by unfold Group.sempty; split <;> rfl
@[simp] theorem Group.sempty_yieldFrom (g : Group) (r : SReg) : (g.sempty r).yieldFrom = g.yieldFrom := by unfold Group.sempty; split <;> rfl
@[simp] theorem Group.sempty_lanes (g : Group) (r : SReg) : (g.sempty r).lanes = g.lanes := by unfold Group.sempty; split <;> rfl
@[simp] theorem Group.sempty_vfe (g : Group) (r : SReg) : (g.sempty r).vfe = g.vfe := by unfold Group.sempty; split <;> rfl
@[simp] theorem Group.sempty_slices (g : Group) (r : SReg) : (g.sempty r).slices = g.slices := by unfold Group.sempty; split <;> rfl
@[simp] theorem Group.sempty_block (g : Group) (r : SReg) : (g.sempty r).block = g.block := by unfold Group.sempty; split <;> rfl
@[simp] theorem Group.sempty_gangs (g : Group) (r : SReg) : (g.sempty r).gangs = g.gangs := by unfold Group.sempty; split <;> rfl
@[simp] theorem Group.sempty_lq (g : Group) (r : SReg) : (g.sempty r).lq = g.lq := by unfold Group.sempty; split <;> rfl
@[simp] theorem Group.sempty_mq (g : Group) (r : SReg) : (g.sempty r).mq = g.mq := by unfold Group.sempty; split <;> rfl
@[simp] theorem Group.sempty_cq (g : Group) (r : SReg) : (g.sempty r).cq = g.cq := by unfold Group.sempty; split <;> rfl
@[simp] theorem Group.sempty_batchCtr (g : Group) (r : SReg) : (g.sempty r).batchCtr = g.batchCtr := by unfold Group.sempty; split <;> rfl
@[simp] theorem Group.sempty_openBatch (g : Group) (r : SReg) : (g.sempty r).openBatch = g.openBatch := by unfold Group.sempty; split <;> rfl
@[simp] theorem Group.sempty_quar (g : Group) (r : SReg) : (g.sempty r).quar = g.quar := by unfold Group.sempty; split <;> rfl
@[simp] theorem Group.sempty_region (g : Group) (r : SReg) : (g.sempty r).region = g.region := by unfold Group.sempty; split <;> rfl
@[simp] theorem Group.sempty_striking (g : Group) (r : SReg) : (g.sempty r).striking = g.striking := by unfold Group.sempty; split <;> rfl
@[simp] theorem Group.sempty_staleWait (g : Group) (r : SReg) : (g.sempty r).staleWait = g.staleWait := by unfold Group.sempty; split <;> rfl
@[simp] theorem Group.sempty_rejected (g : Group) (r : SReg) : (g.sempty r).rejected = g.rejected := by unfold Group.sempty; split <;> rfl
@[simp] theorem Group.sempty_savedArray (g : Group) (r : SReg) : (g.sempty r).savedArray = g.savedArray := by unfold Group.sempty; split <;> rfl
@[simp] theorem Group.sempty_kept (g : Group) (r : SReg) : (g.sempty r).kept = g.kept := by unfold Group.sempty; split <;> rfl
@[simp] theorem Group.sempty_relPend (g : Group) (r : SReg) : (g.sempty r).relPend = g.relPend := by unfold Group.sempty; split <;> rfl
@[simp] theorem Group.sempty_dmIssue (g : Group) (r : SReg) : (g.sempty r).dmIssue = g.dmIssue := by unfold Group.sempty; split <;> rfl

/-! ## `Group.smarkFull` -/

@[simp] theorem Group.smarkFull_team (g : Group) (r : SReg) : (g.smarkFull r).team = g.team := by unfold Group.smarkFull; split <;> rfl
@[simp] theorem Group.smarkFull_idx (g : Group) (r : SReg) : (g.smarkFull r).idx = g.idx := by unfold Group.smarkFull; split <;> rfl
@[simp] theorem Group.smarkFull_slot (g : Group) (r : SReg) : (g.smarkFull r).slot = g.slot := by unfold Group.smarkFull; split <;> rfl
@[simp] theorem Group.smarkFull_home (g : Group) (r : SReg) : (g.smarkFull r).home = g.home := by unfold Group.smarkFull; split <;> rfl
@[simp] theorem Group.smarkFull_since (g : Group) (r : SReg) : (g.smarkFull r).since = g.since := by unfold Group.smarkFull; split <;> rfl
@[simp] theorem Group.smarkFull_width (g : Group) (r : SReg) : (g.smarkFull r).width = g.width := by unfold Group.smarkFull; split <;> rfl
@[simp] theorem Group.smarkFull_spc (g : Group) (r : SReg) : (g.smarkFull r).spc = g.spc := by unfold Group.smarkFull; split <;> rfl
@[simp] theorem Group.smarkFull_sregs (g : Group) (r : SReg) : (g.smarkFull r).sregs = g.sregs := by unfold Group.smarkFull; split <;> rfl
@[simp] theorem Group.smarkFull_mods (g : Group) (r : SReg) : (g.smarkFull r).mods = g.mods := by unfold Group.smarkFull; split <;> rfl
@[simp] theorem Group.smarkFull_guards (g : Group) (r : SReg) : (g.smarkFull r).guards = g.guards := by unfold Group.smarkFull; split <;> rfl
@[simp] theorem Group.smarkFull_ovfl (g : Group) (r : SReg) : (g.smarkFull r).ovfl = g.ovfl := by unfold Group.smarkFull; split <;> rfl
@[simp] theorem Group.smarkFull_nval (g : Group) (r : SReg) : (g.smarkFull r).nval = g.nval := by unfold Group.smarkFull; split <;> rfl
@[simp] theorem Group.smarkFull_trap (g : Group) (r : SReg) : (g.smarkFull r).trap = g.trap := by unfold Group.smarkFull; split <;> rfl
@[simp] theorem Group.smarkFull_inHandler (g : Group) (r : SReg) : (g.smarkFull r).inHandler = g.inHandler := by unfold Group.smarkFull; split <;> rfl
@[simp] theorem Group.smarkFull_sExited (g : Group) (r : SReg) : (g.smarkFull r).sExited = g.sExited := by unfold Group.smarkFull; split <;> rfl
@[simp] theorem Group.smarkFull_done (g : Group) (r : SReg) : (g.smarkFull r).done = g.done := by unfold Group.smarkFull; split <;> rfl
@[simp] theorem Group.smarkFull_park (g : Group) (r : SReg) : (g.smarkFull r).park = g.park := by unfold Group.smarkFull; split <;> rfl
@[simp] theorem Group.smarkFull_late (g : Group) (r : SReg) : (g.smarkFull r).late = g.late := by unfold Group.smarkFull; split <;> rfl
@[simp] theorem Group.smarkFull_hold (g : Group) (r : SReg) : (g.smarkFull r).hold = g.hold := by unfold Group.smarkFull; split <;> rfl
@[simp] theorem Group.smarkFull_lrgn (g : Group) (r : SReg) : (g.smarkFull r).lrgn = g.lrgn := by unfold Group.smarkFull; split <;> rfl
@[simp] theorem Group.smarkFull_waits (g : Group) (r : SReg) : (g.smarkFull r).waits = g.waits := by unfold Group.smarkFull; split <;> rfl
@[simp] theorem Group.smarkFull_yieldFrom (g : Group) (r : SReg) : (g.smarkFull r).yieldFrom = g.yieldFrom := by unfold Group.smarkFull; split <;> rfl
@[simp] theorem Group.smarkFull_lanes (g : Group) (r : SReg) : (g.smarkFull r).lanes = g.lanes := by unfold Group.smarkFull; split <;> rfl
@[simp] theorem Group.smarkFull_vfe (g : Group) (r : SReg) : (g.smarkFull r).vfe = g.vfe := by unfold Group.smarkFull; split <;> rfl
@[simp] theorem Group.smarkFull_slices (g : Group) (r : SReg) : (g.smarkFull r).slices = g.slices := by unfold Group.smarkFull; split <;> rfl
@[simp] theorem Group.smarkFull_block (g : Group) (r : SReg) : (g.smarkFull r).block = g.block := by unfold Group.smarkFull; split <;> rfl
@[simp] theorem Group.smarkFull_gangs (g : Group) (r : SReg) : (g.smarkFull r).gangs = g.gangs := by unfold Group.smarkFull; split <;> rfl
@[simp] theorem Group.smarkFull_lq (g : Group) (r : SReg) : (g.smarkFull r).lq = g.lq := by unfold Group.smarkFull; split <;> rfl
@[simp] theorem Group.smarkFull_mq (g : Group) (r : SReg) : (g.smarkFull r).mq = g.mq := by unfold Group.smarkFull; split <;> rfl
@[simp] theorem Group.smarkFull_cq (g : Group) (r : SReg) : (g.smarkFull r).cq = g.cq := by unfold Group.smarkFull; split <;> rfl
@[simp] theorem Group.smarkFull_batchCtr (g : Group) (r : SReg) : (g.smarkFull r).batchCtr = g.batchCtr := by unfold Group.smarkFull; split <;> rfl
@[simp] theorem Group.smarkFull_openBatch (g : Group) (r : SReg) : (g.smarkFull r).openBatch = g.openBatch := by unfold Group.smarkFull; split <;> rfl
@[simp] theorem Group.smarkFull_quar (g : Group) (r : SReg) : (g.smarkFull r).quar = g.quar := by unfold Group.smarkFull; split <;> rfl
@[simp] theorem Group.smarkFull_region (g : Group) (r : SReg) : (g.smarkFull r).region = g.region := by unfold Group.smarkFull; split <;> rfl
@[simp] theorem Group.smarkFull_striking (g : Group) (r : SReg) : (g.smarkFull r).striking = g.striking := by unfold Group.smarkFull; split <;> rfl
@[simp] theorem Group.smarkFull_staleWait (g : Group) (r : SReg) : (g.smarkFull r).staleWait = g.staleWait := by unfold Group.smarkFull; split <;> rfl
@[simp] theorem Group.smarkFull_rejected (g : Group) (r : SReg) : (g.smarkFull r).rejected = g.rejected := by unfold Group.smarkFull; split <;> rfl
@[simp] theorem Group.smarkFull_savedArray (g : Group) (r : SReg) : (g.smarkFull r).savedArray = g.savedArray := by unfold Group.smarkFull; split <;> rfl
@[simp] theorem Group.smarkFull_kept (g : Group) (r : SReg) : (g.smarkFull r).kept = g.kept := by unfold Group.smarkFull; split <;> rfl
@[simp] theorem Group.smarkFull_relPend (g : Group) (r : SReg) : (g.smarkFull r).relPend = g.relPend := by unfold Group.smarkFull; split <;> rfl
@[simp] theorem Group.smarkFull_dmIssue (g : Group) (r : SReg) : (g.smarkFull r).dmIssue = g.dmIssue := by unfold Group.smarkFull; split <;> rfl

end Sys2Proof.Machine
end

