-- ==== Sys2Proof/Laws/Homes.lean ====
section
/-!
SUPPORT. What a write applied at its home does: the memory keeps its canonical form through writes, images, records and causes, and only
the parts of the state that belong to homes change.
-/
namespace Sys2Proof.Machine

theorem State.memOk_iff {s : State} : s.memOk = true ↔ Memory.wf s.mem = true ∧ Memory.wf s.modules = true := by
  simp [State.memOk]

/-- The canonical form depends on the two memories alone. -/
theorem State.memOk_congr {s t : State} (hm : t.mem = s.mem) (hd : t.modules = s.modules) : t.memOk = s.memOk := by
  simp [State.memOk, hm, hd]

/-! ## What belongs to homes -/

/-- `t` is `s` but for memory, ECC words, step tags, dirty lines, images, the lehr, the streams' notes, the world-fault count with its interrupt,
and fresh numbers. -/
def HomePart (s t : State) : Prop :=
  t = { s with
    mem := t.mem, ecc := t.ecc, tags := t.tags, l2dirty := t.l2dirty, l2tierDirty := t.l2tierDirty, images := t.images
    nextId := t.nextId, lehr := t.lehr, streams := t.streams, wfcount := t.wfcount, ints := t.ints, hostOut := t.hostOut }

/-- Only what belongs to homes changes from `s` to `t`, and the canonical form is kept. -/
def Kept (s t : State) : Prop := HomePart s t ∧ (s.memOk = true → t.memOk = true)

theorem HomePart.trans {s t u : State} (h : HomePart s t) (k : HomePart t u) : HomePart s u := by
  unfold HomePart at *
  rw [k, h]

theorem Kept.refl (s : State) : Kept s s := ⟨rfl, id⟩

theorem Kept.trans {s t u : State} (h : Kept s t) (k : Kept t u) : Kept s u := ⟨h.1.trans k.1, fun hm => k.2 (h.2 hm)⟩

/-- A change of what belongs to homes that leaves the two memories alone. -/
theorem Kept.of_mem {s t : State} (h : HomePart s t) (hm : t.mem = s.mem) : Kept s t :=
  ⟨h, fun hs => by rw [State.memOk_congr hm (by rw [h])]; exact hs⟩

/-- A chain of home updates keeps what each of them keeps. -/
theorem Kept.foldl {α : Type} (f : State → α → State) (h : ∀ s x, Kept s (f s x)) : ∀ (l : List α) (s : State), Kept s (l.foldl f s)
  | [], s => Kept.refl s
  | x :: xs, s => (h s x).trans (Kept.foldl f h xs (f s x))

/-- Streams noting a foreign write belong to homes. -/
theorem touchStreams_kept (s : State) (pa n : Nat) (out : Nat → Stream → Bool) : Kept s (s.touchStreams pa n out) := ⟨rfl, id⟩

theorem putBytes_kept (s : State) (pa : Nat) (bs : List (Option Byte)) : Kept s (s.putBytes pa bs) :=
  ⟨rfl, fun h => State.memOk_iff.2 ⟨Memory.wf_cellsWrite pa bs (State.memOk_iff.1 h).1, (State.memOk_iff.1 h).2⟩⟩

theorem poisonWord_kept (s : State) (pa : Nat) : Kept s (s.poisonWord pa) := ⟨rfl, id⟩

theorem eccServe_kept (s : State) (pa : Nat) : Kept s (s.eccServe pa) := by
  unfold State.eccServe
  split <;> exact ⟨rfl, id⟩

theorem sendImage_kept (s : State) (g : Nat) : Kept s (s.sendImage g).2 := ⟨rfl, id⟩

theorem sendImages_kept : ∀ (gs : List Nat) (s : State), Kept s (s.sendImages gs).2
  | [], s => Kept.refl s
  | g :: gs, s => (sendImage_kept s g).trans (sendImages_kept gs (s.sendImage g).2)

/-- Sending images changes no byte of memory. -/
@[simp] theorem sendImages_mem : ∀ (gs : List Nat) (s : State), (s.sendImages gs).2.mem = s.mem
  | [], _ => rfl
  | g :: gs, s => by simp [State.sendImages, sendImages_mem gs, State.sendImage]

theorem signal_kept (s : State) (k : Nat) : Kept s (s.signal k) := by
  unfold State.signal
  dsimp only
  split <;> exact ⟨rfl, id⟩

theorem countWorldFault_kept (s : State) : Kept s s.countWorldFault := by
  unfold State.countWorldFault
  split
  · exact Kept.refl s
  · exact Kept.trans (t := { s with wfcount := s.wfcount + 1 }) ⟨rfl, id⟩ (signal_kept _ 1)

theorem noteWorld_kept (s : State) (c : BitVec 8) : Kept s (s.noteWorld c) := by
  unfold State.noteWorld
  split
  · exact countWorldFault_kept s
  · exact Kept.refl s

/-- Changing the lehr, the step tags or the dirty lines is a home's business. -/
theorem withLehr_kept {s t : State} (h : t = { s with lehr := t.lehr, tags := t.tags, l2dirty := t.l2dirty, l2tierDirty := t.l2tierDirty }) :
    Kept s t := by
  rw [h]; exact ⟨rfl, id⟩

theorem slotWrite_kept (s : State) (dst : Nat) (bs : List (Option Byte)) (bad : List Nat) : Kept s (s.slotWrite dst bs bad) := by
  unfold State.slotWrite
  split
  · dsimp only
    exact ((((putBytes_kept s dst bs).trans (Kept.foldl _ (fun u w => poisonWord_kept u (32 * w)) bad _)).trans
      (withLehr_kept rfl)).trans (sendImages_kept _ _)).trans (withLehr_kept rfl)
  · exact countWorldFault_kept s

theorem slotPut_kept (s : State) (x : EarlyLine) : Kept s (s.slotPut x) := slotWrite_kept s _ _ _

theorem lineNow_kept (s : State) (ln : Nat) : Kept s (s.lineNow ln).2 := by
  unfold State.lineNow
  split
  · exact Kept.foldl _ (fun u i => eccServe_kept u _) _ s
  · exact countWorldFault_kept s

theorem copyLine_kept (s : State) (ln : Nat) : Kept s (s.copyLine ln) := by
  unfold State.copyLine
  have h := lineNow_kept s ln
  dsimp only
  split
  · exact (h.trans (withLehr_kept rfl)).trans (withLehr_kept rfl)
  · exact (h.trans (withLehr_kept rfl)).trans (slotPut_kept _ _)

theorem lehrBefore_kept (s : State) (tag : BitVec 16) (ln : Nat) : Kept s (s.lehrBefore tag ln) := by
  unfold State.lehrBefore
  split
  · exact copyLine_kept s ln
  · exact Kept.refl s

theorem lehrLate_kept (s : State) (tag : BitVec 16) (pa : Nat) (bs : List (Option Byte)) (bad : List Nat) :
    Kept s (s.lehrLate tag pa bs bad) := by
  refine Kept.foldl _ (fun u ln => ?_) _ s
  dsimp only
  split
  · split
    · exact withLehr_kept rfl
    · exact slotWrite_kept u _ _ _
  · exact Kept.refl u

/-- A masked write at its home changes only what belongs to homes, and keeps the canonical form. -/
theorem putWrite_kept (s : State) (pa : Nat) (bs : List (Option Byte)) (bad : List Nat) (tag : BitVec 16) (d : Bool) :
    Kept s (s.putWrite pa bs bad tag d).2 := by
  have put : ∀ u : State, Kept u (bad.foldl (fun t w => t.poisonWord (32 * w)) (u.putBytes pa bs)) :=
    fun u => (putBytes_kept u pa bs).trans (Kept.foldl _ (fun v w => poisonWord_kept v (32 * w)) bad _)
  unfold State.putWrite
  dsimp only
  split
  · have h := ((Kept.foldl _ (fun u ln => lehrBefore_kept u tag ln) (touchedBlocks 256 pa bs) s).trans (put _)).trans
      (lehrLate_kept _ tag pa bs bad)
    split
    · exact (h.trans (withLehr_kept rfl)).trans (sendImages_kept _ _)
    · exact h.trans (withLehr_kept rfl)
  · split
    · exact (put s).trans (withLehr_kept rfl)
    · exact put s

theorem accWrite_kept (s : State) (pa : Nat) (bs : List (Option Byte)) (tag : BitVec 16) (d : Bool) : Kept s (s.accWrite pa bs tag d).2 :=
  putWrite_kept s pa bs [] tag d

/-- As `accWrite_kept`, for a party other than a matrix accumulation. -/
theorem homeWrite_kept (s : State) (pa : Nat) (bs : List (Option Byte)) (tag : BitVec 16) (d : Bool) : Kept s (s.homeWrite pa bs tag d).2 :=
  (touchStreams_kept s _ _ _).trans (accWrite_kept _ pa bs tag d)

/-- Outside the tier the memory after a write at its home is the masked write. -/
theorem homeWrite_mem {s : State} {pa : Nat} (bs : List (Option Byte)) (tag : BitVec 16) (d : Bool) (h : ¬ (tierBase ≤ pa ∧ pa < tierEnd)) :
    (s.homeWrite pa bs tag d).2.mem = cellsWrite s.mem pa bs := by
  unfold State.homeWrite State.homeWriteBut State.accWrite State.putWrite
  have : (decide (tierBase ≤ pa) && decide (pa < tierEnd)) = false := by simpa using h
  simp only [this, Bool.false_eq_true, if_false, List.foldl_nil]
  split <;> rfl

/-! ## Records and causes -/

@[simp] theorem signal_memOk (s : State) (k : Nat) : (s.signal k).memOk = s.memOk := by
  unfold State.signal; dsimp only; split <;> rfl

@[simp] theorem noteWorld_memOk (s : State) (c : BitVec 8) : (s.noteWorld c).memOk = s.memOk := by
  unfold State.noteWorld State.countWorldFault
  split
  · split
    · rfl
    · rw [signal_memOk]; rfl
  · rfl

@[simp] theorem recordWritten_memOk (s : State) (c : Nat) (r : CompRec) : (s.recordWritten c r).memOk = s.memOk := by
  unfold State.recordWritten
  dsimp only
  split <;> split <;> first | rfl | (rw [signal_memOk]; rfl)

/-- Records that are written keep the canonical form. -/
theorem flushRecords_memOk : ∀ (rs : List CompRec) (s : State) (c : Nat), s.memOk = true → (s.flushRecords c rs).memOk = true
  | [], _, _, h => h
  | r :: rest, s, c, h => by
    rw [State.flushRecords]
    dsimp only
    split
    · exact h
    · split
      · rw [noteWorld_memOk]; exact h
      · refine flushRecords_memOk rest _ c ?_
        rw [recordWritten_memOk]
        exact (homeWrite_kept s _ _ _ _).2 h
      · exact h
      · exact h

theorem postRecord_memOk {s : State} (c : Nat) (r : CompRec) (h : s.memOk = true) : (s.postRecord c r).memOk = true := by
  unfold State.postRecord
  dsimp only
  split
  · exact h
  · exact flushRecords_memOk _ s c h

/-- Taking a cause keeps the canonical form. -/
theorem takeCause_memOk {s : State} (gid : Nat) (c : Cause) (p : Bool) (h : s.memOk = true) : (s.takeCause gid c p).memOk = true := by
  unfold State.takeCause
  split
  · exact h
  · split
    · exact h
    · split
      · exact h
      · split
        · exact h
        · exact postRecord_memOk _ _ h

/-- A cause of a group that is neither done nor parked nor struck, outside its handler: a program trap with a handler enters it. -/
theorem takeCause_delivers {s : State} {gid : Nat} {w : Who} (c : Cause) (p : Bool) (hw : s.who gid = some w) (hd : w.g.done = false)
    (hp : w.g.park = none) (hk : w.g.striking = false) (hs : isSystemCause c.code = false) (hh : w.g.inHandler = false)
    (hv : w.lrec.trapvec ≠ 0xFFFFFFFF) (he : w.g.sExited = false) :
    s.takeCause gid c p = s.setGroup gid (w.g.deliver w.lrec c (if p then c.pc else w.g.spc)) := by
  simp [State.takeCause, hw, hd, hp, hk, hs, hh, hv, he]

/-- A system cause of a group that is neither done nor parked nor struck parks it. -/
theorem takeCause_parks {s : State} {gid : Nat} {w : Who} (c : Cause) (p : Bool) (hw : s.who gid = some w) (hd : w.g.done = false)
    (hp : w.g.park = none) (hk : w.g.striking = false) (hs : isSystemCause c.code = true) :
    s.takeCause gid c p = (s.setGroup gid (w.g.parkBy c p (if p then c.pc else w.g.spc))).postRecord w.ctx
      (faultRecord w c s.cycle) := by
  simp [State.takeCause, hw, hd, hp, hk, hs]

end Sys2Proof.Machine
end

