-- ==== Sys2Proof/Laws/Tables.lean ====
section
/-!
SUPPORT. Reading a table after it was written: no assumption about the list is needed.
-/
namespace Sys2Proof.Machine

variable {β : Type}

@[simp] theorem aget_nil (k : Nat) : aget ([] : Tbl β) k = none := rfl

theorem aget_aset (t : Tbl β) (k j : Nat) (v : β) : aget (aset t k v) j = if j = k then some v else aget t j := by
  induction t with
  | nil => simp [aset, aget]
  | cons p t ih =>
    obtain ⟨i, w⟩ := p
    simp only [aset]
    split
    · subst i; simp only [aget]; split <;> rfl
    · split
      · simp only [aget]
      · simp only [aget, ih]; split <;> split <;> simp_all

@[simp] theorem aget_aset_same (t : Tbl β) (k : Nat) (v : β) : aget (aset t k v) k = some v := by simp [aget_aset]

theorem aget_aset_ne (t : Tbl β) {k j : Nat} (v : β) (h : j ≠ k) : aget (aset t k v) j = aget t j := by simp [aget_aset, h]

theorem aget_adel (t : Tbl β) (k j : Nat) : aget (adel t k) j = if j = k then none else aget t j := by
  induction t with
  | nil => simp [adel]
  | cons p t ih =>
    obtain ⟨i, w⟩ := p
    simp only [adel]
    split
    · subst i; simp only [aget, ih]; split <;> simp_all
    · simp only [aget, ih]; split <;> split <;> simp_all

@[simp] theorem aget_adel_same (t : Tbl β) (k : Nat) : aget (adel t k) k = none := by simp [aget_adel]

theorem aget_adel_ne (t : Tbl β) {k j : Nat} (h : j ≠ k) : aget (adel t k) j = aget t j := by simp [aget_adel, h]

theorem aget_amod (t : Tbl β) (k j : Nat) (f : β → β) : aget (amod t k f) j = if j = k then (aget t k).map f else aget t j := by
  unfold amod
  split
  · simp_all [aget_aset]
  · split <;> simp_all

@[simp] theorem aget_amod_same (t : Tbl β) (k : Nat) (f : β → β) : aget (amod t k f) k = (aget t k).map f := by simp [aget_amod]

theorem aget_amod_ne (t : Tbl β) {k j : Nat} (f : β → β) (h : j ≠ k) : aget (amod t k f) j = aget t j := by simp [aget_amod, h]

end Sys2Proof.Machine
end

