-- ==== Sys2Proof/Laws/Issue.lean ====
section
/-!
SUPPORT. What the shared operations around an instruction do: finding the group, issuing an S word, issuing a lane instruction,
moving its lanes, and reading registers after writing them.
-/
namespace Sys2Proof.Machine

/-! ## The group and what it belongs to -/

theorem State.who_parts {s : State} {gid : Nat} {w : Who} (h : s.who gid = some w) :
    w.gid = gid ∧ aget s.groups gid = some w.g ∧ aget s.teams w.g.team = some w.team ∧
      aget s.launches w.team.launch = some w.launch := by
  unfold State.who at h
  split at h
  · cases h
  · split at h
    · cases h
    · split at h
      · cases h
      · cases h; exact ⟨rfl, by assumption, by assumption, by assumption⟩

theorem State.who_group {s : State} {w : Who} (h : s.who w.gid = some w) : aget s.groups w.gid = some w.g :=
  (State.who_parts h).2.1

/-! ## Issuing an S word -/

/-- With every register full an S word runs its body. -/
theorem sIssue_ready {s : State} {w : Who} {need : List SReg} (h : SReady s w need) (body : Nat → Group → Out) :
    sIssue s need body = body w.gid w.g := by
  simp only [sIssue, h.cur, State.who_group h.who]
  rw [if_pos (by rw [List.all_eq_true]; exact h.full)]

theorem sIssueWho_ready {s : State} {w : Who} {need : List SReg} (h : SReady s w need) (body : Who → Out) :
    sIssueWho s need body = body w := by
  rw [sIssueWho, sIssue_ready h]; simp only [h.who]

theorem sAccess_ready {s : State} {w : Who} {need : List SReg} (h : SReady s w need) (g : s.getPending w.gid = false)
    (body : Who → Out) : sAccess s need body = body w := by
  rw [sAccess, sIssueWho_ready h]; simp [g]

/-- What an S word can answer: a fault outside a group, a stall, or its body's answer. -/
theorem sIssue_cases {s : State} {need : List SReg} {body : Nat → Group → Out} {o : Out} (h : sIssue s need body = o) :
    o = .fault .noIssuer ∨ (∃ c g, s.cur = some c ∧ aget s.groups c.gid = some g ∧ o = s.sStall c.gid g .barrier 0) ∨
      ∃ c g, s.cur = some c ∧ aget s.groups c.gid = some g ∧ need.all g.sfull = true ∧ o = body c.gid g := by
  subst h
  unfold sIssue
  split
  · exact .inl rfl
  · next c hc =>
    split
    · exact .inl rfl
    · next g hg =>
      split
      · next hn => exact .inr (.inr ⟨c, g, hc, hg, hn, rfl⟩)
      · exact .inr (.inl ⟨c, g, hc, hg, rfl⟩)

/-! ## Scalar registers -/

theorem Group.sget_sput (g : Group) (d r : SReg) (v : DWord) :
    (g.sput d v).sget r = if r = d then (if d = 0 then 0 else v) else g.sget r := by
  by_cases hd : d = 0
  · rw [Group.sput, if_pos hd]
    by_cases hr : r = d
    · rw [if_pos hr, if_pos hd, hr, hd]; rfl
    · rw [if_neg hr]
  · rw [Group.sput, if_neg hd]
    by_cases hr : r = d
    · rw [if_pos hr, if_neg hd, hr, Group.sget, if_neg hd]; simp
    · have h : r.toNat ≠ d.toNat := fun e => hr (BitVec.eq_of_toNat_eq e)
      rw [if_neg hr, Group.sget, Group.sget, aget_aset_ne _ _ h]

/-- s0 reads zero whatever was written. -/
theorem Group.sget_zero (g : Group) : g.sget 0 = 0 := by simp [Group.sget]

@[simp] theorem Group.sget_next (g : Group) (r : SReg) : g.next.sget r = g.sget r := rfl
@[simp] theorem Group.sget_goto (g : Group) (a : DWord) (r : SReg) : (g.goto a).sget r = g.sget r := rfl

/-! ## Lane registers -/

theorem Lane.get_put (l : Lane) (k j : Nat) (v : Word) : (l.put k v).get j = if j = k then v else l.get j := by
  unfold Lane.get Lane.put
  simp only [aget_aset]
  split <;> rfl

@[simp] theorem Lane.put_preds (l : Lane) (k : Nat) (v : Word) : (l.put k v).preds = l.preds := rfl
@[simp] theorem Lane.put_life (l : Lane) (k : Nat) (v : Word) : (l.put k v).life = l.life := rfl
@[simp] theorem Lane.put_atEnd (l : Lane) (k : Nat) (v : Word) : (l.put k v).atEnd = l.atEnd := rfl

theorem Lane.getPair_putPair (l : Lane) (k : Nat) (v : DWord) : (l.putPair k v).getPair k = v := by
  unfold Lane.getPair Lane.putPair
  simp only [Lane.get_put]
  apply BitVec.eq_of_getLsbD_eq
  intro i hi
  rw [BitVec.getLsbD_append]
  by_cases h : i < 32
  · simp [h]
  · have e : 32 + (i - 32) = i := by omega
    have e2 : i - 32 < 32 := by omega
    simp [h, e, e2]

end Sys2Proof.Machine
end

