-- ==== Sys2Proof/Laws/Lanes.lean ====
section
/-!
SUPPORT. Lane instructions: what writing lanes does to a group, what moving a sub-gang leaves alone, and the answer of an instruction that
stands ready.
-/
namespace Sys2Proof.Machine

/-! ## Changing lanes -/

theorem Group.lane_setLane (g : Group) (l j : Nat) (x : Lane) : (g.setLane l x).lane j = if j = l then x else g.lane j := by
  unfold Group.lane Group.setLane
  simp only [aget_aset]
  split <;> rfl

/-- Changing lanes changes nothing else of the group. -/
theorem Group.mapLanes_lanes (g : Group) (ls : List Nat) (fn : Nat → Lane → Lane) :
    g.mapLanes ls fn = { g with lanes := (g.mapLanes ls fn).lanes } := by
  unfold Group.mapLanes
  induction ls generalizing g with
  | nil => rfl
  | cons a ls ih => rw [List.foldl_cons, ih]; rfl

theorem Group.mapLanes_idle (g : Group) (ls : List Nat) (fn : Nat → Lane → Lane) {l : Nat} (h : l ∉ ls) :
    (g.mapLanes ls fn).lane l = g.lane l := by
  unfold Group.mapLanes
  induction ls generalizing g with
  | nil => rfl
  | cons a ls ih =>
    simp only [List.mem_cons, not_or] at h
    rw [List.foldl_cons, ih _ h.2, Group.lane_setLane, if_neg h.1]

/-- A property that `fn` gives the lane as it was, and keeps, holds of the changed lane. -/
theorem Group.mapLanes_changed (g : Group) (ls : List Nat) (fn : Nat → Lane → Lane) {l : Nat} (p : Lane → Prop)
    (first : p (fn l (g.lane l))) (again : ∀ x, p x → p (fn l x)) (h : l ∈ ls) : p ((g.mapLanes ls fn).lane l) := by
  have keep : ∀ (ms : List Nat) (x : Group), p (x.lane l) → p ((x.mapLanes ms fn).lane l) := by
    intro ms
    induction ms with
    | nil => intro x hx; exact hx
    | cons a ms ih =>
      intro x hx
      refine ih (x.setLane a (fn a (x.lane a))) ?_
      rw [Group.lane_setLane]
      by_cases e : l = a
      · subst e; rw [if_pos rfl]; exact again _ hx
      · rw [if_neg e]; exact hx
  have go : ∀ (ms : List Nat) (x : Group), x.lane l = g.lane l → l ∈ ms → p ((x.mapLanes ms fn).lane l) := by
    intro ms
    induction ms with
    | nil => intro x _ hm; cases hm
    | cons a ms ih =>
      intro x hx hm
      by_cases e : l = a
      · subst e
        refine keep ms (x.setLane l (fn l (x.lane l))) ?_
        rw [Group.lane_setLane, if_pos rfl, hx]; exact first
      · refine ih (x.setLane a (fn a (x.lane a))) ?_ (by simpa [e] using hm)
        rw [Group.lane_setLane, if_neg e, hx]
  exact go ls g rfl h

/-! ## Moving a sub-gang -/

@[simp] theorem Group.moveGang_lane (g : Group) (c : LaneCtx) (nxt : Nat → Option (Word × Nat)) (l : Nat) :
    (g.moveGang c nxt).lane l = g.lane l := rfl

/-- The end of a block touches the group's block, L-queue and slices, and the commands. -/
theorem State.endBlock_cases (s : State) (gid : Nat) (g : Group) :
    ∃ h cs, s.endBlock gid g = { s.setGroup gid h with cmds := cs } ∧
      ∃ b q sl ga, h = { g with block := b, lq := q, slices := sl, gangs := ga } := by
  unfold State.endBlock
  split
  · split
    · exact ⟨_, _, rfl, _, _, _, _, rfl⟩
    · exact ⟨_, s.cmds, rfl, _, _, _, _, rfl⟩
  · exact ⟨g, s.cmds, rfl, _, _, _, _, rfl⟩

/-- A sub-gang that moves answers a next state: its group has `g`'s registers, lanes and flags. -/
theorem State.laneMove_next (s : State) (c : LaneCtx) (g : Group) (nxt : Nat → Option (Word × Nat)) :
    ∃ h cs, s.laneMove c g nxt = .next { s.setGroup c.who.gid h with cmds := cs } ∧
      ∃ b q sl ga w, h = { g with block := b, lq := q, slices := sl, gangs := ga, waits := w } := by
  obtain ⟨h, cs, e, b, q, sl, ga, hh⟩ := s.endBlock_cases c.who.gid (g.moveGang c nxt)
  refine ⟨h, cs, ?_, b, q, sl, ga, (g.moveGang c nxt).waits, ?_⟩
  · rw [State.laneMove, e]
  · rw [hh]; rfl

/-! ## Issuing -/

/-- A lane instruction that stands ready runs its body. -/
theorem laneIssue_ready {s : State} {f : LF} {n : Need} {c : LaneCtx} (h : LaneReady s f n c) (body : LaneCtx → Out) :
    laneIssue s f n body = body c := by
  obtain ⟨who, pc, depth, slices, lanes, act⟩ := c
  obtain ⟨cur, hw, hs, hl, ha, some_, pend, preds, alloc, legal, gath, dfull, dready, sfull, scal⟩ := h
  simp only at cur hw hs hl ha some_ pend preds alloc legal gath dfull dready sfull scal
  subst hs hl ha
  simp only [laneIssue, cur, hw, pend]
  have e1 : (who.g.gangLanes (who.g.gang pc depth)).isEmpty = false := by
    rw [Bool.eq_false_iff, ne_eq, List.isEmpty_iff]; exact some_
  have e2 : ((n.dst ++ n.keep ++ n.a ++ n.b ++ n.c).any fun k => decide (who.lrec.regsAlloc ≤ k)) = false := by
    rw [List.any_eq_false]; intro k hk; simpa using alloc k hk
  have e3 : n.dst.all who.g.vfull = true := by
    rw [List.all_eq_true]; exact fun k hk => dfull k (List.mem_append_left _ hk)
  have e4 : n.keep.all who.g.vfull = true := by
    rw [List.all_eq_true]; exact fun k hk => dfull k (List.mem_append_right _ hk)
  have e5 : n.sdst.all (s.dstReady who.gid who.g) = true := by rw [List.all_eq_true]; exact dready
  have fa : who.g.srcFull n.a [] = true := by
    simp only [Group.srcFull, Bool.and_eq_true, List.all_eq_true]
    exact ⟨fun k hk => sfull k (by simp [hk]), by simp⟩
  have fb : who.g.srcFull n.b (scalarSrc f.bsel f.b) = true := by
    simp only [Group.srcFull, Bool.and_eq_true, List.all_eq_true]
    exact ⟨fun k hk => sfull k (by simp [hk]), fun r hr => scal r (by simp [hr])⟩
  have fc : who.g.srcFull n.c (scalarSrc f.csel f.c) = true := by
    simp only [Group.srcFull, Bool.and_eq_true, List.all_eq_true]
    exact ⟨fun k hk => sfull k (by simp [hk]), fun r hr => scal r (by simp [hr])⟩
  have eg : (n.gather && !LaneCtx.gathered ⟨who, pc, depth, who.g.gang pc depth, who.g.gangLanes (who.g.gang pc depth),
      (who.g.gangLanes (who.g.gang pc depth)).filter fun l => guardHolds f.guard (who.g.lane l)⟩) = false := by
    cases hg : n.gather
    · rfl
    · rw [gath hg]; rfl
  rw [if_neg (by simp [e1]), if_neg (by simp [preds]), if_neg (by simp only [e2]; exact Bool.false_ne_true),
    if_neg (by rw [legal]; exact Bool.false_ne_true), if_neg (by rw [eg]; exact Bool.false_ne_true),
    if_neg (by simp [e3, e4, e5, fa, fb, fc]), if_neg (by simp [fa, fb, fc])]

/-- A lane instruction without a memory access changes lanes of its group alone. -/
theorem runsLanes_of_map {s : State} {c : LaneCtx} (fn : Nat → Lane → Lane)
    (nxt : Nat → Option (Word × Nat)) (p : Nat → Lane → Lane → Prop)
    (first : ∀ l ∈ c.act, p l (c.who.g.lane l) (fn l (c.who.g.lane l)))
    (again : ∀ l ∈ c.act, ∀ x, p l (c.who.g.lane l) x → p l (c.who.g.lane l) (fn l x)) :
    RunsLanes s c (s.laneMove c (c.who.g.mapLanes c.act fn) nxt) p := by
  obtain ⟨h, cs, e, b, q, sl, ga, w, hh⟩ := s.laneMove_next c (c.who.g.mapLanes c.act fn) nxt
  have hl : ∀ l, h.lane l = (c.who.g.mapLanes c.act fn).lane l := by intro l; rw [hh]; rfl
  have hm := Group.mapLanes_lanes c.who.g c.act fn
  refine ⟨_, h, e, by simp [State.setGroup], ⟨fun _ => rfl, rfl, rfl, ?_, rfl, rfl, rfl⟩, rfl, rfl, ?_, ?_, ?_⟩
  · intro j hj; exact aget_aset_ne _ _ hj
  · refine ⟨?_, ?_, ?_, ?_, ?_, ?_, ?_, ?_, ?_, fun l hl' => by rw [hl, Group.mapLanes_idle _ _ _ hl']⟩ <;> rw [hh, hm]
  · constructor <;> rw [hh, hm]
  · intro l hl'
    rw [hl]
    exact Group.mapLanes_changed _ _ _ (fun x => p l (c.who.g.lane l) x) (first l hl') (again l hl') hl'

end Sys2Proof.Machine
end

