-- ==== Sys2Proof/Laws/PerInstr.lean ====
section
/-!
SUPPORT. One family of lemmas, one for each constructor of `Instr`: every word that the encoder writes fits in 32 bits (R95 to R99), and
so is one that the decoder can be given.
-/
namespace Sys2Proof.Laws

/-- Scope codes fit in their field. -/
theorem scopeCode_lt (s : Scope) : scopeCode s < 64 := by cases s <;> decide

/-- Guard codes fit in their field (R96). -/
theorem guardCode_lt (g : GuardSel) : guardCode g < 32 := by
  cases g with
  | slot n => have := n.isLt; simp only [guardCode]; omega
  | _ => simp [guardCode]

/-- Condition codes fit in their field (R144). -/
theorem condCode_lt (c : BrCond) : condCode c < 8 := by cases c <;> decide

/-- Mode and displacement fit in their field (R95). -/
theorem modeBits_lt (m : SMode) : modeBits m < 4096 := by
  cases m with
  | offset d => have := d.isLt; simp only [modeBits]; omega
  | postInc d => have := d.isLt; simp only [modeBits]; omega
  | modulo m i => have := m.isLt; have := i.isLt; simp only [modeBits]; omega

/-- The w bit is the top of the function code. -/
theorem toNat_bool_le (w : Bool) : w.toNat ≤ 1 := by cases w <;> decide

theorem encSR_lt (op : Nat) (d a b : SReg) (fn : Nat) (ho : op < 64) (hf : fn < 256) : encSR op d a b fn < 2 ^ 32 := by
  have := d.isLt; have := a.isLt; have := b.isLt; simp only [encSR]; omega

theorem encSI_lt (op : Nat) (d a : SReg) (i : Nat) (ho : op < 64) (hi : i < 16384) : encSI op d a i < 2 ^ 32 := by
  have := d.isLt; have := a.isLt; simp only [encSI]; omega

theorem encSM_lt (op : Nat) (n : BitVec 2) (t a : SReg) (m : SMode) (ho : op < 64) : encSM op n t a m < 2 ^ 32 := by
  have := n.isLt; have := t.isLt; have := a.isLt; have := modeBits_lt m; simp only [encSM]; omega

theorem encSC_lt (op : Nat) (g : GuardSel) (a b : SReg) (fn : Nat) (ho : op < 64) (hf : fn < 512) : encSC op g a b fn < 2 ^ 32 := by
  have := guardCode_lt g; have := a.isLt; have := b.isLt; simp only [encSC]; omega

/-- W0 fits in 32 bits (R99). -/
theorem encW0_lt (op : Nat) (f : LF) (ho : op < 1024) : encW0 op f < 2 ^ 32 := by
  have hg : lguardBits f.guard < 64 := by
    cases f.guard with
    | always => decide
    | pred p n => have := p.isLt; have := toNat_bool_le n; simp only [lguardBits]; omega
  have ht : f.ty.code < 16 := by cases f.ty <;> decide
  have hb : selCode f.bsel < 4 := by cases f.bsel <;> decide
  have hc : selCode f.csel < 4 := by cases f.csel <;> decide
  have hm := f.mod5.isLt
  have := toNat_bool_le f.feA; have := toNat_bool_le f.feB; have := toNat_bool_le f.feC
  simp only [encW0]; omega

/-- W1 fits in 32 bits (R99). -/
theorem encW1_lt (f : LF) : encW1 f < 2 ^ 32 := by
  have := f.d.isLt; have := f.a.isLt; have := f.b.isLt; have := f.c.isLt
  simp only [encW1]; omega

/-- The statement of the family: the words of `i` are 32-bit words. -/
def WordsFit.Statement (i : Instr) : Prop := ∀ l, encode i = some l → ∀ w ∈ l, w < 2 ^ 32

theorem words_one {i : Instr} {v : Nat} (h : encodeS i = some v) (hv : v < 2 ^ 32) : WordsFit.Statement i := by
  intro l hl w hw
  simp only [encode, h, Option.some.injEq] at hl
  subst hl
  simp only [List.mem_singleton] at hw
  omega

theorem words_three {i : Instr} {op : Nat} {f : LF} (hs : encodeS i = none) (h : i.lane = some (op, f)) (ho : op < 1024) :
    WordsFit.Statement i := by
  intro l hl w hw
  simp only [encode, hs, encodeL, h, Option.map_some, Option.some.injEq] at hl
  subst hl
  simp only [List.mem_cons, List.not_mem_nil, or_false] at hw
  have h0 := encW0_lt op f ho; have h1 := encW1_lt f; have h2 := f.w2.isLt
  rcases hw with rfl | rfl | rfl <;> omega

theorem words_none {i : Instr} (hs : encodeS i = none) (h : i.lane = none) : WordsFit.Statement i := by
  intro l hl
  simp [encode, hs, encodeL, h] at hl

theorem WordsFit.add (w : Bool) (d : SReg) (a : SReg) (b : SReg) : WordsFit.Statement (.add w d a b) :=
  words_one rfl (encSR_lt _ _ _ _ _ (by decide) (by have := toNat_bool_le w; omega))

theorem WordsFit.sub (w : Bool) (d : SReg) (a : SReg) (b : SReg) : WordsFit.Statement (.sub w d a b) :=
  words_one rfl (encSR_lt _ _ _ _ _ (by decide) (by have := toNat_bool_le w; omega))

theorem WordsFit.mul (w : Bool) (d : SReg) (a : SReg) (b : SReg) : WordsFit.Statement (.mul w d a b) :=
  words_one rfl (encSR_lt _ _ _ _ _ (by decide) (by have := toNat_bool_le w; omega))

theorem WordsFit.mulhI (w : Bool) (d : SReg) (a : SReg) (b : SReg) : WordsFit.Statement (.mulhI w d a b) :=
  words_one rfl (encSR_lt _ _ _ _ _ (by decide) (by have := toNat_bool_le w; omega))

theorem WordsFit.mulhN (w : Bool) (d : SReg) (a : SReg) (b : SReg) : WordsFit.Statement (.mulhN w d a b) :=
  words_one rfl (encSR_lt _ _ _ _ _ (by decide) (by have := toNat_bool_le w; omega))

theorem WordsFit.divI (w : Bool) (d : SReg) (a : SReg) (b : SReg) : WordsFit.Statement (.divI w d a b) :=
  words_one rfl (encSR_lt _ _ _ _ _ (by decide) (by have := toNat_bool_le w; omega))

theorem WordsFit.divN (w : Bool) (d : SReg) (a : SReg) (b : SReg) : WordsFit.Statement (.divN w d a b) :=
  words_one rfl (encSR_lt _ _ _ _ _ (by decide) (by have := toNat_bool_le w; omega))

theorem WordsFit.remI (w : Bool) (d : SReg) (a : SReg) (b : SReg) : WordsFit.Statement (.remI w d a b) :=
  words_one rfl (encSR_lt _ _ _ _ _ (by decide) (by have := toNat_bool_le w; omega))

theorem WordsFit.remN (w : Bool) (d : SReg) (a : SReg) (b : SReg) : WordsFit.Statement (.remN w d a b) :=
  words_one rfl (encSR_lt _ _ _ _ _ (by decide) (by have := toNat_bool_le w; omega))

theorem WordsFit.and (w : Bool) (d : SReg) (a : SReg) (b : SReg) : WordsFit.Statement (.and w d a b) :=
  words_one rfl (encSR_lt _ _ _ _ _ (by decide) (by have := toNat_bool_le w; omega))

theorem WordsFit.or (w : Bool) (d : SReg) (a : SReg) (b : SReg) : WordsFit.Statement (.or w d a b) :=
  words_one rfl (encSR_lt _ _ _ _ _ (by decide) (by have := toNat_bool_le w; omega))

theorem WordsFit.xor (w : Bool) (d : SReg) (a : SReg) (b : SReg) : WordsFit.Statement (.xor w d a b) :=
  words_one rfl (encSR_lt _ _ _ _ _ (by decide) (by have := toNat_bool_le w; omega))

theorem WordsFit.andn (w : Bool) (d : SReg) (a : SReg) (b : SReg) : WordsFit.Statement (.andn w d a b) :=
  words_one rfl (encSR_lt _ _ _ _ _ (by decide) (by have := toNat_bool_le w; omega))

theorem WordsFit.shl (w : Bool) (d : SReg) (a : SReg) (b : SReg) : WordsFit.Statement (.shl w d a b) :=
  words_one rfl (encSR_lt _ _ _ _ _ (by decide) (by have := toNat_bool_le w; omega))

theorem WordsFit.shr (w : Bool) (d : SReg) (a : SReg) (b : SReg) : WordsFit.Statement (.shr w d a b) :=
  words_one rfl (encSR_lt _ _ _ _ _ (by decide) (by have := toNat_bool_le w; omega))

theorem WordsFit.sra (w : Bool) (d : SReg) (a : SReg) (b : SReg) : WordsFit.Statement (.sra w d a b) :=
  words_one rfl (encSR_lt _ _ _ _ _ (by decide) (by have := toNat_bool_le w; omega))

theorem WordsFit.minI (w : Bool) (d : SReg) (a : SReg) (b : SReg) : WordsFit.Statement (.minI w d a b) :=
  words_one rfl (encSR_lt _ _ _ _ _ (by decide) (by have := toNat_bool_le w; omega))

theorem WordsFit.maxI (w : Bool) (d : SReg) (a : SReg) (b : SReg) : WordsFit.Statement (.maxI w d a b) :=
  words_one rfl (encSR_lt _ _ _ _ _ (by decide) (by have := toNat_bool_le w; omega))

theorem WordsFit.minN (w : Bool) (d : SReg) (a : SReg) (b : SReg) : WordsFit.Statement (.minN w d a b) :=
  words_one rfl (encSR_lt _ _ _ _ _ (by decide) (by have := toNat_bool_le w; omega))

theorem WordsFit.maxN (w : Bool) (d : SReg) (a : SReg) (b : SReg) : WordsFit.Statement (.maxN w d a b) :=
  words_one rfl (encSR_lt _ _ _ _ _ (by decide) (by have := toNat_bool_le w; omega))

theorem WordsFit.sltI (w : Bool) (d : SReg) (a : SReg) (b : SReg) : WordsFit.Statement (.sltI w d a b) :=
  words_one rfl (encSR_lt _ _ _ _ _ (by decide) (by have := toNat_bool_le w; omega))

theorem WordsFit.sltN (w : Bool) (d : SReg) (a : SReg) (b : SReg) : WordsFit.Statement (.sltN w d a b) :=
  words_one rfl (encSR_lt _ _ _ _ _ (by decide) (by have := toNat_bool_le w; omega))

theorem WordsFit.seq (w : Bool) (d : SReg) (a : SReg) (b : SReg) : WordsFit.Statement (.seq w d a b) :=
  words_one rfl (encSR_lt _ _ _ _ _ (by decide) (by have := toNat_bool_le w; omega))

theorem WordsFit.clz (w : Bool) (d : SReg) (a : SReg) : WordsFit.Statement (.clz w d a) :=
  words_one rfl (encSR_lt _ _ _ _ _ (by decide) (by have := toNat_bool_le w; omega))

theorem WordsFit.popc (w : Bool) (d : SReg) (a : SReg) : WordsFit.Statement (.popc w d a) :=
  words_one rfl (encSR_lt _ _ _ _ _ (by decide) (by have := toNat_bool_le w; omega))

theorem WordsFit.addi (d : SReg) (a : SReg) (i : BitVec 14) : WordsFit.Statement (.addi d a i) :=
  words_one rfl (encSI_lt _ _ _ _ (by decide) (by have := i.isLt; omega))

theorem WordsFit.andi (d : SReg) (a : SReg) (i : BitVec 14) : WordsFit.Statement (.andi d a i) :=
  words_one rfl (encSI_lt _ _ _ _ (by decide) (by have := i.isLt; omega))

theorem WordsFit.ori (d : SReg) (a : SReg) (i : BitVec 14) : WordsFit.Statement (.ori d a i) :=
  words_one rfl (encSI_lt _ _ _ _ (by decide) (by have := i.isLt; omega))

theorem WordsFit.xori (d : SReg) (a : SReg) (i : BitVec 14) : WordsFit.Statement (.xori d a i) :=
  words_one rfl (encSI_lt _ _ _ _ (by decide) (by have := i.isLt; omega))

theorem WordsFit.shli (d : SReg) (a : SReg) (n : BitVec 6) : WordsFit.Statement (.shli d a n) :=
  words_one rfl (encSI_lt _ _ _ _ (by decide) (by have := n.isLt; omega))

theorem WordsFit.shri (d : SReg) (a : SReg) (n : BitVec 6) : WordsFit.Statement (.shri d a n) :=
  words_one rfl (encSI_lt _ _ _ _ (by decide) (by have := n.isLt; omega))

theorem WordsFit.srai (d : SReg) (a : SReg) (n : BitVec 6) : WordsFit.Statement (.srai d a n) :=
  words_one rfl (encSI_lt _ _ _ _ (by decide) (by have := n.isLt; omega))

theorem WordsFit.rotli (d : SReg) (a : SReg) (n : BitVec 6) : WordsFit.Statement (.rotli d a n) :=
  words_one rfl (encSI_lt _ _ _ _ (by decide) (by have := n.isLt; omega))

theorem WordsFit.lui (d : SReg) (i : BitVec 20) : WordsFit.Statement (.lui d i) :=
  words_one rfl (by have := d.isLt; have := i.isLt; omega)

theorem WordsFit.lhi (d : SReg) (i : BitVec 20) : WordsFit.Statement (.lhi d i) :=
  words_one rfl (by have := d.isLt; have := i.isLt; omega)

theorem WordsFit.slti (d : SReg) (a : SReg) (i : BitVec 14) : WordsFit.Statement (.slti d a i) :=
  words_one rfl (encSI_lt _ _ _ _ (by decide) (by have := i.isLt; omega))

theorem WordsFit.fadd (d : SReg) (a : SReg) (b : SReg) : WordsFit.Statement (.fadd d a b) :=
  words_one rfl (encSR_lt _ _ _ _ _ (by decide) (by decide))

theorem WordsFit.fsub (d : SReg) (a : SReg) (b : SReg) : WordsFit.Statement (.fsub d a b) :=
  words_one rfl (encSR_lt _ _ _ _ _ (by decide) (by decide))

theorem WordsFit.fmul (d : SReg) (a : SReg) (b : SReg) : WordsFit.Statement (.fmul d a b) :=
  words_one rfl (encSR_lt _ _ _ _ _ (by decide) (by decide))

theorem WordsFit.fmac (d : SReg) (a : SReg) (b : SReg) : WordsFit.Statement (.fmac d a b) :=
  words_one rfl (encSR_lt _ _ _ _ _ (by decide) (by decide))

theorem WordsFit.fmin (d : SReg) (a : SReg) (b : SReg) : WordsFit.Statement (.fmin d a b) :=
  words_one rfl (encSR_lt _ _ _ _ _ (by decide) (by decide))

theorem WordsFit.fmax (d : SReg) (a : SReg) (b : SReg) : WordsFit.Statement (.fmax d a b) :=
  words_one rfl (encSR_lt _ _ _ _ _ (by decide) (by decide))

theorem WordsFit.fsqrt (d : SReg) (a : SReg) : WordsFit.Statement (.fsqrt d a) :=
  words_one rfl (encSR_lt _ _ _ _ _ (by decide) (by decide))

theorem WordsFit.fdiv (d : SReg) (a : SReg) (b : SReg) : WordsFit.Statement (.fdiv d a b) :=
  words_one rfl (encSR_lt _ _ _ _ _ (by decide) (by decide))

theorem WordsFit.fcvtI (d : SReg) (a : SReg) : WordsFit.Statement (.fcvtI d a) :=
  words_one rfl (encSR_lt _ _ _ _ _ (by decide) (by decide))

theorem WordsFit.icvtF (d : SReg) (a : SReg) : WordsFit.Statement (.icvtF d a) :=
  words_one rfl (encSR_lt _ _ _ _ _ (by decide) (by decide))

theorem WordsFit.flt (d : SReg) (a : SReg) (b : SReg) : WordsFit.Statement (.flt d a b) :=
  words_one rfl (encSR_lt _ _ _ _ _ (by decide) (by decide))

theorem WordsFit.feq (d : SReg) (a : SReg) (b : SReg) : WordsFit.Statement (.feq d a b) :=
  words_one rfl (encSR_lt _ _ _ _ _ (by decide) (by decide))

theorem WordsFit.ld (n : BitVec 2) (t : SReg) (a : SReg) (m : SMode) : WordsFit.Statement (.ld n t a m) :=
  words_one rfl (encSM_lt _ _ _ _ _ (by decide))

theorem WordsFit.ldx (n : BitVec 2) (t : SReg) (a : SReg) (m : SMode) : WordsFit.Statement (.ldx n t a m) :=
  words_one rfl (encSM_lt _ _ _ _ _ (by decide))

theorem WordsFit.st (n : BitVec 2) (t : SReg) (a : SReg) (m : SMode) : WordsFit.Statement (.st n t a m) :=
  words_one rfl (encSM_lt _ _ _ _ _ (by decide))

theorem WordsFit.br (c : BrCond) (a : SReg) (b : SReg) (off : BitVec 11) : WordsFit.Statement (.br c a b off) :=
  words_one rfl (by have := condCode_lt c; have := a.isLt; have := b.isLt; have := off.isLt; omega)

theorem WordsFit.jmp (off : BitVec 26) : WordsFit.Statement (.jmp off) :=
  words_one rfl (by have := off.isLt; omega)

theorem WordsFit.call (off : BitVec 26) : WordsFit.Statement (.call off) :=
  words_one rfl (by have := off.isLt; omega)

theorem WordsFit.jr (a : SReg) : WordsFit.Statement (.jr a) :=
  words_one rfl (encSR_lt _ _ _ _ _ (by decide) (by decide))

theorem WordsFit.ret : WordsFit.Statement (.ret) :=
  words_one rfl (encSR_lt _ _ _ _ _ (by decide) (by decide))

theorem WordsFit.dcall (a : SReg) : WordsFit.Statement (.dcall a) :=
  words_one rfl (encSR_lt _ _ _ _ _ (by decide) (by decide))

theorem WordsFit.djmp (a : SReg) : WordsFit.Statement (.djmp a) :=
  words_one rfl (encSR_lt _ _ _ _ _ (by decide) (by decide))

theorem WordsFit.lrun (g : GuardSel) (off : BitVec 21) : WordsFit.Statement (.lrun g off) :=
  words_one rfl (by have := guardCode_lt g; have := off.isLt; omega)

theorem WordsFit.gset (n : BitVec 4) (a : SReg) : WordsFit.Statement (.gset n a) :=
  words_one rfl (by have := n.isLt; have := a.isLt; omega)

theorem WordsFit.gnot (n : BitVec 4) (a : SReg) : WordsFit.Statement (.gnot n a) :=
  words_one rfl (by have := n.isLt; have := a.isLt; omega)

theorem WordsFit.gfree (n : BitVec 4) : WordsFit.Statement (.gfree n) :=
  words_one rfl (by have := n.isLt; omega)

theorem WordsFit.mld (g : GuardSel) (a : SReg) : WordsFit.Statement (.mld g a) :=
  words_one rfl (encSC_lt _ _ _ _ _ (by decide) (by decide))

theorem WordsFit.mldPair (g : GuardSel) (a : SReg) : WordsFit.Statement (.mldPair g a) :=
  words_one rfl (encSC_lt _ _ _ _ _ (by decide) (by decide))

theorem WordsFit.mmul (g : GuardSel) (a : SReg) : WordsFit.Statement (.mmul g a) :=
  words_one rfl (encSC_lt _ _ _ _ _ (by decide) (by decide))

theorem WordsFit.mmt (g : GuardSel) (a : SReg) : WordsFit.Statement (.mmt g a) :=
  words_one rfl (encSC_lt _ _ _ _ _ (by decide) (by decide))

theorem WordsFit.mfence (g : GuardSel) (a : SReg) (b : SReg) : WordsFit.Statement (.mfence g a b) :=
  words_one rfl (encSC_lt _ _ _ _ _ (by decide) (by decide))

theorem WordsFit.mrel (g : GuardSel) : WordsFit.Statement (.mrel g) :=
  words_one rfl (encSC_lt _ _ _ _ _ (by decide) (by decide))

theorem WordsFit.ofence (g : GuardSel) : WordsFit.Statement (.ofence g) :=
  words_one rfl (encSC_lt _ _ _ _ _ (by decide) (by decide))

theorem WordsFit.cpt (g : GuardSel) (a : SReg) (b : SReg) : WordsFit.Statement (.cpt g a b) :=
  words_one rfl (encSC_lt _ _ _ _ _ (by decide) (by decide))

theorem WordsFit.cptIdx (g : GuardSel) (a : SReg) (b : SReg) : WordsFit.Statement (.cptIdx g a b) :=
  words_one rfl (encSC_lt _ _ _ _ _ (by decide) (by decide))

theorem WordsFit.cptWs (g : GuardSel) (a : SReg) (b : SReg) : WordsFit.Statement (.cptWs g a b) :=
  words_one rfl (encSC_lt _ _ _ _ _ (by decide) (by decide))

theorem WordsFit.cptP (g : GuardSel) (a : SReg) (b : SReg) : WordsFit.Statement (.cptP g a b) :=
  words_one rfl (encSC_lt _ _ _ _ _ (by decide) (by decide))

theorem WordsFit.pbar (g : GuardSel) (b : SReg) : WordsFit.Statement (.pbar g b) :=
  words_one rfl (encSC_lt _ _ _ _ _ (by decide) (by decide))

theorem WordsFit.xmar (g : GuardSel) (a : SReg) (b : SReg) : WordsFit.Statement (.xmar g a b) :=
  words_one rfl (encSC_lt _ _ _ _ _ (by decide) (by decide))

theorem WordsFit.xred (g : GuardSel) (a : SReg) (b : SReg) : WordsFit.Statement (.xred g a b) :=
  words_one rfl (encSC_lt _ _ _ _ _ (by decide) (by decide))

theorem WordsFit.xnorm (g : GuardSel) (a : SReg) (b : SReg) : WordsFit.Statement (.xnorm g a b) :=
  words_one rfl (encSC_lt _ _ _ _ _ (by decide) (by decide))

theorem WordsFit.xbar (g : GuardSel) (a : SReg) (b : SReg) : WordsFit.Statement (.xbar g a b) :=
  words_one rfl (encSC_lt _ _ _ _ _ (by decide) (by decide))

theorem WordsFit.fenceRel (sc : Scope) : WordsFit.Statement (.fenceRel sc) :=
  words_one rfl (by have := scopeCode_lt sc; omega)

theorem WordsFit.fenceAcq (sc : Scope) : WordsFit.Statement (.fenceAcq sc) :=
  words_one rfl (by have := scopeCode_lt sc; omega)

theorem WordsFit.fenceAr (sc : Scope) : WordsFit.Statement (.fenceAr sc) :=
  words_one rfl (by have := scopeCode_lt sc; omega)

theorem WordsFit.binit (a : SReg) (b : SReg) : WordsFit.Statement (.binit a b) :=
  words_one rfl (encSR_lt _ _ _ _ _ (by decide) (by decide))

theorem WordsFit.bexp (a : SReg) (b : SReg) : WordsFit.Statement (.bexp a b) :=
  words_one rfl (encSR_lt _ _ _ _ _ (by decide) (by decide))

theorem WordsFit.barr (d : SReg) (a : SReg) : WordsFit.Statement (.barr d a) :=
  words_one rfl (encSR_lt _ _ _ _ _ (by decide) (by decide))

theorem WordsFit.bwait (a : SReg) (b : SReg) : WordsFit.Statement (.bwait a b) :=
  words_one rfl (encSR_lt _ _ _ _ _ (by decide) (by decide))

theorem WordsFit.btest (d : SReg) (a : SReg) (b : SReg) : WordsFit.Statement (.btest d a b) :=
  words_one rfl (encSR_lt _ _ _ _ _ (by decide) (by decide))

theorem WordsFit.rndReg (d : SReg) (a : SReg) (b : SReg) : WordsFit.Statement (.rndReg d a b) :=
  words_one rfl (encSR_lt _ _ _ _ _ (by decide) (by decide))

theorem WordsFit.rndAdv (a : SReg) (b : SReg) : WordsFit.Statement (.rndAdv a b) :=
  words_one rfl (encSR_lt _ _ _ _ _ (by decide) (by decide))

theorem WordsFit.rndGet (d : SReg) (a : SReg) : WordsFit.Statement (.rndGet d a) :=
  words_one rfl (encSR_lt _ _ _ _ _ (by decide) (by decide))

theorem WordsFit.rndFlr (d : SReg) (a : SReg) (b : SReg) : WordsFit.Statement (.rndFlr d a b) :=
  words_one rfl (encSR_lt _ _ _ _ _ (by decide) (by decide))

theorem WordsFit.csrr (d : SReg) (n : BitVec 14) : WordsFit.Statement (.csrr d n) :=
  words_one rfl (encSI_lt _ _ _ _ (by decide) (by have := n.isLt; omega))

theorem WordsFit.csrwSempty (a : SReg) : WordsFit.Statement (.csrwSempty a) :=
  words_one rfl (encSI_lt _ _ _ _ (by decide) (by decide))

theorem WordsFit.csrwCgseed (a : SReg) : WordsFit.Statement (.csrwCgseed a) :=
  words_one rfl (encSI_lt _ _ _ _ (by decide) (by decide))

theorem WordsFit.csrwOvfl (a : SReg) : WordsFit.Statement (.csrwOvfl a) :=
  words_one rfl (encSI_lt _ _ _ _ (by decide) (by decide))

theorem WordsFit.csrwNval (a : SReg) : WordsFit.Statement (.csrwNval a) :=
  words_one rfl (encSI_lt _ _ _ _ (by decide) (by decide))

theorem WordsFit.csrwMod (m : BitVec 3) (a : SReg) : WordsFit.Statement (.csrwMod m a) :=
  words_one rfl (encSI_lt _ _ _ _ (by decide) (by have := m.isLt; omega))

theorem WordsFit.trap (a : SReg) : WordsFit.Statement (.trap a) :=
  words_one rfl (encSR_lt _ _ _ _ _ (by decide) (by decide))

theorem WordsFit.eret : WordsFit.Statement (.eret) :=
  words_one rfl (encSR_lt _ _ _ _ _ (by decide) (by decide))

theorem WordsFit.eretTo (a : SReg) : WordsFit.Statement (.eretTo a) :=
  words_one rfl (encSR_lt _ _ _ _ _ (by decide) (by decide))

theorem WordsFit.yield : WordsFit.Statement (.yield) :=
  words_one rfl (encSR_lt _ _ _ _ _ (by decide) (by decide))

theorem WordsFit.exit : WordsFit.Statement (.exit) :=
  words_one rfl (encSR_lt _ _ _ _ _ (by decide) (by decide))

theorem WordsFit.klaunch (d : SReg) (a : SReg) : WordsFit.Statement (.klaunch d a) :=
  words_one rfl (encSR_lt _ _ _ _ _ (by decide) (by decide))

theorem WordsFit.rgn : WordsFit.Statement (.rgn) :=
  words_one rfl (encSR_lt _ _ _ _ _ (by decide) (by decide))

theorem WordsFit.nop : WordsFit.Statement (.nop) :=
  words_one rfl (encSR_lt _ _ _ _ _ (by decide) (by decide))

theorem WordsFit.evset (n : BitVec 2) (a : SReg) : WordsFit.Statement (.evset n a) :=
  words_one rfl (by have := n.isLt; have := a.isLt; omega)

theorem WordsFit.lAdd (f : LF) : WordsFit.Statement (.lAdd f) := words_three rfl rfl (by decide)

theorem WordsFit.lSub (f : LF) : WordsFit.Statement (.lSub f) := words_three rfl rfl (by decide)

theorem WordsFit.lMul (f : LF) : WordsFit.Statement (.lMul f) := words_three rfl rfl (by decide)

theorem WordsFit.lMulhi (f : LF) : WordsFit.Statement (.lMulhi f) := words_three rfl rfl (by decide)

theorem WordsFit.lMad (f : LF) : WordsFit.Statement (.lMad f) := words_three rfl rfl (by decide)

theorem WordsFit.lMadw (f : LF) : WordsFit.Statement (.lMadw f) := words_three rfl rfl (by decide)

theorem WordsFit.lAnd (f : LF) : WordsFit.Statement (.lAnd f) := words_three rfl rfl (by decide)

theorem WordsFit.lOr (f : LF) : WordsFit.Statement (.lOr f) := words_three rfl rfl (by decide)

theorem WordsFit.lXor (f : LF) : WordsFit.Statement (.lXor f) := words_three rfl rfl (by decide)

theorem WordsFit.lAndn (f : LF) : WordsFit.Statement (.lAndn f) := words_three rfl rfl (by decide)

theorem WordsFit.lShl (f : LF) : WordsFit.Statement (.lShl f) := words_three rfl rfl (by decide)

theorem WordsFit.lShr (f : LF) : WordsFit.Statement (.lShr f) := words_three rfl rfl (by decide)

theorem WordsFit.lRotl (f : LF) : WordsFit.Statement (.lRotl f) := words_three rfl rfl (by decide)

theorem WordsFit.lMin (f : LF) : WordsFit.Statement (.lMin f) := words_three rfl rfl (by decide)

theorem WordsFit.lMax (f : LF) : WordsFit.Statement (.lMax f) := words_three rfl rfl (by decide)

theorem WordsFit.lAbs (f : LF) : WordsFit.Statement (.lAbs f) := words_three rfl rfl (by decide)

theorem WordsFit.lPopc (f : LF) : WordsFit.Statement (.lPopc f) := words_three rfl rfl (by decide)

theorem WordsFit.lClz (f : LF) : WordsFit.Statement (.lClz f) := words_three rfl rfl (by decide)

theorem WordsFit.lBrev (f : LF) : WordsFit.Statement (.lBrev f) := words_three rfl rfl (by decide)

theorem WordsFit.lBfe (f : LF) : WordsFit.Statement (.lBfe f) := words_three rfl rfl (by decide)

theorem WordsFit.lBfi (f : LF) : WordsFit.Statement (.lBfi f) := words_three rfl rfl (by decide)

theorem WordsFit.lMov (f : LF) : WordsFit.Statement (.lMov f) := words_three rfl rfl (by decide)

theorem WordsFit.lSel (f : LF) : WordsFit.Statement (.lSel f) := words_three rfl rfl (by decide)

theorem WordsFit.lSreg (f : LF) : WordsFit.Statement (.lSreg f) := words_three rfl rfl (by decide)

theorem WordsFit.lDp4 (f : LF) : WordsFit.Statement (.lDp4 f) := words_three rfl rfl (by decide)

theorem WordsFit.lDiv (f : LF) : WordsFit.Statement (.lDiv f) := words_three rfl rfl (by decide)

theorem WordsFit.lRem (f : LF) : WordsFit.Statement (.lRem f) := words_three rfl rfl (by decide)

theorem WordsFit.lCmp (f : LF) : WordsFit.Statement (.lCmp f) := words_three rfl rfl (by decide)

theorem WordsFit.lPand (f : LF) : WordsFit.Statement (.lPand f) := words_three rfl rfl (by decide)

theorem WordsFit.lPor (f : LF) : WordsFit.Statement (.lPor f) := words_three rfl rfl (by decide)

theorem WordsFit.lPxor (f : LF) : WordsFit.Statement (.lPxor f) := words_three rfl rfl (by decide)

theorem WordsFit.lPnot (f : LF) : WordsFit.Statement (.lPnot f) := words_three rfl rfl (by decide)

theorem WordsFit.lPtov (f : LF) : WordsFit.Statement (.lPtov f) := words_three rfl rfl (by decide)

theorem WordsFit.lVtop (f : LF) : WordsFit.Statement (.lVtop f) := words_three rfl rfl (by decide)

theorem WordsFit.lPset (f : LF) : WordsFit.Statement (.lPset f) := words_three rfl rfl (by decide)

theorem WordsFit.lBra (f : LF) : WordsFit.Statement (.lBra f) := words_three rfl rfl (by decide)

theorem WordsFit.lCall (f : LF) : WordsFit.Statement (.lCall f) := words_three rfl rfl (by decide)

theorem WordsFit.lRet (f : LF) : WordsFit.Statement (.lRet f) := words_three rfl rfl (by decide)

theorem WordsFit.lDcall (f : LF) : WordsFit.Statement (.lDcall f) := words_three rfl rfl (by decide)

theorem WordsFit.lDjmp (f : LF) : WordsFit.Statement (.lDjmp f) := words_three rfl rfl (by decide)

theorem WordsFit.lLend (f : LF) : WordsFit.Statement (.lLend f) := words_three rfl rfl (by decide)

theorem WordsFit.lDemote (f : LF) : WordsFit.Statement (.lDemote f) := words_three rfl rfl (by decide)

theorem WordsFit.lExit (f : LF) : WordsFit.Statement (.lExit f) := words_three rfl rfl (by decide)

theorem WordsFit.lBarr (f : LF) : WordsFit.Statement (.lBarr f) := words_three rfl rfl (by decide)

theorem WordsFit.lBwait (f : LF) : WordsFit.Statement (.lBwait f) := words_three rfl rfl (by decide)

theorem WordsFit.lFence (f : LF) : WordsFit.Statement (.lFence f) := words_three rfl rfl (by decide)

theorem WordsFit.lRgn (f : LF) : WordsFit.Statement (.lRgn f) := words_three rfl rfl (by decide)

theorem WordsFit.lTrap (f : LF) : WordsFit.Statement (.lTrap f) := words_three rfl rfl (by decide)

theorem WordsFit.lNop (f : LF) : WordsFit.Statement (.lNop f) := words_three rfl rfl (by decide)

theorem WordsFit.lRegang (f : LF) : WordsFit.Statement (.lRegang f) := words_three rfl rfl (by decide)

theorem WordsFit.lFadd (f : LF) : WordsFit.Statement (.lFadd f) := words_three rfl rfl (by decide)

theorem WordsFit.lFsub (f : LF) : WordsFit.Statement (.lFsub f) := words_three rfl rfl (by decide)

theorem WordsFit.lFmul (f : LF) : WordsFit.Statement (.lFmul f) := words_three rfl rfl (by decide)

theorem WordsFit.lFma (f : LF) : WordsFit.Statement (.lFma f) := words_three rfl rfl (by decide)

theorem WordsFit.lFmin (f : LF) : WordsFit.Statement (.lFmin f) := words_three rfl rfl (by decide)

theorem WordsFit.lFmax (f : LF) : WordsFit.Statement (.lFmax f) := words_three rfl rfl (by decide)

theorem WordsFit.lFrcp (f : LF) : WordsFit.Statement (.lFrcp f) := words_three rfl rfl (by decide)

theorem WordsFit.lFrsqrt (f : LF) : WordsFit.Statement (.lFrsqrt f) := words_three rfl rfl (by decide)

theorem WordsFit.lFsqrt (f : LF) : WordsFit.Statement (.lFsqrt f) := words_three rfl rfl (by decide)

theorem WordsFit.lFdiv (f : LF) : WordsFit.Statement (.lFdiv f) := words_three rfl rfl (by decide)

theorem WordsFit.lFexp2 (f : LF) : WordsFit.Statement (.lFexp2 f) := words_three rfl rfl (by decide)

theorem WordsFit.lFlog2 (f : LF) : WordsFit.Statement (.lFlog2 f) := words_three rfl rfl (by decide)

theorem WordsFit.lFrint (f : LF) : WordsFit.Statement (.lFrint f) := words_three rfl rfl (by decide)

theorem WordsFit.lFcvtI (f : LF) : WordsFit.Statement (.lFcvtI f) := words_three rfl rfl (by decide)

theorem WordsFit.lIcvtF (f : LF) : WordsFit.Statement (.lIcvtF f) := words_three rfl rfl (by decide)

theorem WordsFit.lFscale (f : LF) : WordsFit.Statement (.lFscale f) := words_three rfl rfl (by decide)

theorem WordsFit.lFclass (f : LF) : WordsFit.Statement (.lFclass f) := words_three rfl rfl (by decide)

theorem WordsFit.lHadd2 (f : LF) : WordsFit.Statement (.lHadd2 f) := words_three rfl rfl (by decide)

theorem WordsFit.lHmul2 (f : LF) : WordsFit.Statement (.lHmul2 f) := words_three rfl rfl (by decide)

theorem WordsFit.lHfma2 (f : LF) : WordsFit.Statement (.lHfma2 f) := words_three rfl rfl (by decide)

theorem WordsFit.lCvt (f : LF) : WordsFit.Statement (.lCvt f) := words_three rfl rfl (by decide)

theorem WordsFit.lPack (f : LF) : WordsFit.Statement (.lPack f) := words_three rfl rfl (by decide)

theorem WordsFit.lUnpk (f : LF) : WordsFit.Statement (.lUnpk f) := words_three rfl rfl (by decide)

theorem WordsFit.lNqenc (f : LF) : WordsFit.Statement (.lNqenc f) := words_three rfl rfl (by decide)

theorem WordsFit.lNqdec (f : LF) : WordsFit.Statement (.lNqdec f) := words_three rfl rfl (by decide)

theorem WordsFit.lNqscl (f : LF) : WordsFit.Statement (.lNqscl f) := words_three rfl rfl (by decide)

theorem WordsFit.lRhash (f : LF) : WordsFit.Statement (.lRhash f) := words_three rfl rfl (by decide)

theorem WordsFit.lSrbits (f : LF) : WordsFit.Statement (.lSrbits f) := words_three rfl rfl (by decide)

theorem WordsFit.lXlane (f : LF) : WordsFit.Statement (.lXlane f) := words_three rfl rfl (by decide)

theorem WordsFit.lCanvass (f : LF) : WordsFit.Statement (.lCanvass f) := words_three rfl rfl (by decide)

theorem WordsFit.lRdc (f : LF) : WordsFit.Statement (.lRdc f) := words_three rfl rfl (by decide)

theorem WordsFit.lRdcx (f : LF) : WordsFit.Statement (.lRdcx f) := words_three rfl rfl (by decide)

theorem WordsFit.lScan (f : LF) : WordsFit.Statement (.lScan f) := words_three rfl rfl (by decide)

theorem WordsFit.lVtos (f : LF) : WordsFit.Statement (.lVtos f) := words_three rfl rfl (by decide)

theorem WordsFit.lBcast (f : LF) : WordsFit.Statement (.lBcast f) := words_three rfl rfl (by decide)

theorem WordsFit.lLd (f : LF) : WordsFit.Statement (.lLd f) := words_three rfl rfl (by decide)

theorem WordsFit.lSt (f : LF) : WordsFit.Statement (.lSt f) := words_three rfl rfl (by decide)

theorem WordsFit.lLds (f : LF) : WordsFit.Statement (.lLds f) := words_three rfl rfl (by decide)

theorem WordsFit.lSts (f : LF) : WordsFit.Statement (.lSts f) := words_three rfl rfl (by decide)

theorem WordsFit.lLdb (f : LF) : WordsFit.Statement (.lLdb f) := words_three rfl rfl (by decide)

theorem WordsFit.lLdacq (f : LF) : WordsFit.Statement (.lLdacq f) := words_three rfl rfl (by decide)

theorem WordsFit.lStrel (f : LF) : WordsFit.Statement (.lStrel f) := words_three rfl rfl (by decide)

theorem WordsFit.lLdws (f : LF) : WordsFit.Statement (.lLdws f) := words_three rfl rfl (by decide)

theorem WordsFit.lLdcl (f : LF) : WordsFit.Statement (.lLdcl f) := words_three rfl rfl (by decide)

theorem WordsFit.lStcl (f : LF) : WordsFit.Statement (.lStcl f) := words_three rfl rfl (by decide)

theorem WordsFit.lAtom (f : LF) : WordsFit.Statement (.lAtom f) := words_three rfl rfl (by decide)

theorem WordsFit.lAcas (f : LF) : WordsFit.Statement (.lAcas f) := words_three rfl rfl (by decide)

theorem WordsFit.lApush (f : LF) : WordsFit.Statement (.lApush f) := words_three rfl rfl (by decide)

theorem WordsFit.lCpl (f : LF) : WordsFit.Statement (.lCpl f) := words_three rfl rfl (by decide)

theorem WordsFit.lSpatom (f : LF) : WordsFit.Statement (.lSpatom f) := words_three rfl rfl (by decide)

theorem WordsFit.illegalInstruction (word : Word) : WordsFit.Statement (.illegalInstruction word) := words_none rfl rfl

theorem WordsFit.illegalLaneInstruction (w0 : Word) (w1 : Word) (w2 : Word) : WordsFit.Statement (.illegalLaneInstruction w0 w1 w2) := words_none rfl rfl

theorem WordsFit.packageReset : WordsFit.Statement .packageReset := words_none rfl rfl

theorem WordsFit.powerFailure : WordsFit.Statement .powerFailure := words_none rfl rfl

theorem WordsFit.hostLinkTraining (width : Nat) (rate : Nat) (flit : Bool) (cxlIo : Bool) (cxlCache : Bool) (cxlMem : Bool) (ide : Bool) : WordsFit.Statement (.hostLinkTraining width rate flit cxlIo cxlCache cxlMem ide) := words_none rfl rfl

theorem WordsFit.hostBar2Request (off : BitVec 36) (rw : HostRw) : WordsFit.Statement (.hostBar2Request off rw) := words_none rfl rfl

theorem WordsFit.hostCxlMemRequest (x : Nat) (rw : HostRw) : WordsFit.Statement (.hostCxlMemRequest x rw) := words_none rfl rfl

theorem WordsFit.hostCxlCacheSnoop (pa : Nat) (bytes : Option (List Byte)) : WordsFit.Statement (.hostCxlCacheSnoop pa bytes) := words_none rfl rfl

theorem WordsFit.globalPersistentFlush : WordsFit.Statement .globalPersistentFlush := words_none rfl rfl

theorem WordsFit.gpfComplete : WordsFit.Statement .gpfComplete := words_none rfl rfl

theorem WordsFit.hwinWrite (v : DWord) : WordsFit.Statement (.hwinWrite v) := words_none rfl rfl

theorem WordsFit.loadFirmware : WordsFit.Statement .loadFirmware := words_none rfl rfl

theorem WordsFit.attest : WordsFit.Statement .attest := words_none rfl rfl

theorem WordsFit.setContextWorld : WordsFit.Statement .setContextWorld := words_none rfl rfl

theorem WordsFit.setWindow : WordsFit.Statement .setWindow := words_none rfl rfl

theorem WordsFit.retry : WordsFit.Statement .retry := words_none rfl rfl

theorem WordsFit.continue : WordsFit.Statement .continue := words_none rfl rfl

theorem WordsFit.kill : WordsFit.Statement .kill := words_none rfl rfl

theorem WordsFit.deliver : WordsFit.Statement .deliver := words_none rfl rfl

theorem WordsFit.mailboxRequestEnd : WordsFit.Statement .mailboxRequestEnd := words_none rfl rfl

theorem WordsFit.contextEnable (c : BitVec 6) : WordsFit.Statement (.contextEnable c) := words_none rfl rfl

theorem WordsFit.contextDisable (c : BitVec 6) : WordsFit.Statement (.contextDisable c) := words_none rfl rfl

theorem WordsFit.genbump (c : BitVec 6) : WordsFit.Statement (.genbump c) := words_none rfl rfl

theorem WordsFit.genbumpCoreAdopt (c : BitVec 6) (core : CoreKey) : WordsFit.Statement (.genbumpCoreAdopt c core) := words_none rfl rfl

theorem WordsFit.genbumpCoreReport (c : BitVec 6) (core : CoreKey) : WordsFit.Statement (.genbumpCoreReport c core) := words_none rfl rfl

theorem WordsFit.genbumpPhase2 (c : BitVec 6) : WordsFit.Statement (.genbumpPhase2 c) := words_none rfl rfl

theorem WordsFit.tailWrite (c : BitVec 6) (q : BitVec 3) (v : Word) : WordsFit.Statement (.tailWrite c q v) := words_none rfl rfl

theorem WordsFit.cqheadWrite (c : BitVec 6) (v : Word) : WordsFit.Statement (.cqheadWrite c v) := words_none rfl rfl

theorem WordsFit.cqerrClear (c : BitVec 6) : WordsFit.Statement (.cqerrClear c) := words_none rfl rfl

theorem WordsFit.evsetWrite (c : BitVec 6) (v : BitVec 256) : WordsFit.Statement (.evsetWrite c v) := words_none rfl rfl

theorem WordsFit.evclrWrite (c : BitVec 6) (v : BitVec 256) : WordsFit.Statement (.evclrWrite c v) := words_none rfl rfl

theorem WordsFit.arm : WordsFit.Statement .arm := words_none rfl rfl

theorem WordsFit.stepload (x : DWord) : WordsFit.Statement (.stepload x) := words_none rfl rfl

theorem WordsFit.optload (x : DWord) : WordsFit.Statement (.optload x) := words_none rfl rfl

theorem WordsFit.recoveryGo : WordsFit.Statement .recoveryGo := words_none rfl rfl

theorem WordsFit.registerWrite (r : HostReg) (v : DWord) : WordsFit.Statement (.registerWrite r v) := words_none rfl rfl

theorem WordsFit.queueSlotRead (c : BitVec 6) (q : BitVec 3) : WordsFit.Statement (.queueSlotRead c q) := words_none rfl rfl

theorem WordsFit.kernelQueueTake (c : BitVec 6) : WordsFit.Statement (.kernelQueueTake c) := words_none rfl rfl

theorem WordsFit.launchStart (c : BitVec 6) (q : BitVec 4) : WordsFit.Statement (.launchStart c q) := words_none rfl rfl

theorem WordsFit.ageingStep (launch : Nat) : WordsFit.Statement (.ageingStep launch) := words_none rfl rfl

theorem WordsFit.clusterPlace (launch : Nat) (die : Nat) (col : Nat) (row : Nat) : WordsFit.Statement (.clusterPlace launch die col row) := words_none rfl rfl

theorem WordsFit.placementReservation (launch : Nat) : WordsFit.Statement (.placementReservation launch) := words_none rfl rfl

theorem WordsFit.preempt (launch : Nat) (victim : Nat) (cluster : Nat) : WordsFit.Statement (.preempt launch victim cluster) := words_none rfl rfl

theorem WordsFit.preemptSave (launch : Nat) (cluster : Nat) : WordsFit.Statement (.preemptSave launch cluster) := words_none rfl rfl

theorem WordsFit.clusterResume (launch : Nat) (cluster : Nat) (die : Nat) (col : Nat) (row : Nat) : WordsFit.Statement (.clusterResume launch cluster die col row) := words_none rfl rfl

theorem WordsFit.dieRenumber (die : Nat) : WordsFit.Statement (.dieRenumber die) := words_none rfl rfl

theorem WordsFit.launchComplete (launch : Nat) : WordsFit.Statement (.launchComplete launch) := words_none rfl rfl

theorem WordsFit.groupRetire (gid : Nat) : WordsFit.Statement (.groupRetire gid) := words_none rfl rfl

theorem WordsFit.producerLand (id : Nat) : WordsFit.Statement (.producerLand id) := words_none rfl rfl

theorem WordsFit.quarantineLeave (gid : Nat) : WordsFit.Statement (.quarantineLeave gid) := words_none rfl rfl

theorem WordsFit.l1WriteBack (core : CoreKey) (line : Nat) (evict : Bool) : WordsFit.Statement (.l1WriteBack core line evict) := words_none rfl rfl

theorem WordsFit.pageWalk (core : CoreKey) (c : BitVec 6) (ea : DWord) : WordsFit.Statement (.pageWalk core c ea) := words_none rfl rfl

theorem WordsFit.lateFault (id : Nat) (lane : Nat) : WordsFit.Statement (.lateFault id lane) := words_none rfl rfl

theorem WordsFit.staleGenerationReject (id : Nat) (lane : Nat) : WordsFit.Statement (.staleGenerationReject id lane) := words_none rfl rfl

theorem WordsFit.staleGenerationReissue (gid : Nat) : WordsFit.Statement (.staleGenerationReissue gid) := words_none rfl rfl

theorem WordsFit.barrierHang (gid : Nat) : WordsFit.Statement (.barrierHang gid) := words_none rfl rfl

theorem WordsFit.roundHang (gid : Nat) : WordsFit.Statement (.roundHang gid) := words_none rfl rfl

theorem WordsFit.yieldExpiry (gid : Nat) : WordsFit.Statement (.yieldExpiry gid) := words_none rfl rfl

theorem WordsFit.regangTimeout (gid : Nat) (pc : Word) (depth : Nat) : WordsFit.Statement (.regangTimeout gid pc depth) := words_none rfl rfl

theorem WordsFit.gfreeRelease (gid : Nat) : WordsFit.Statement (.gfreeRelease gid) := words_none rfl rfl

theorem WordsFit.releaseComplete (id : Nat) : WordsFit.Statement (.releaseComplete id) := words_none rfl rfl

theorem WordsFit.rgnCheckpoint (gid : Nat) : WordsFit.Statement (.rgnCheckpoint gid) := words_none rfl rfl

theorem WordsFit.strike (core : CoreKey) : WordsFit.Statement (.strike core) := words_none rfl rfl

theorem WordsFit.strikeReplay (gid : Nat) : WordsFit.Statement (.strikeReplay gid) := words_none rfl rfl

theorem WordsFit.weightStoreRefresh (die : Nat) : WordsFit.Statement (.weightStoreRefresh die) := words_none rfl rfl

theorem WordsFit.weightStoreBankReturn (die : Nat) : WordsFit.Statement (.weightStoreBankReturn die) := words_none rfl rfl

theorem WordsFit.ncuOperation (op : NcuOp) : WordsFit.Statement (.ncuOperation op) := words_none rfl rfl

theorem WordsFit.activeMessage (id : Nat) : WordsFit.Statement (.activeMessage id) := words_none rfl rfl

theorem WordsFit.clusterScratchpadArrival (id : Nat) (lane : Nat) : WordsFit.Statement (.clusterScratchpadArrival id lane) := words_none rfl rfl

theorem WordsFit.remoteAccessArrival (id : Nat) : WordsFit.Statement (.remoteAccessArrival id) := words_none rfl rfl

theorem WordsFit.wbqAccept (granule : Nat) : WordsFit.Statement (.wbqAccept granule) := words_none rfl rfl

theorem WordsFit.laneBlockStart (gid : Nat) : WordsFit.Statement (.laneBlockStart gid) := words_none rfl rfl

theorem WordsFit.mldStart (gid : Nat) : WordsFit.Statement (.mldStart gid) := words_none rfl rfl

theorem WordsFit.mldPairStart (gid : Nat) : WordsFit.Statement (.mldPairStart gid) := words_none rfl rfl

theorem WordsFit.mmulStart (gid : Nat) : WordsFit.Statement (.mmulStart gid) := words_none rfl rfl

theorem WordsFit.mmtStart (gid : Nat) : WordsFit.Statement (.mmtStart gid) := words_none rfl rfl

theorem WordsFit.matrixAccumulation (id : Nat) (m : Nat) (o : Nat) : WordsFit.Statement (.matrixAccumulation id m o) := words_none rfl rfl

theorem WordsFit.batchComplete (gid : Nat) : WordsFit.Statement (.batchComplete gid) := words_none rfl rfl

theorem WordsFit.mrelStart (gid : Nat) : WordsFit.Statement (.mrelStart gid) := words_none rfl rfl

theorem WordsFit.ofenceStart (gid : Nat) : WordsFit.Statement (.ofenceStart gid) := words_none rfl rfl

theorem WordsFit.ofenceComplete (gid : Nat) : WordsFit.Statement (.ofenceComplete gid) := words_none rfl rfl

theorem WordsFit.cptStart (gid : Nat) : WordsFit.Statement (.cptStart gid) := words_none rfl rfl

theorem WordsFit.cptIdxStart (gid : Nat) : WordsFit.Statement (.cptIdxStart gid) := words_none rfl rfl

theorem WordsFit.cptWsStart (gid : Nat) : WordsFit.Statement (.cptWsStart gid) := words_none rfl rfl

theorem WordsFit.cptPStart (gid : Nat) : WordsFit.Statement (.cptPStart gid) := words_none rfl rfl

theorem WordsFit.copyElementLand (id : Nat) (j : Nat) (i : Nat) (e : Nat) (fetch : Bool) : WordsFit.Statement (.copyElementLand id j i e fetch) := words_none rfl rfl

theorem WordsFit.copyComplete (id : Nat) : WordsFit.Statement (.copyComplete id) := words_none rfl rfl

theorem WordsFit.pbarStart (gid : Nat) : WordsFit.Statement (.pbarStart gid) := words_none rfl rfl

theorem WordsFit.pbarComplete (gid : Nat) : WordsFit.Statement (.pbarComplete gid) := words_none rfl rfl

theorem WordsFit.barrierInitialise (id : Nat) : WordsFit.Statement (.barrierInitialise id) := words_none rfl rfl

theorem WordsFit.barrierArm (id : Nat) : WordsFit.Statement (.barrierArm id) := words_none rfl rfl

theorem WordsFit.laneArrival (id : Nat) : WordsFit.Statement (.laneArrival id) := words_none rfl rfl

theorem WordsFit.groupArrival (id : Nat) : WordsFit.Statement (.groupArrival id) := words_none rfl rfl

theorem WordsFit.barrierCredit (id : Nat) : WordsFit.Statement (.barrierCredit id) := words_none rfl rfl

theorem WordsFit.xmarStart (gid : Nat) : WordsFit.Statement (.xmarStart gid) := words_none rfl rfl

theorem WordsFit.xmarPieceArrival (id : Nat) (src : Nat) (index : Nat) : WordsFit.Statement (.xmarPieceArrival id src index) := words_none rfl rfl

theorem WordsFit.xredStart (gid : Nat) : WordsFit.Statement (.xredStart gid) := words_none rfl rfl

theorem WordsFit.xnormStart (gid : Nat) : WordsFit.Statement (.xnormStart gid) := words_none rfl rfl

theorem WordsFit.xnormResult (id : Nat) : WordsFit.Statement (.xnormResult id) := words_none rfl rfl

theorem WordsFit.xnormCommit (id : Nat) : WordsFit.Statement (.xnormCommit id) := words_none rfl rfl

theorem WordsFit.xbarStart (gid : Nat) : WordsFit.Statement (.xbarStart gid) := words_none rfl rfl

theorem WordsFit.collectiveComplete (id : Nat) : WordsFit.Statement (.collectiveComplete id) := words_none rfl rfl

theorem WordsFit.roundAdvance (c : BitVec 6) (region : BitVec 12) : WordsFit.Statement (.roundAdvance c region) := words_none rfl rfl

theorem WordsFit.roundAdopt (c : BitVec 6) (region : BitVec 12) (die : Nat) (slice : Nat) : WordsFit.Statement (.roundAdopt c region die slice) := words_none rfl rfl

theorem WordsFit.roundAdvanceCommit (c : BitVec 6) (region : BitVec 12) : WordsFit.Statement (.roundAdvanceCommit c region) := words_none rfl rfl

theorem WordsFit.ldbHeldServe (id : Nat) (lane : Nat) : WordsFit.Statement (.ldbHeldServe id lane) := words_none rfl rfl

theorem WordsFit.flitReceive (port : Nat) (good : Bool) (msg : FabricMsg) : WordsFit.Statement (.flitReceive port good msg) := words_none rfl rfl

theorem WordsFit.fabricLaneFailure (port : Nat) : WordsFit.Statement (.fabricLaneFailure port) := words_none rfl rfl

theorem WordsFit.fabricPortStateChange (port : Nat) (lanes : Nat) (up : Bool) (peer : Nat) (pport : Nat) : WordsFit.Statement (.fabricPortStateChange port lanes up peer pport) := words_none rfl rfl

theorem WordsFit.packageLost (how : LostHow) : WordsFit.Statement (.packageLost how) := words_none rfl rfl

theorem WordsFit.lehrCaptureStart (line : Nat) : WordsFit.Statement (.lehrCaptureStart line) := words_none rfl rfl

theorem WordsFit.lehrDrain : WordsFit.Statement .lehrDrain := words_none rfl rfl

theorem WordsFit.drainedMessage : WordsFit.Statement .drainedMessage := words_none rfl rfl

theorem WordsFit.lehrComplete : WordsFit.Statement .lehrComplete := words_none rfl rfl

theorem WordsFit.culletEncode (stripe : Nat) : WordsFit.Statement (.culletEncode stripe) := words_none rfl rfl

theorem WordsFit.culletProtect : WordsFit.Statement .culletProtect := words_none rfl rfl

theorem WordsFit.recoveryServe : WordsFit.Statement .recoveryServe := words_none rfl rfl

theorem WordsFit.stripeRebuild (stripe : Nat) (fragments : List (Nat × List Byte)) : WordsFit.Statement (.stripeRebuild stripe fragments) := words_none rfl rfl

theorem WordsFit.rebuildDone : WordsFit.Statement .rebuildDone := words_none rfl rfl

theorem WordsFit.registerEccError (target : EccTarget) : WordsFit.Statement (.registerEccError target) := words_none rfl rfl

theorem WordsFit.patrolScrub (word : Nat) : WordsFit.Statement (.patrolScrub word) := words_none rfl rfl

theorem WordsFit.coreRetire (core : CoreKey) : WordsFit.Statement (.coreRetire core) := words_none rfl rfl

theorem WordsFit.l2SliceFailure (die : Nat) (slice : Nat) : WordsFit.Statement (.l2SliceFailure die slice) := words_none rfl rfl

theorem WordsFit.slice480Switch (die : Nat) : WordsFit.Statement (.slice480Switch die) := words_none rfl rfl

theorem WordsFit.pseudoChannelFailure (stack : Nat) (lines : List Nat) : WordsFit.Statement (.pseudoChannelFailure stack lines) := words_none rfl rfl

theorem WordsFit.dieLoss (die : Nat) : WordsFit.Statement (.dieLoss die) := words_none rfl rfl

theorem WordsFit.retirementTableUpdate : WordsFit.Statement .retirementTableUpdate := words_none rfl rfl

end Sys2Proof.Laws
end

