-- ==== Sys2Proof/Machine/HostRead.lean ====
section
/-!
DEFINITION. What the host reads in the configuration window (R13, R35 to R47, R53, R329, R356, R403, R404, R414): the capability list and
the context blocks, word by word. A read changes nothing, so it is no step.
-/
namespace Sys2Proof.Machine

/-- A 64-bit word made of fields (value, lowest bit). -/
def wordOf (xs : List (Nat × Nat)) : DWord := dw (xs.foldl (fun a x => a + x.1 * 2 ^ x.2) 0)

/-- The capabilities that are present (R38), in ascending order; whether the package belongs to an erasure group is not for the host to read elsewhere
(log 80). -/
def State.capIds (s : State) : List Nat :=
  [1, 2, 3, 4, 5, 6, 7] ++ (if s.hport.cxlMem then [8] else []) ++ (if s.ports.any fun p => p.2.trained then [9] else []) ++ [10] ++
    (if Config.inErasureGroup then [11] else [])

/-- LENGTH (R39 to R47, R329, R403); those of 0x000A and 0x000B cover their fields (log 80). -/
def capLength : Nat → Nat
  | 1 | 6 | 7 => 0x40
  | 2 => 0x630
  | 3 | 4 => 0x20
  | 5 => 0x1020
  | 8 => 0x30
  | 9 => 0x1A0
  | 10 => 0x80
  | 11 => 0x60
  | _ => 0

/-- DIE(d) (R404). -/
def Die.word (d : Die) : DWord := wordOf [(d.width, 0), (d.sib, 4), (d.n480.toNat, 8), (d.sdead, 9)]

/-- COLMAP(d, r) (R403): 0xF where j ≥ WIDTH. -/
def State.colmapWord (s : State) (d r : Nat) : DWord :=
  wordOf ((List.range 15).map fun j => (if j < (s.die d).width then (s.physCore d j r).col else 15, 4 * j))

/-- A world window as capability 0x0005 shows it (R43): its two words. -/
def Window.word (x : Window) (high : Bool) : DWord :=
  if high then wordOf [(x.limit.toNat, 0)] else wordOf [(x.en.toNat, 0), (x.sec.toNat, 1), (x.base.toNat, 8)]

/-- A port entry (R329). -/
def Port.word (p : Port) : DWord := wordOf [(p.lanes, 0), (p.up.toNat, 4), (p.peer, 12), (p.pport, 20), (p.retry.toNat, 32)]

/-- Word `w` (offset 8 · w) of the capability `id`, header apart (R39 to R47, R329, R356, R403, R414). -/
def State.capWord (s : State) (id w : Nat) : DWord :=
  match id with
  | 1 =>
    if w = 2 then wordOf [(Config.vendor.toNat, 0), (Config.device.toNat, 16), (Config.stepping.toNat, 32)]
    else if w = 3 then Config.serial
    else if 4 ≤ w ∧ w < 8 then Config.keydig.extractLsb' (64 * (w - 4)) 64
    else 0
  | 2 =>
    if w = 2 then wordOf ((s.cfggen.toNat, 0) :: (List.range 16).map fun d => ((s.die d).inService.toNat, 32 + d))
    else if w = 3 then dw s.hbmSize
    else if w = 4 then dw s.rsvSize
    else if 6 ≤ w ∧ w < 22 then (s.die (w - 6)).word
    else if 22 ≤ w ∧ w < 182 then s.colmapWord ((w - 22) / 10) ((w - 22) % 10)
    else if 182 ≤ w ∧ w < 198 then dw ((aget s.pcdead (w - 182)).getD 0)
    else 0
  | 3 => if w = 2 then wordOf [(0x100000, 0), (64, 32)] else 0
  | 4 =>
    let h := s.hport
    if w = 2 then wordOf [(h.width, 0), (h.rate, 8), (h.flit.toNat, 16), (h.cxlIo.toNat, 17), (h.cxlCache.toNat, 18), (h.cxlMem.toNat, 19), (h.ide.toNat, 20)]
    else if w = 3 then h.hwin
    else 0
  | 5 =>
    if w = 2 then wordOf [(s.hport.secure.toNat, 0), (s.wfcount.toNat, 32)]
    else if w = 3 then wordOf ((List.range 64).map fun c => ((s.ctx c).secure.toNat, c))
    else if 4 ≤ w ∧ w < 516 then ((aget s.windows ((w - 4) / 2)).getD {}).word (w % 2 = 1)
    else 0
  | 6 =>
    let m := s.mbox
    if w = 2 ∨ w = 3 then m.req.extractLsb' (64 * (w - 2)) 64
    else if w = 4 then wordOf [(m.busy.toNat, 0), (m.busy.toNat, 1), (m.done.toNat, 2), (m.status.toNat, 8), (m.waits.toNat, 32)]
    else if w = 5 then m.resp
    else if w = 6 then wordOf [(m.secver.toNat, 0)]
    else if w = 7 then m.leaf
    else 0
  | 7 =>
    let e := (aget s.ints (w - 2)).getD {}
    if 2 ≤ w ∧ w < 8 then wordOf [(e.vec.toNat, 0), (e.en.toNat, 9), (e.pend.toNat, 10)] else 0
  | 8 =>
    if w = 2 then dw (tierEnd - tierBase - s.rsvSize)
    else if w = 3 then dw s.rsvSize
    else if w = 4 then wordOf [(s.hport.gpfBusy.toNat, 0), (s.hport.gpfOk.toNat, 1), (s.hport.gpfCount.toNat, 32)]
    else 0
  | 9 =>
    if 2 ≤ w ∧ w < 50 then ((aget s.ports (w - 2)).getD {}).word
    else if w = 50 then wordOf [(s.self, 0)]
    else 0
  | 10 =>
    let l := s.lehr
    if w = 2 then wordOf [(l.ctx.toNat, 0), (l.busy.toNat, 8), (l.busy.toNat, 9)]
    else if w = 3 then l.liveBase.setWidth 64
    else if w = 4 then l.liveLen.setWidth 64
    else if w = 5 then l.slot0.setWidth 64
    else if w = 6 then l.slot1.setWidth 64
    else if w = 7 then l.sstep
    else if 8 ≤ w ∧ w < 12 then l.group.extractLsb' (64 * (w - 8)) 64
    else if w = 12 then l.snapTag
    else 0
  | 11 =>
    let c := s.cullet
    if w = 2 then wordOf [(c.member.toNat, 0), (c.en.toNat, 4)]
    else if w = 3 ∨ w = 4 then c.mempkg.extractLsb' (64 * (w - 3)) 64
    else if w = 5 then c.frag0.setWidth 64
    else if w = 6 then c.frag1.setWidth 64
    else if w = 7 then c.prot0
    else if w = 8 then c.prot1
    else if w = 9 then wordOf [(c.lost.toNat, 0), (c.adopter.toNat, 4), ((c.serving || c.done).toNat, 8), (c.serving.toNat, 9), (c.done.toNat, 10), (c.failed.toNat, 11)]
    else if w = 10 then c.adoptBase.setWidth 64
    else if w = 11 then c.rebuilt
    else 0
  | _ => 0

/-- Word `w` (offset 8 · w) of the block of context `c` (R53): a write-only field reads 0 (R13), EVSET and EVCLR read as EVVAL. -/
def State.ctxWord (s : State) (c w : Nat) : DWord :=
  let x := s.ctx c
  let q := x.queue ((w - 4) / 4)
  if w = 0 then
    wordOf [(x.en.toNat, 0), (x.secure.toNat, 1), (x.halt.toNat, 2), (x.qerr.toNat, 3), (x.cqfull.toNat, 4), ((s.ctxActive c).toNat, 5), (x.cqerr.toNat, 6)]
  else if w = 1 then x.ptroot
  else if w = 2 then wordOf [(x.gen.toNat, 0)]
  else if 4 ≤ w ∧ w < 36 then
    if w % 4 = 0 then q.base else if w % 4 = 1 then wordOf [(q.log2, 0), (q.tail.toNat, 32)] else if w % 4 = 2 then wordOf [(q.head.toNat, 0)] else 0
  else if w = 36 then x.cqbase
  else if w = 37 then wordOf [(x.cqlog2, 0), (x.cqhead.toNat, 32)]
  else if w = 38 then wordOf [(x.cqtail.toNat, 0), (x.cqvec.toNat, 32), (x.cqie.toNat, 41)]
  else if 40 ≤ w ∧ w < 52 then x.ev.extractLsb' (64 * (w % 4)) 64
  else if w = 52 then dw x.kq.length
  else 0

/-- The word at distance `o` from the header of the first of the capabilities `ids`, which stands at `at_` (R36, R37). The list follows the
order of the IDs, each header 16 bytes beyond the end of the one before it (log 80). -/
def State.capListWord (s : State) : List Nat → Nat → Nat → DWord
  | [], _, _ => 0
  | id :: rest, at_, o =>
    let next := at_ + capLength id + 16
    if capLength id + 16 ≤ o then s.capListWord rest next (o - (capLength id + 16))
    else if capLength id ≤ o then 0
    else if o = 0 then wordOf [(id, 0), (1, 16), (if rest.isEmpty then 0 else next, 32)]
    else if o = 8 then wordOf [(capLength id, 0)]
    else s.capWord id (o / 8)

/-- The 64-bit word at the aligned offset `o` of the configuration window (R35, R36, R41, R53). -/
def State.bar0Word (s : State) (o : Nat) : DWord :=
  if 0x100000 ≤ o ∧ o < 0x100000 + 4096 * 64 then s.ctxWord ((o - 0x100000) / 4096) (o % 4096 / 8)
  else s.capListWord s.capIds 0 o

/-- What a host read of `n` bytes at offset `o` of the configuration window returns: bytes of its words, lowest first (R6). -/
def State.bar0Read (s : State) (o n : Nat) : List Byte :=
  (List.range n).map fun i => (s.bar0Word ((o + i) / 8 * 8)).extractLsb' (8 * ((o + i) % 8)) 8

end Sys2Proof.Machine
end

