-- ==== Sys2Proof/Tests/Slice0.lean ====
section
/-!
SUPPORT. Tests. Words written out from the encodings of the spec decode as they should, ill-formed terms are refused, single steps give the
results that the spec states, and for every statement with hypotheses a concrete state meets them, clause by clause.
-/
namespace Sys2Proof.Tests

open Sys2Proof.Machine

set_option Elab.async false

/-! ## A small machine -/

/-- A launch record: one team of 16 lanes, 64 registers, 4,096 bytes of scratchpad, code at 0, tables of four words at 0x100 and 0x110, a handler at
word 64. -/
def tRec : LaunchRec :=
  { w := [(2, 0x100), (3, 0x110), (6, dw (64 * 2 ^ 32)), (7, dw (4 + 4 * 2 ^ 32)), (8, dw (1 + 2 ^ 32 + 2 ^ 48)),
      (9, dw (16 + 2 ^ 16 + 2 ^ 32 + 2 ^ 48 + 2 ^ 56)), (10, dw (64 * 2 ^ 32)), (11, 4096), (15, 0x77)] }

/-- Page tables for one 64 KiB page at virtual 0, physical 0x20000, and two words of the dispatch tables. -/
def tMem : List Host.Cell :=
  [(0x10000, 0x01), (0x10001, 0x10), (0x10002, 0x01), (0x11000, 0x01), (0x11001, 0x20), (0x11002, 0x01), (0x12000, 0x01), (0x12001, 0x30), (0x12002, 0x01),
    (0x13000, 0x01), (0x13001, 0x40), (0x13002, 0x01), (0x14000, 0x0F), (0x14002, 0x02), (0x20100, 0x20), (0x20104, 0x30), (0x20110, 0x40)]

/-- The launch of the small machine. -/
def tLaunch : Launch := { ctx := 0, queue := 0, slot := 0, lrec := tRec, ageFrom := 0, started := true, placed := 1 }

/-- The team of the small machine, on die 0, column 0, row 0. -/
def tTeam : Team := loadTeam 1 2 4 0

/-- The group of the small machine at its start, with `v` in s8 and `w` in s9. -/
def tGroup (v w : DWord) : Group :=
  let g := startGroup tRec 3 tTeam 0 0 0 0 4096
  { g with sregs := aset (aset g.sregs 8 v) 9 w, vfe := BitVec.allOnes 256 }

/-- The small machine: context 0, one launch, one cluster, one team, and the group `g`, which issues. -/
def tState (g : Group) : State :=
  { State.reset with
    mem := tMem
    ctxs := [(0, { en := true, ptroot := 0x10000 })]
    launches := [(1, tLaunch)]
    clusters := [(2, { launch := 1, ord := 0, die := 0, col := 0, row := 0, teams := [3], placedAt := 0 })]
    teams := [(3, tTeam)]
    groups := [(4, g)]
    nextId := 5
    fresh := 8192
    cur := some { gid := 4 } }

/-- The group of the small machine and what it belongs to. -/
def tWho (g : Group) : Who := { gid := 4, g := g, team := tTeam, launch := tLaunch }

/-- Group `gid` of a state and what it belongs to. -/
def whoAt (s : State) (gid : Nat) : Who := (s.who gid).getD { gid := 0, g := tGroup 0 0, team := tTeam, launch := tLaunch }

/-- The result is `v`. -/
def okIs {ε α : Type} [DecidableEq α] (r : Except ε α) (v : α) : Bool :=
  match r with
  | .ok a => decide (a = v)
  | .error _ => false

/-- The result is the error `e`. -/
def errIs {ε α : Type} [DecidableEq ε] (r : Except ε α) (e : ε) : Bool :=
  match r with
  | .ok _ => false
  | .error a => decide (a = e)

theorem of_okIs {ε α : Type} [DecidableEq α] {r : Except ε α} {v : α} (h : okIs r v = true) : r = .ok v := by
  cases r with
  | ok a => simpa [okIs] using h
  | error a => simp [okIs] at h

theorem of_errIs {ε α : Type} [DecidableEq ε] {r : Except ε α} {e : ε} (h : errIs r e = true) : r = .error e := by
  cases r with
  | ok a => simp [errIs] at h
  | error a => simpa [errIs] using h

/-- The value is a pair whose first part satisfies `p`. -/
def someWith {α β : Type} (x : Option (α × β)) (p : α → Bool) : Bool :=
  match x with
  | some v => p v.1
  | none => false

theorem of_someWith {α β : Type} {x : Option (α × β)} {p : α → Bool} (h : someWith x p = true) : ∃ a b, x = some (a, b) ∧ p a = true := by
  cases x with
  | none => simp [someWith] at h
  | some v => exact ⟨v.1, v.2, rfl, h⟩

/-- The result is a value that satisfies `p`. -/
def okWith {ε α : Type} (r : Except ε α) (p : α → Bool) : Bool :=
  match r with
  | .ok a => p a
  | .error _ => false

theorem of_okWith {ε α : Type} {r : Except ε α} {p : α → Bool} (h : okWith r p = true) : ∃ a, r = .ok a ∧ p a = true := by
  cases r with
  | ok a => exact ⟨a, rfl, h⟩
  | error a => simp [okWith] at h

/-- Every register is full. -/
theorem full_all {g : Group} (h : g.sfe = BitVec.allOnes 64) (r : SReg) : g.sfull r = true := by
  have hr : r.toNat < 64 := r.isLt
  rw [Group.sfull, h, BitVec.getLsbD_allOnes]
  simp [hr]

/-- A group whose registers are all full can issue any S word. -/
theorem ready {s : State} {w : Who} (hc : s.cur = some { gid := w.gid }) (hw : s.who w.gid = some w) (hf : w.g.sfe = BitVec.allOnes 64)
    (need : List SReg) : SReady s w need := ⟨hc, hw, fun r _ => full_all hf r⟩

/-- The group of the tests of scalar words: s8 = 5, s9 = 3. -/
abbrev g53 : Group := tGroup 5 3

/-! ## Decoding (R95 to R105): words written out from the formats and the opcode maps -/

/-- Integer words, op 0x01: d = 3, a = 2, b = 7, fn from R97, bit 7 the 32-bit form on odd codes (R95, R97). -/
theorem test_decode_alu :
    [decodeS 0x04308700, decodeS 0x04308781, decodeS 0x04308702, decodeS 0x04308783, decodeS 0x04308704,
      decodeS 0x04308785, decodeS 0x04308706, decodeS 0x04308787, decodeS 0x04308708, decodeS 0x04308789,
      decodeS 0x0430870A, decodeS 0x0430878B, decodeS 0x0430870C, decodeS 0x0430878D, decodeS 0x0430870E,
      decodeS 0x0430878F, decodeS 0x04308710, decodeS 0x04308791, decodeS 0x04308712, decodeS 0x04308793,
      decodeS 0x04308714, decodeS 0x04308795, decodeS 0x04308716, decodeS 0x07C84017, decodeS 0x07C84098] =
    [some (.add false 3 2 7), some (.sub true 3 2 7), some (.mul false 3 2 7), some (.mulhI true 3 2 7),
      some (.mulhN false 3 2 7), some (.divI true 3 2 7), some (.divN false 3 2 7), some (.remI true 3 2 7),
      some (.remN false 3 2 7), some (.and true 3 2 7), some (.or false 3 2 7), some (.xor true 3 2 7),
      some (.andn false 3 2 7), some (.shl true 3 2 7), some (.shr false 3 2 7), some (.sra true 3 2 7),
      some (.minI false 3 2 7), some (.maxI true 3 2 7), some (.minN false 3 2 7), some (.maxN true 3 2 7),
      some (.sltI false 3 2 7), some (.sltN true 3 2 7), some (.seq false 3 2 7), some (.clz false 60 33),
      some (.popc true 60 33)] := by decide +kernel

/-- Immediate words, ops 0x02 to 0x09 (R95, R97). -/
theorem test_decode_imm :
    [decodeS 0x0830BFFF, decodeS 0x0C30A001, decodeS 0x10308005, decodeS 0x14308006, decodeS 0x1830803F,
      decodeS 0x18309004, decodeS 0x1830A005, decodeS 0x1830B006, decodeS 0x1C1ABCDE, decodeS 0x20112345,
      decodeS 0x2430BFFE] =
    [some (.addi 3 2 0x3FFF), some (.andi 3 2 0x2001), some (.ori 3 2 5), some (.xori 3 2 6),
      some (.shli 3 2 63), some (.shri 3 2 4), some (.srai 3 2 5), some (.rotli 3 2 6),
      some (.lui 1 0xABCDE), some (.lhi 1 0x12345), some (.slti 3 2 0x3FFE)] := by decide +kernel

/-- Scalar FP32 words, op 0x0A (R97). -/
theorem test_decode_fp :
    [decodeS 0x28308700, decodeS 0x28308701, decodeS 0x28308702, decodeS 0x28308703, decodeS 0x28308704,
      decodeS 0x28308705, decodeS 0x28308006, decodeS 0x28308707, decodeS 0x28308008, decodeS 0x28308009,
      decodeS 0x2830870A, decodeS 0x2830870B] =
    [some (.fadd 3 2 7), some (.fsub 3 2 7), some (.fmul 3 2 7), some (.fmac 3 2 7),
      some (.fmin 3 2 7), some (.fmax 3 2 7), some (.fsqrt 3 2), some (.fdiv 3 2 7),
      some (.fcvtI 3 2), some (.icvtF 3 2), some (.flt 3 2 7), some (.feq 3 2 7)] := by decide +kernel

/-- Scalar loads and stores, ops 0x10 to 0x12: size, mode and disp of R95. -/
theorem test_decode_mem :
    [decodeS 0x4030A3FC, decodeS 0x44308408, decodeS 0x4830BA91, decodeS 0x4830D401] =
    [some (.ld 2 3 2 (.offset 0x3FC)), some (.ldx 0 3 2 (.postInc 8)), some (.st 3 3 2 (.modulo 5 0x11)), some (.st 1 3 3 (.postInc 1))] := by decide +kernel

/-- Control transfer: the example of R96 (`br.lt.i s5, s6`, three words back), the conditions of R97, jumps and calls. -/
theorem test_decode_transfer :
    [decodeS 0x510A37FD, decodeS 0x50041804, decodeS 0x50841804, decodeS 0x51041804, decodeS 0x51841804,
      decodeS 0x52041804, decodeS 0x52841804, decodeS 0x57FFFFFF, decodeS 0x58000002, decodeS 0x5C024000,
      decodeS 0x5C000001, decodeS 0x5C024002, decodeS 0x5C024003] =
    [some (.br .ltI 5 6 0x7FD), some (.br .eq 2 3 4), some (.br .ne 2 3 4), some (.br .ltI 2 3 4),
      some (.br .geI 2 3 4), some (.br .ltN 2 3 4), some (.br .geN 2 3 4), some (.jmp 0x3FFFFFF),
      some (.call 2), some (.jr 9), some .ret, some (.dcall 9),
      some (.djmp 9)] := by decide +kernel

/-- Lane blocks and guard slots, ops 0x18 and 0x19 (R97). -/
theorem test_decode_guard :
    [decodeS 0x63FFFFFF, decodeS 0x60000010, decodeS 0x64F24000, decodeS 0x64124001, decodeS 0x64200002] =
    [some (.lrun .none 0x1FFFFF), some (.lrun (.slot 0) 16), some (.gset 15 9), some (.gnot 1 9),
      some (.gfree 2)] := by decide +kernel

/-- Matrix commands, op 0x1A (R95, R97). -/
theorem test_decode_matrix :
    [decodeS 0x6BE48000, decodeS 0x68648001, decodeS 0x68648002, decodeS 0x687E8003, decodeS 0x6BE48A04,
      decodeS 0x6BE00005, decodeS 0x6BE00006] =
    [some (.mld .none 9), some (.mldPair (.slot 3) 9), some (.mmul (.slot 3) 9), some (.mmt (.slot 3) 61),
      some (.mfence .none 9 5), some (.mrel .none), some (.ofence .none)] := by decide +kernel

/-- Copies and collectives, ops 0x1B and 0x1C (R97). -/
theorem test_decode_engines :
    [decodeS 0x6FFC0A00, decodeS 0x6C848A01, decodeS 0x6FE48A02, decodeS 0x6FE48A03, decodeS 0x6FE00A04,
      decodeS 0x73FC0A00, decodeS 0x73FD8A01, decodeS 0x73FD0A02, decodeS 0x73FF0A03] =
    [some (.cpt .none 56 5), some (.cptIdx (.slot 4) 9 5), some (.cptWs .none 9 5), some (.cptP .none 9 5),
      some (.pbar .none 5), some (.xmar .none 56 5), some (.xred .none 59 5), some (.xnorm .none 58 5),
      some (.xbar .none 62 5)] := by decide +kernel

/-- Fences, barriers and rounds, op 0x1D (R15, R97). -/
theorem test_decode_sync :
    [decodeS 0x74400000, decodeS 0x74000001, decodeS 0x74600002, decodeS 0x74008704, decodeS 0x74008705,
      decodeS 0x74308006, decodeS 0x74008707, decodeS 0x74308708, decodeS 0x7430870A, decodeS 0x7400870B,
      decodeS 0x7430800C, decodeS 0x7430870D] =
    [some (.fenceRel .pkg), some (.fenceAcq .grp), some (.fenceAr .sys), some (.binit 2 7),
      some (.bexp 2 7), some (.barr 3 2), some (.bwait 2 7), some (.btest 3 2 7),
      some (.rndReg 3 2 7), some (.rndAdv 2 7), some (.rndGet 3 2), some (.rndFlr 3 2 7)] := by decide +kernel

/-- CSRs and system words, ops 0x1E to 0x20 (R84, R97). -/
theorem test_decode_system :
    [decodeS 0x78300041, decodeS 0x7C00800A, decodeS 0x7C008020, decodeS 0x7C008008, decodeS 0x7C008009,
      decodeS 0x7C008017, decodeS 0x80008000, decodeS 0x80000001, decodeS 0x80008001, decodeS 0x80000002,
      decodeS 0x80000003, decodeS 0x80308004, decodeS 0x80000005, decodeS 0x80000006, decodeS 0x80308007] =
    [some (.csrr 3 0x41), some (.csrwSempty 2), some (.csrwCgseed 2), some (.csrwOvfl 2),
      some (.csrwNval 2), some (.csrwMod 7 2), some (.trap 2), some .eret,
      some (.eretTo 2), some .yield, some .exit, some (.klaunch 3 2),
      some .rgn, some .nop, some (.evset 3 2)] := by decide +kernel

/-- The fields of an unguarded lane instruction that takes every source as full. -/
def tL (ty : LTy) (m : BitVec 5) (d a b c : VReg) (bs cs : Sel) (w2 : Word) : LF :=
  { guard := .always, feA := false, feB := false, feC := false, ty := ty, bsel := bs, csel := cs, mod5 := m, d := d, a := a, b := b, c := c, w2 := w2 }

/-- Lane integer instructions (R104); first the example of R103. -/
theorem test_decode_lint :
    [decodeL 0x00478280 0x0A040700 0, decodeL 0x007E0200 0x03040500 0x0, decodeL 0x00BE0200 0x03040500 0x0, decodeL 0x00FE0200 0x03040500 0x0, decodeL 0x013E0200 0x03040500 0x0,
      decodeL 0x017E0400 0x03040506 0x0, decodeL 0x01BE0200 0x02040506 0x0, decodeL 0x01FE0080 0x03040500 0x0, decodeL 0x023E0080 0x03040500 0x0, decodeL 0x027E0080 0x03040500 0x0,
      decodeL 0x02BE0080 0x03040500 0x0, decodeL 0x02FE0080 0x03040500 0x0, decodeL 0x033E0080 0x03040500 0x0, decodeL 0x037E0080 0x03040500 0x0, decodeL 0x03BE1000 0x03040500 0x0,
      decodeL 0x03FE1200 0x03040500 0x0, decodeL 0x043E0201 0x03040000 0x0, decodeL 0x047E0000 0x03040000 0x0, decodeL 0x04BE0000 0x03040000 0x0, decodeL 0x04FE0000 0x03040000 0x0,
      decodeL 0x053E0200 0x03040506 0x0, decodeL 0x057E0000 0x03040506 0x0, decodeL 0x05BE1400 0x02000600 0x0, decodeL 0x05FE0000 0x03040500 0xE0, decodeL 0x063E000A 0x03000000 0x0,
      decodeL 0x067E1201 0x03040506 0x0, decodeL 0x06BE0300 0x03040000 0x9, decodeL 0x06FE0400 0x03040500 0x0] =
    [some (.lAdd { tL .i32 0 10 4 7 0 .scalar .vec 0 with guard := .pred 3 true, feA := true }), some (.lAdd (tL .i32 0 3 4 5 0 .vec .vec 0x0)), some (.lSub (tL .i32 0 3 4 5 0 .vec .vec 0x0)), some (.lMul (tL .i32 0 3 4 5 0 .vec .vec 0x0)),
      some (.lMulhi (tL .i32 0 3 4 5 0 .vec .vec 0x0)), some (.lMad (tL .n32 0 3 4 5 6 .vec .vec 0x0)), some (.lMadw (tL .i32 0 2 4 5 6 .vec .vec 0x0)), some (.lAnd (tL .b32 0 3 4 5 0 .scalar .vec 0x0)),
      some (.lOr (tL .b32 0 3 4 5 0 .scalar .vec 0x0)), some (.lXor (tL .b32 0 3 4 5 0 .scalar .vec 0x0)), some (.lAndn (tL .b32 0 3 4 5 0 .scalar .vec 0x0)), some (.lShl (tL .b32 0 3 4 5 0 .scalar .vec 0x0)),
      some (.lShr (tL .b32 0 3 4 5 0 .scalar .vec 0x0)), some (.lRotl (tL .b32 0 3 4 5 0 .scalar .vec 0x0)), some (.lMin (tL .i8x4 0 3 4 5 0 .vec .vec 0x0)), some (.lMax (tL .n8x4 0 3 4 5 0 .vec .vec 0x0)),
      some (.lAbs (tL .i32 1 3 4 0 0 .vec .vec 0x0)), some (.lPopc (tL .b32 0 3 4 0 0 .vec .vec 0x0)), some (.lClz (tL .b32 0 3 4 0 0 .vec .vec 0x0)), some (.lBrev (tL .b32 0 3 4 0 0 .vec .vec 0x0)),
      some (.lBfe (tL .i32 0 3 4 5 6 .vec .vec 0x0)), some (.lBfi (tL .b32 0 3 4 5 6 .vec .vec 0x0)), some (.lMov (tL .b64 0 2 0 6 0 .vec .vec 0x0)), some (.lSel (tL .b32 0 3 4 5 0 .vec .vec 0xE0)),
      some (.lSreg (tL .b32 10 3 0 0 0 .vec .vec 0x0)), some (.lDp4 (tL .n8x4 1 3 4 5 6 .vec .vec 0x0)), some (.lDiv (tL .i32 0 3 4 0 0 .imm .vec 0x9)), some (.lRem (tL .n32 0 3 4 5 0 .vec .vec 0x0))] := by decide +kernel

/-- Predicates and lane control (R104). -/
theorem test_decode_lpred :
    [decodeL 0x103E0202 0x00040500 0x3, decodeL 0x107E0003 0x00000000 0xC41, decodeL 0x10BE0000 0x00000000 0xC41, decodeL 0x10FE0000 0x00000000 0xC41, decodeL 0x113E0000 0x00000000 0x41,
      decodeL 0x117E0001 0x03000000 0x0, decodeL 0x11BE0000 0x00040000 0x17, decodeL 0x11FE0001 0x00000000 0x5, decodeL 0x703E0000 0x00000000 0xFFFFFFFF, decodeL 0x707E0000 0x03000000 0x2,
      decodeL 0x70BE0000 0x00040000 0x0, decodeL 0x70FE0000 0x03040000 0x0, decodeL 0x713E0000 0x00040000 0x0, decodeL 0x717E0000 0x00000000 0x0, decodeL 0x71BE0000 0x00000000 0x0,
      decodeL 0x71FE0000 0x00000000 0x0, decodeL 0x723E0000 0x00000500 0x0, decodeL 0x727E0080 0x00000506 0x0, decodeL 0x72BE0014 0x00000000 0x0, decodeL 0x72FE0000 0x00000000 0x0,
      decodeL 0x733E0000 0x00040000 0x0, decodeL 0x737E0000 0x00000000 0x0, decodeL 0x73BE0000 0x00000000 0xFFFF] =
    [some (.lCmp (tL .i32 2 0 4 5 0 .vec .vec 0x3)), some (.lPand (tL .b32 3 0 0 0 0 .vec .vec 0xC41)), some (.lPor (tL .b32 0 0 0 0 0 .vec .vec 0xC41)), some (.lPxor (tL .b32 0 0 0 0 0 .vec .vec 0xC41)),
      some (.lPnot (tL .b32 0 0 0 0 0 .vec .vec 0x41)), some (.lPtov (tL .b32 1 3 0 0 0 .vec .vec 0x0)), some (.lVtop (tL .b32 0 0 4 0 0 .vec .vec 0x17)), some (.lPset (tL .b32 1 0 0 0 0 .vec .vec 0x5)),
      some (.lBra (tL .b32 0 0 0 0 0 .vec .vec 0xFFFFFFFF)), some (.lCall (tL .b32 0 3 0 0 0 .vec .vec 0x2)), some (.lRet (tL .b32 0 0 4 0 0 .vec .vec 0x0)), some (.lDcall (tL .b32 0 3 4 0 0 .vec .vec 0x0)),
      some (.lDjmp (tL .b32 0 0 4 0 0 .vec .vec 0x0)), some (.lLend (tL .b32 0 0 0 0 0 .vec .vec 0x0)), some (.lDemote (tL .b32 0 0 0 0 0 .vec .vec 0x0)), some (.lExit (tL .b32 0 0 0 0 0 .vec .vec 0x0)),
      some (.lBarr (tL .b32 0 0 0 5 0 .vec .vec 0x0)), some (.lBwait (tL .b32 0 0 0 5 6 .scalar .vec 0x0)), some (.lFence (tL .b32 20 0 0 0 0 .vec .vec 0x0)), some (.lRgn (tL .b32 0 0 0 0 0 .vec .vec 0x0)),
      some (.lTrap (tL .b32 0 0 4 0 0 .vec .vec 0x0)), some (.lNop (tL .b32 0 0 0 0 0 .vec .vec 0x0)), some (.lRegang (tL .b32 0 0 0 0 0 .vec .vec 0xFFFF))] := by decide +kernel

/-- Lane FP32 instructions (R104). -/
theorem test_decode_lfp :
    [decodeL 0x203E0600 0x03040500 0x3, decodeL 0x207E0601 0x03040500 0x3, decodeL 0x20BE0602 0x03040500 0x3, decodeL 0x20FE0604 0x03040506 0x180F, decodeL 0x213E0600 0x03040500 0x0,
      decodeL 0x217E0600 0x03040500 0x0, decodeL 0x21BE0600 0x03040000 0x3, decodeL 0x21FE0601 0x03040000 0x3, decodeL 0x223E0602 0x03040000 0x3, decodeL 0x227E0603 0x03040500 0x0,
      decodeL 0x22BE0600 0x03040000 0x0, decodeL 0x22FE0600 0x03040000 0x0, decodeL 0x233E0603 0x03040000 0x0, decodeL 0x237E0401 0x03040000 0x0, decodeL 0x23BE0200 0x03040000 0x0,
      decodeL 0x23FE0600 0x03040500 0x0, decodeL 0x243E0600 0x03040000 0x0] =
    [some (.lFadd (tL .f32 0 3 4 5 0 .vec .vec 0x3)), some (.lFsub (tL .f32 1 3 4 5 0 .vec .vec 0x3)), some (.lFmul (tL .f32 2 3 4 5 0 .vec .vec 0x3)), some (.lFma (tL .f32 4 3 4 5 6 .vec .vec 0x180F)),
      some (.lFmin (tL .f32 0 3 4 5 0 .vec .vec 0x0)), some (.lFmax (tL .f32 0 3 4 5 0 .vec .vec 0x0)), some (.lFrcp (tL .f32 0 3 4 0 0 .vec .vec 0x3)), some (.lFrsqrt (tL .f32 1 3 4 0 0 .vec .vec 0x3)),
      some (.lFsqrt (tL .f32 2 3 4 0 0 .vec .vec 0x3)), some (.lFdiv (tL .f32 3 3 4 5 0 .vec .vec 0x0)), some (.lFexp2 (tL .f32 0 3 4 0 0 .vec .vec 0x0)), some (.lFlog2 (tL .f32 0 3 4 0 0 .vec .vec 0x0)),
      some (.lFrint (tL .f32 3 3 4 0 0 .vec .vec 0x0)), some (.lFcvtI (tL .n32 1 3 4 0 0 .vec .vec 0x0)), some (.lIcvtF (tL .i32 0 3 4 0 0 .vec .vec 0x0)), some (.lFscale (tL .f32 0 3 4 5 0 .vec .vec 0x0)),
      some (.lFclass (tL .f32 0 3 4 0 0 .vec .vec 0x0))] := by decide +kernel

/-- Packed, conversion and cross-lane instructions (R104). -/
theorem test_decode_lcvt :
    [decodeL 0x303E0800 0x03040500 0x0, decodeL 0x307E0808 0x03040500 0x0, decodeL 0x30BE0800 0x03040506 0x0, decodeL 0x30FE0A04 0x03040000 0x6802, decodeL 0x313E1001 0x03040500 0x0,
      decodeL 0x317E0E07 0x03040000 0x0, decodeL 0x31BE0E07 0x03040506 0x0, decodeL 0x31FE0E00 0x03040506 0x0, decodeL 0x323E0600 0x03040500 0x0, decodeL 0x327E1400 0x02040506 0x0,
      decodeL 0x32BE0801 0x03040500 0x1800, decodeL 0x403E0000 0x03040500 0x0, decodeL 0x407E0003 0x03000000 0x40, decodeL 0x40BE0208 0x03040000 0x0, decodeL 0x40FE0400 0x02040000 0x0,
      decodeL 0x413E0003 0x03040000 0x0, decodeL 0x417E0001 0x03040000 0x0, decodeL 0x41BE0080 0x03040700 0x0] =
    [some (.lHadd2 (tL .bf16x2 0 3 4 5 0 .vec .vec 0x0)), some (.lHmul2 (tL .bf16x2 8 3 4 5 0 .vec .vec 0x0)), some (.lHfma2 (tL .bf16x2 0 3 4 5 6 .vec .vec 0x0)), some (.lCvt (tL .f8e4x4 4 3 4 0 0 .vec .vec 0x6802)),
      some (.lPack (tL .i8x4 1 3 4 5 0 .vec .vec 0x0)), some (.lUnpk (tL .nq4x8 7 3 4 0 0 .vec .vec 0x0)), some (.lNqenc (tL .nq4x8 7 3 4 5 6 .vec .vec 0x0)), some (.lNqdec (tL .nq4x8 0 3 4 5 6 .vec .vec 0x0)),
      some (.lNqscl (tL .f32 0 3 4 5 0 .vec .vec 0x0)), some (.lRhash (tL .b64 0 2 4 5 6 .vec .vec 0x0)), some (.lSrbits (tL .bf16x2 1 3 4 5 0 .vec .vec 0x1800)), some (.lXlane (tL .b32 0 3 4 5 0 .vec .vec 0x0)),
      some (.lCanvass (tL .b32 3 3 0 0 0 .vec .vec 0x40)), some (.lRdc (tL .i32 8 3 4 0 0 .vec .vec 0x0)), some (.lRdcx (tL .n32 0 2 4 0 0 .vec .vec 0x0)), some (.lScan (tL .b32 3 3 4 0 0 .vec .vec 0x0)),
      some (.lVtos (tL .b32 1 3 4 0 0 .vec .vec 0x0)), some (.lBcast (tL .b32 0 3 4 7 0 .scalar .vec 0x0))] := by decide +kernel

/-- Lane memory, atomic and copy instructions (R104). -/
theorem test_decode_lmem :
    [decodeL 0x503E0000 0x03040600 0x1200004, decodeL 0x507E0000 0x00040605 0x1200000, decodeL 0x50BE0000 0x03040000 0x1000008, decodeL 0x50FE0002 0x00040005 0x1000000, decodeL 0x513E0001 0x03040605 0x5200000,
      decodeL 0x517E0004 0x03040600 0x1200000, decodeL 0x51BE0004 0x00040605 0x1200000, decodeL 0x51FE0000 0x03040600 0x1200000, decodeL 0x523E0000 0x03040000 0x1000000, decodeL 0x527E0000 0x00040005 0x1000000,
      decodeL 0x603E020C 0x03040605 0x200000, decodeL 0x607E0004 0x03040605 0x200000, decodeL 0x60BE0600 0x00040605 0x200000, decodeL 0x60FE0004 0x00040605 0x22000, decodeL 0x613E0408 0x03040005 0x0] =
    [some (.lLd (tL .b32 0 3 4 6 0 .vec .vec 0x1200004)), some (.lSt (tL .b32 0 0 4 6 5 .vec .vec 0x1200000)), some (.lLds (tL .b32 0 3 4 0 0 .vec .vec 0x1000008)), some (.lSts (tL .b32 2 0 4 0 5 .vec .vec 0x1000000)),
      some (.lLdb (tL .b32 1 3 4 6 5 .vec .vec 0x5200000)), some (.lLdacq (tL .b32 4 3 4 6 0 .vec .vec 0x1200000)), some (.lStrel (tL .b32 4 0 4 6 5 .vec .vec 0x1200000)), some (.lLdws (tL .b32 0 3 4 6 0 .vec .vec 0x1200000)),
      some (.lLdcl (tL .b32 0 3 4 0 0 .vec .vec 0x1000000)), some (.lStcl (tL .b32 0 0 4 0 5 .vec .vec 0x1000000)), some (.lAtom (tL .i32 12 3 4 6 5 .vec .vec 0x200000)), some (.lAcas (tL .b32 4 3 4 6 5 .vec .vec 0x200000)),
      some (.lApush (tL .f32 0 0 4 6 5 .vec .vec 0x200000)), some (.lCpl (tL .b32 4 0 4 6 5 .vec .vec 0x22000)), some (.lSpatom (tL .n32 8 3 4 0 5 .vec .vec 0x0))] := by decide +kernel

/-- Words that R98 makes illegal: an op or function absent from R97, a nonzero unused field, mode 11, a guard code of 16 to 30, scope 7. -/
theorem test_decode_illegal :
    [0x00000000, 0xFC000000, 0x30000000, 0x04308720, 0x04308719, 0x04308717, 0x28308780, 0x18308040, 0x4030AC00, 0x40302404, 0x4030E404, 0x53000000, 0x5C124000, 0x5C004001, 0x62000000, 0x65024000, 0x6BFE8000, 0x6BE48200, 0x6BE48007, 0x6BE48A44, 0x6FE00A00, 0x74700000, 0x74000003, 0x7C008001, 0x78304000, 0x80000101, 0x80408007].map decodeS = List.replicate 27 none := by decide +kernel

/-- Words that R99 to R105 make illegal: op10 0 and 0x200, guard 24, a negated `always`, type 11, select 3, the bits of a scalar or an
immediate source, an unused source, a mod5 that the entry does not list. -/
theorem test_decode_lillegal :
    [decodeL 0x00000200 0x03040500 0, decodeL 0x80000200 0x03040500 0, decodeL 0x00700200 0x03040500 0,
      decodeL 0x007F0200 0x03040500 0, decodeL 0x007E1600 0x03040500 0, decodeL 0x007E0380 0x03040500 0,
      decodeL 0x007E0280 0x03044000 0, decodeL 0x007E0300 0x03040500 9, decodeL 0x007E0200 0x03040501 0,
      decodeL 0x007E0202 0x03040500 0] = List.replicate 10 none := by decide +kernel

/-- The words numbered as the opcode table numbers them: 32 bits an S word, 96 bits an L instruction with W0 first. -/
theorem test_decode_table :
    decodeTableWord 32 0x510A37FD = some (.br .ltI 5 6 0x7FD) ∧
      decodeTableWord 96 0x0000000003040500007E0200 = some (.lAdd (tL .i32 0 3 4 5 0 .vec .vec 0)) := by decide +kernel

/-- The words of the S stream that the spec works out in its examples (R145 to R352). -/
theorem test_decode_examples :
    [0x1C400040, 0x20400012, 0x60600005, 0x64214000, 0x79400002, 0x6C249000, 0x6BEA0002, 0x6BE60001, 0x68249004, 0x74930006, 0x74030907, 0x74400000,
        0x74A3000C, 0x74030D0B, 0x73E81000, 0x6C481003, 0x6FE01204].map decodeS =
      [some (.lui 4 0x40), some (.lhi 4 0x12), some (.lrun (.slot 3) 5), some (.gset 2 5), some (.csrr 20 2), some (.cpt (.slot 1) 9 8), some (.mmul .none 20),
        some (.mldPair .none 12), some (.mfence (.slot 1) 9 8), some (.barr 9 12), some (.bwait 12 9), some (.fenceRel .pkg), some (.rndGet 10 12), some (.rndAdv 12 13),
        some (.xmar .none 16 8), some (.cptP (.slot 2) 16 8), some (.pbar .none 9)] := by decide +kernel

/-- The words of the L stream that the spec works out in its examples (R179 to R319). -/
theorem test_decode_lexamples :
    [decodeL 0x103E028A 0x00040900 0x23, decodeL 0x70040000 0 0xFFFFFFFB, decodeL 0x20FE0601 0x08020406 1, decodeL 0x30FE0A0C 0x0C050000 0x6602,
        decodeL 0x40FE040A 0x09040600 0, decodeL 0x503E0080 0x08060400 0x01300000, decodeL 0x603E0685 0x00060409 0x00300000, decodeL 0x513E00A0 0x08060409 0x01300000,
        decodeL 0x513E00A1 0x08060409 0x0D300000, decodeL 0x727E0080 0x00000C05 0, decodeL 0x72BE000B 0 0] =
      [some (.lCmp (tL .i32 10 0 4 9 0 .scalar .vec 0x23)), some (.lBra { tL .b32 0 0 0 0 0 .vec .vec 0xFFFFFFFB with guard := .pred 2 false }),
        some (.lFma (tL .f32 1 8 2 4 6 .vec .vec 1)), some (.lCvt (tL .f8e4x4 12 12 5 0 0 .vec .vec 0x6602)), some (.lRdcx (tL .n32 10 9 4 6 0 .vec .vec 0)),
        some (.lLd (tL .b32 0 8 6 4 0 .scalar .vec 0x01300000)), some (.lAtom (tL .f32 5 0 6 4 9 .scalar .vec 0x00300000)),
        some (.lLdb (tL .b32 0 8 6 4 9 .scalar .scalar 0x01300000)), some (.lLdb (tL .b32 1 8 6 4 9 .scalar .scalar 0x0D300000)),
        some (.lBwait (tL .b32 0 0 0 12 5 .scalar .vec 0)), some (.lFence (tL .b32 11 0 0 0 0 .vec .vec 0))] := by decide +kernel

/-! ## Ill-formed terms, one for each check of `Instr.wf` -/

/-- The term is refused. -/
def bad (i : Instr) : Bool := !i.wf

/-- Guards, unused sources and destinations, selects and modes (R99, R100): p24, an unused c, an unused mode bit, a scalar above 63, an
immediate with a register or a mode bit, W2 where nothing is named. -/
theorem test_wf_operands :
    [.lAdd { tL .i32 0 3 4 5 0 .vec .vec 0 with guard := .pred 24 false }, .lAdd (tL .i32 0 3 4 5 6 .vec .vec 0),
      .lAdd { tL .i32 0 3 4 5 0 .vec .vec 0 with feC := true }, .lAdd (tL .i32 0 3 4 64 0 .scalar .vec 0), .lAdd (tL .i32 0 3 4 5 0 .imm .vec 0),
      .lAdd { tL .i32 0 3 4 0 0 .imm .vec 0 with feB := true }, .lAdd (tL .i32 0 3 4 5 0 .vec .vec 1), .lAbs (tL .i32 0 3 4 5 0 .vec .vec 0),
      .lSreg (tL .b32 0 3 4 0 0 .vec .vec 0), .lPset (tL .b32 0 3 0 0 0 .vec .vec 0)].all bad = true := by decide +kernel

/-- Types, mod5 and pairs of the integer instructions (R103, R171 to R177). -/
theorem test_wf_integer :
    [.lAdd (tL .f32 0 3 4 5 0 .vec .vec 0), .lAdd (tL .i32 2 3 4 5 0 .vec .vec 0), .lMul (tL .i8x4 0 3 4 5 0 .vec .vec 0), .lMadw (tL .i32 0 3 4 5 6 .vec .vec 0),
      .lMadw (tL .i32 0 2 4 5 7 .vec .vec 0), .lAnd (tL .i32 0 3 4 5 0 .vec .vec 0), .lMov (tL .b64 0 3 0 6 0 .vec .vec 0), .lMov (tL .b64 0 2 0 7 0 .vec .vec 0),
      .lSel (tL .b32 0 3 4 0 0 .imm .vec 0), .lSel (tL .b32 0 3 4 5 0 .vec .vec (24 * 32)), .lSreg (tL .b32 11 3 0 0 0 .vec .vec 0),
      .lDp4 (tL .i32 0 3 4 5 6 .vec .vec 0)].all bad = true := by decide +kernel

/-- Predicates and control (R178 to R186, R291 to R293). -/
theorem test_wf_control :
    [.lCmp (tL .b32 2 0 4 5 0 .vec .vec 0), .lCmp (tL .i32 6 0 4 5 0 .vec .vec 0), .lCmp (tL .i32 0 0 4 0 0 .imm .vec 0), .lCmp (tL .i32 0 0 4 5 0 .vec .vec 32),
      .lCmp (tL .i32 8 0 4 5 0 .vec .vec (24 * 32)), .lPand (tL .b32 0 0 0 0 0 .vec .vec 24), .lPtov (tL .b32 1 3 0 0 0 .vec .vec 32),
      .lBra { tL .b32 0 0 0 0 0 .vec .vec 0 with feA := true }, .lRet (tL .b32 0 0 4 0 0 .vec .vec 1), .lFence (tL .b32 7 0 0 0 0 .vec .vec 0),
      .lFence (tL .b32 0x18 0 0 0 0 .vec .vec 0), .lRgn { tL .b32 0 0 0 0 0 .vec .vec 0 with guard := .pred 0 false },
      .lRegang (tL .b32 0 0 0 0 0 .vec .vec 65536), .lNop (tL .i32 0 0 0 0 0 .vec .vec 0)].all bad = true := by decide +kernel

/-- Rounding codes, widths, sign fields and the pairs of conversion (R102, R188 to R199). -/
theorem test_wf_float :
    [.lFadd (tL .f32 5 3 4 5 0 .vec .vec 0), .lFadd (tL .f32 4 3 4 5 0 .vec .vec 0), .lFadd (tL .f32 4 3 4 5 0 .vec .vec (25 * 256)),
      .lFadd (tL .f32 4 3 4 0 0 .imm .vec 256), .lFadd (tL .f32 0 3 4 5 0 .vec .vec 8), .lFmin (tL .f32 1 3 4 5 0 .vec .vec 0), .lFcvtI (tL .f32 0 3 4 0 0 .vec .vec 0),
      .lHadd2 (tL .bf16x2 1 3 4 5 0 .vec .vec 0), .lHadd2 (tL .f32 0 3 4 5 0 .vec .vec 0), .lCvt (tL .bf16x2 0 3 4 0 0 .vec .vec (4 * 8192)),
      .lCvt (tL .bf16x2 1 3 4 0 0 .vec .vec (3 * 8192)), .lCvt (tL .bf16x2 0 3 4 0 0 .vec .vec (3 * 8192 + 2)), .lPack (tL .bf16x2 1 3 4 5 0 .vec .vec 0),
      .lUnpk (tL .i8x4 4 3 4 0 0 .vec .vec 0), .lNqenc (tL .nq4x8 8 3 4 5 6 .vec .vec 0), .lRhash (tL .b64 0 3 4 5 6 .vec .vec 0),
      .lSrbits (tL .bf16x2 0 3 4 5 0 .vec .vec 0)].all bad = true := by decide +kernel

/-- Cross-lane forms (R203 to R209). -/
theorem test_wf_cross :
    [.lXlane (tL .b32 0x1C 3 4 5 0 .vec .vec 0), .lXlane (tL .b64 0 3 4 5 0 .vec .vec 0), .lCanvass (tL .b32 0 3 0 0 0 .vec .vec 0),
      .lCanvass (tL .b32 11 3 0 0 0 .vec .vec 0), .lRdc (tL .b32 0 3 4 0 0 .vec .vec 0), .lRdc (tL .i32 8 64 4 0 0 .vec .vec 0), .lRdcx (tL .n32 0 3 4 0 0 .vec .vec 0),
      .lRdcx (tL .n32 4 2 4 0 0 .vec .vec 0), .lScan (tL .bf16x2 0 3 4 0 0 .vec .vec 0), .lVtos (tL .b32 0 3 4 5 0 .vec .vec 0), .lVtos (tL .b32 1 64 4 0 0 .vec .vec 0),
      .lBcast (tL .b32 2 3 4 0 0 .vec .vec 0)].all bad = true := by decide +kernel

/-- Memory, atomic and copy forms (R233 to R247). -/
theorem test_wf_memory :
    [.lLd (tL .b32 0 3 4 0 0 .imm .vec 0), .lLd (tL .b32 0 3 4 6 0 .vec .vec (6 * 2 ^ 20)), .lLd (tL .b32 0 3 4 6 0 .vec .vec (2 * 2 ^ 23)),
      .lLd (tL .b32 0 3 4 7 0 .vec .vec (2 * 2 ^ 20)), .lLd (tL .b64 0 3 4 6 0 .vec .vec (2 * 2 ^ 20 + 3 * 2 ^ 23)), .lLd (tL .b32 0 3 4 6 0 .vec .vec (2 * 2 ^ 20 + 2 * 2 ^ 23 + 2 ^ 25)),
      .lSt (tL .b32 0 0 4 6 5 .vec .vec (2 * 2 ^ 20 + 2 ^ 25)), .lLdacq (tL .b32 7 3 4 6 0 .vec .vec (2 * 2 ^ 20 + 2 * 2 ^ 23)), .lLdacq (tL .b32 0 3 4 6 0 .vec .vec (2 * 2 ^ 20)),
      .lLds (tL .b32 3 3 4 0 0 .vec .vec 0), .lLds (tL .b32 4 3 4 0 0 .vec .vec 0), .lLds (tL .b32 1 4 4 0 0 .vec .vec 0), .lLdb (tL .b32 0 3 4 6 5 .vec .vec (2 * 2 ^ 20 + 2 ^ 26)),
      .lAtom (tL .i32 0 3 4 6 5 .vec .vec (2 * 2 ^ 20)), .lAtom (tL .i32 7 0 4 6 5 .vec .vec (2 * 2 ^ 20)), .lAtom (tL .b32 0 0 4 6 5 .vec .vec (2 * 2 ^ 20)),
      .lAcas (tL .i32 0 3 4 6 5 .vec .vec (2 * 2 ^ 20)), .lApush (tL .f32 0 0 4 6 5 .vec .vec (2 * 2 ^ 20 + 3 * 2 ^ 23)), .lCpl (tL .b32 0 0 4 6 5 .vec .vec (3 * 2 ^ 15 + 2 * 2 ^ 12)),
      .lCpl (tL .b32 0 0 4 6 5 .vec .vec (2 ^ 31 + 2 ^ 17 + 2 * 2 ^ 12)), .lSpatom (tL .b32 0 0 4 0 5 .vec .vec (8 * 2 ^ 23))].all bad = true := by decide +kernel

/-- Scalar modes and register blocks (R140, R331, R368): a post-increment of s0, one into its own address register, blocks that leave the
register file, `eret` to s0. -/
theorem test_wf_scalar :
    [.ld 2 3 0 (.postInc 4), .ldx 2 3 3 (.modulo 0 4), .st 2 3 0 (.postInc 4), .mld .none 61, .mldPair .none 0, .mmul .none 62, .mmt .none 0, .cpt .none 57 0,
      .cptIdx .none 0 0, .cptWs .none 57 0, .cptP .none 57 0, .xmar .none 57 0, .xred .none 60 0, .xnorm .none 59 0, .xbar .none 63 0, .eretTo 0].all bad = true := by
  decide +kernel

/-! ## Statements about scalar words: their hypotheses are met -/

/-- The S words of the small machine can issue, whatever registers they need. -/
theorem test_SReady (need : List SReg) : SReady (tState g53) (tWho g53) need := ready rfl rfl rfl need

/-- The memory of the small machine is canonical. -/
theorem test_tMem_wf : (tState g53).memOk = true := by decide +kernel

/-- The machine that is about to fetch `add s3, s2, s7`. -/
def sFetch : State := State.reset.withFetchWord 32 0x04308700

/-- StepsRunWhatTheyDecode, first clause. -/
theorem test_StepsRun_scalar :
    let k := homeCore
    let u := { sFetch with agenda := [], cycle := sFetch.cycle + 1 }
    let w := whoAt sFetch 4
    sFetch.agenda = { dt := 1, turn := .sIssue k } :: [] ∧ sFetch.powered = true ∧ (u.core k).sCycle ≠ some u.cycle ∧
      u.groupsOn k = (w.gid, w.g) :: [] ∧ u.who w.gid = some w ∧ w.g.sExited = false ∧ u.mayIssue w.g = true ∧ w.g.yields u.cycle = false ∧
      w.g.inRgn true = false ∧ w.g.late = [] ∧ u.fetchWord k w.ctx false w.g.spc = .word 0x04308700 := by decide +kernel

/-- The machine that is about to fetch `add.i32 v3, v4, v5` in a lane block of one sub-gang. -/
def lFetch : State := State.reset.withFetchWord 96 (0x007E0200 + 0x03040500 * 2 ^ 32)

/-- StepsRunWhatTheyDecode, second clause. -/
theorem test_StepsRun_lane :
    let k := homeCore
    let u := { lFetch with agenda := [], cycle := lFetch.cycle + 1 }
    let v := u.modCore k fun x => { x with laneCycle := some u.cycle, laneSlices := 0, laneGroups := [] }
    let w := whoAt lFetch 4
    lFetch.agenda = { dt := 1, turn := .lIssue k } :: [] ∧ lFetch.powered = true ∧ (u.core k).laneCycle ≠ some u.cycle ∧
      v.groupsOn k = (w.gid, w.g) :: [] ∧ v.who w.gid = some w ∧ w.g.block = some { cmd := 5, start := 0 } ∧ v.mayIssue w.g = true ∧
      w.g.inRgn false = false ∧ w.g.gangsInOrder = [(0, 0)] ∧ w.g.gangKeys = [(0, 0)] ∧
      v.fetchLane w k false 0 = (.word 0x007E0200, 0x007E0200, 0x03040500, 0) := by decide +kernel

/-- StepsRunWhatTheyDecode, fourth clause: a machine without groups takes no trap. -/
theorem test_StepsRun_noTrap : State.reset.trapped State.reset = none := by decide +kernel

/-- StepsRunWhatTheyDecode, third clause: a device step, an agenda that names a stream instruction, a package without power, an empty agenda. -/
theorem test_StepsRun_events :
    isStreamInstr .packageReset = false ∧ isStreamInstr .nop = true ∧ ({ State.reset with powered := false } : State).powered = false ∧
      State.reset.agenda = [] ∧ State.reset.powered = true := by decide +kernel

/-- ScalarWordsDecodeBackAndForth: both clauses. -/
theorem test_scalar_words : (Instr.add false 3 2 7).wf = true ∧ encodeS (.add false 3 2 7) = some 0x04308700 ∧ decodeS 0x04308700 = some (.add false 3 2 7) := by
  decide +kernel

/-- LaneWordsDecodeBackAndForth: both clauses. -/
theorem test_lane_words :
    let i := Instr.lAdd { guard := .always, feA := false, feB := false, feC := false, ty := .i32, bsel := .vec, csel := .vec, mod5 := 0, d := 3, a := 4, b := 5, c := 0, w2 := 0 }
    i.wf = true ∧ encodeL i = some (0x007E0200, 0x03040500, 0) ∧ decodeL 0x007E0200 0x03040500 0 = some i := by decide +kernel

/-- EveryStepKeepsMemoryCanonical: a state in canonical form whose step answers a next state. -/
theorem test_step_next : sFetch.memOk = true ∧ safeStep sFetch = true := by decide +kernel

/-- ScalarFrame: its hypotheses, with `add s10, s8, s9`. -/
theorem test_ScalarFrame : ∃ t, (Instr.add false 10 8 9).scalarDst = some 10 ∧ (tState g53).cur = some { gid := 4 } ∧
    aget (tState g53).groups 4 = some g53 ∧ exec (.add false 10 8 9) (tState g53) = .next t := ⟨_, rfl, rfl, rfl, rfl⟩

/-- NumbersRoundAsStated: a NaN, and the greatest finite value. -/
theorem test_NumbersRound : isNan32 0x7F800001 = true ∧ isNan32 0x7F7FFFFF = false := by decide +kernel

/-- BranchesJumpsCalls: each condition holds and fails at its boundary. -/
theorem test_BranchTaken :
    (BranchTaken .eq 5 5 ∧ ¬ BranchTaken .eq 5 4) ∧ (BranchTaken .ne 5 4 ∧ ¬ BranchTaken .ne 5 5) ∧
    (BranchTaken .ltI (BitVec.ofInt 64 (-1)) 0 ∧ ¬ BranchTaken .ltI 0 0) ∧ (BranchTaken .geI 0 0 ∧ ¬ BranchTaken .geI (BitVec.ofInt 64 (-1)) 0) ∧
    (BranchTaken .ltN 0 1 ∧ ¬ BranchTaken .ltN 1 1) ∧ (BranchTaken .geN 1 1 ∧ ¬ BranchTaken .geN 0 1) := by
  simp only [BranchTaken]; decide

/-- RegisterJumpsAndDispatch: the last index below SDLEN names an entry, the first one at SDLEN is out of range. -/
theorem test_Dispatch :
    (((tWho (tGroup 1 0)).g.sget 8).toNat % 2 ^ 32 < (tWho (tGroup 1 0)).lrec.sdlen ∧ SEntry (tState (tGroup 1 0)) (tWho (tGroup 1 0)) 1 0x30 ∧
      ((tWho (tGroup 3 0)).g.sget 8).toNat % 2 ^ 32 < (tWho (tGroup 3 0)).lrec.sdlen ∧ SEntry (tState (tGroup 3 0)) (tWho (tGroup 3 0)) 3 0) ∧
    (tWho (tGroup 4 0)).lrec.sdlen ≤ ((tWho (tGroup 4 0)).g.sget 8).toNat % 2 ^ 32 := by
  simp only [SEntry]; decide +kernel

/-- The small machine delivers a trap to its handler. -/
theorem test_Delivers : Delivers (tWho g53) := ⟨rfl, rfl, rfl, rfl, rfl, by decide⟩

/-- A group in its handler, with a stopped block. -/
def gHandler : Group :=
  { g53 with inHandler := true, trap := { rp := 0x40 }, block := some { cmd := 9, start := 0, stopped := true }, lq := [9] }

/-- TrapsAndReturns, second clause: in the handler, and without a handler. -/
theorem test_parks :
    (SReady (tState gHandler) (tWho gHandler) [8] ∧ gHandler.done = false ∧ gHandler.park = none ∧ gHandler.striking = false ∧ gHandler.inHandler = true) ∧
    (tGroup 5 3).done = false ∧ (tGroup 5 3).striking = false ∧ ({ w := [(6, dw (0xFFFFFFFF * 2 ^ 32))] } : LaunchRec).trapvec = 0xFFFFFFFF :=
  ⟨⟨ready rfl rfl rfl _, rfl, rfl, rfl, rfl⟩, rfl, rfl, by decide⟩

/-- TrapsAndReturns, third clause. -/
theorem test_returns : SReady (tState gHandler) (tWho gHandler) [8] ∧ gHandler.inHandler = true ∧ gHandler.kept = none ∧ gHandler.rejected = [] ∧
    (∀ x ∈ (tState gHandler).reqs, x.2.gid ≠ 4) ∧ gHandler.block ≠ none := ⟨ready rfl rfl rfl _, rfl, rfl, rfl, by decide, by decide⟩

/-- CsrReads: the slow CSRs at both ends of their range, and an absent one. -/
theorem test_CsrReads : SReady (tState g53) (tWho g53) [8] ∧ ((0x040 : BitVec 14) ≤ 0x040 ∧ (0x040 : BitVec 14) ≤ 0x044) ∧ ((0x040 : BitVec 14) ≤ 0x044) :=
  ⟨ready rfl rfl rfl _, by decide, by decide⟩

/-- CsrWritesAndStickyFlags: a MOD value of length 1 and one of length 0; a later cycle. -/
theorem test_CsrWrites :
    ((tGroup 0x100000000 0).sget 8).toNat / 2 ^ 32 ≠ 0 ∧ ((tGroup 0xFFFFFFFF 0).sget 8).toNat / 2 ^ 32 = 0 ∧ (0 : Nat) < 1 := by decide +kernel

/-- GuardsBlocksAndTheRest, first clause: an unresolved slot, a resolved one, one that no command names. -/
theorem test_slots :
    aget g53.guards (15 : BitVec 4).toNat = none ∧ (aget ({ g53 with guards := [(15, true)] } : Group).guards (15 : BitVec 4).toNat).isSome = true ∧
    (tState { g53 with guards := [(15, true)] }).slotNamed { g53 with guards := [(15, true)] } 15 = false := by decide +kernel

/-- A group whose L-queue holds four blocks; the first is guarded by slot 3. -/
def gFull : Group := { g53 with lq := [10, 11, 12, 13] }

/-- The small machine with those four blocks. -/
def sFull : State :=
  { tState gFull with cmds := [(10, { kind := .lrun, guard := some 3, pc := 0 }), (11, { kind := .lrun, guard := none, pc := 0 }),
    (12, { kind := .lrun, guard := none, pc := 0 }), (13, { kind := .lrun, guard := none, pc := 0 })] }

/-- GuardsBlocksAndTheRest, second clause: room for a fourth block, a full queue whose head is held by an unresolved guard, one whose head is not. -/
theorem test_lrun_queue :
    (tState { g53 with lq := [10, 11, 12] }).canEnqueue (tWho { g53 with lq := [10, 11, 12] }) 0 = true ∧ (tState g53).getPending 4 = false ∧
    gFull.lq.length = 4 ∧ sFull.headDeadlocked gFull gFull.lq = true ∧
    ({ sFull with cmds := sFull.cmds.map fun p => (p.1, { p.2 with guard := none }) } : State).headDeadlocked gFull gFull.lq = false := by decide +kernel

/-- ScalarAddress: each mode, the ring at its last place. -/
theorem test_ScalarAddress :
    ScalarAddress g53 8 (.offset 0x3FF) 4 5 ∧ ScalarAddress g53 8 (.postInc 8) 5 13 ∧
    ScalarAddress (tGroup 3 0) 8 (.modulo 0 1) 3 0 := by simp only [ScalarAddress]; decide +kernel

/-- ScalarLoads, first clause: a load from memory and one from the scratchpad. -/
theorem test_ScalarLoads_issue :
    let g := tGroup 0x100 0x40
    SReady (tState g) (tWho g) [8, 10] ∧ (tState g).getPending 4 = false ∧ ScalarAddress g 8 (.offset 8) 0x108 0x100 ∧
      ∃ us parts s1, (tState g).sUnits (tWho g) .read (g.saddr 8 (.offset 8)) (2 ^ (3 : BitVec 2).toNat) = .ok us ∧
        (tState g).loadParts (tWho g) none 0 0x108 none true us = some (parts, s1) := by
  refine ⟨ready rfl rfl rfl _, by decide +kernel, by simp only [ScalarAddress]; decide +kernel, [{ off := 0, n := 8, place := .home 0x20108, attr := {} }], _, _,
    of_okIs (by decide +kernel), rfl⟩

/-- ScalarLoads, second clause: a load and a store beyond the mapped page. -/
theorem test_ScalarLoads_fault :
    let g := tGroup 0x10000 0x40
    SReady (tState g) (tWho g) [8, 10] ∧ (tState g).getPending 4 = false ∧ g.relPend = none ∧ ScalarAddress g 8 (.offset 0) 0x10000 0x10000 ∧
      (tState g).sUnits (tWho g) .read (g.saddr 8 (.offset 0)) 1 = .error 0x06 ∧ (tState g).sUnits (tWho g) .write (g.saddr 8 (.offset 0)) 1 = .error 0x06 :=
  ⟨ready rfl rfl rfl _, by decide +kernel, rfl, by simp only [ScalarAddress]; decide +kernel, of_errIs (by decide +kernel), of_errIs (by decide +kernel)⟩

/-- ScalarStores, first clause: the last aligned doubleword of the scratchpad, in a ring of its own. -/
theorem test_ScalarStores_scratch :
    let g : Group := { tGroup 0xFF8 7 with mods := [(2, 0x0000000800000FF8)] }
    SReady (tState g) (tWho g) [8, 9] ∧ (tState g).getPending 4 = false ∧ g.relPend = none ∧ ScalarAddress g 8 (.modulo 2 8) 0xFF8 0xFF8 ∧ (0xFF8 : DWord).toNat + 2 ^ (3 : BitVec 2).toNat ≤ tRec.scratch ∧
      (0xFF8 : DWord).toNat % 2 ^ (3 : BitVec 2).toNat = 0 ∧ (tState g).spBusy 4 g (.scratch 3 0xFF8) 8 = false :=
  ⟨ready rfl rfl rfl _, by decide +kernel, rfl, by simp only [ScalarAddress]; decide +kernel, by decide +kernel, by decide +kernel, by decide +kernel⟩

/-- ScalarStores, second clause: a store to memory. -/
theorem test_ScalarStores_memory :
    let g := tGroup 0x100 7
    let us : List RUnit := [{ off := 0, n := 4, place := .home 0x20100, attr := {} }]
    SReady (tState g) (tWho g) [8, 9] ∧ (tState g).getPending 4 = false ∧ g.relPend = none ∧ ScalarAddress g 8 (.postInc 4) 0x100 0x104 ∧
      (tState g).sUnits (tWho g) .write (g.saddr 8 (.postInc 4)) 4 = .ok us ∧ us ≠ [] ∧ (∀ u ∈ us, ∀ x o, u.place ≠ .scratch x o) ∧ g.region = none :=
  ⟨ready rfl rfl rfl _, by decide +kernel, rfl, by simp only [ScalarAddress]; decide +kernel, of_okIs (by decide +kernel), by decide +kernel, by simp, rfl⟩

/-- A group in stage `n` of the word at its PC, waiting for releases `ids`, with value `v`. -/
def gHold (n : Nat) (ids : List Nat) (v : DWord) : Group := { g53 with hold := some { pc := 0, stage := n, since := 0, ids := ids, val := v } }

/-- ScalarFences: a stream at a fence, one whose release has been performed, one whose reads have been. -/
theorem test_ScalarFences :
    SReady (tState g53) (tWho g53) [] ∧ g53.hold = none ∧ g53.sQuarEmpty = true ∧
    SReady (tState (gHold 1 [9] 0)) (tWho (gHold 1 [9] 0)) [] ∧ (∀ i ∈ [9], aget (tState (gHold 1 [9] 0)).rels i = none) ∧
    (tState g53).sReadsDone 4 = true :=
  ⟨ready rfl rfl rfl _, rfl, by decide +kernel, ready rfl rfl rfl _, by decide +kernel, by decide +kernel⟩

/-- ScalarFences: the first store after a release fence. -/
theorem test_ScalarFences_store :
    let g : Group := { tGroup 0x100 7 with relPend := some .clu }
    SReady (tState g) (tWho g) [8, 9] ∧ (tState g).getPending 4 = false ∧ g.hold = none ∧ g.sQuarEmpty = true ∧ g.relPend = some .clu :=
  ⟨ready rfl rfl rfl _, by decide +kernel, rfl, rfl, rfl⟩

/-- The group of the barrier tests: s8 names the barrier at 0xFE0, the last place in the scratchpad, s9 is a phase. -/
def gBar (n : DWord) : Group := tGroup 0xFE0 n

/-- The team with a barrier object at 0xFE0 of phase 5 that expects one arrival. -/
def tBarTeam : Team :=
  { tTeam with sp := [(0xFE0, { b := 5 }), (0xFE1, { b := 0 }), (0xFE2, { b := 0 }), (0xFE3, { b := 0 }), (0xFE4, { b := 1 }), (0xFE5, { b := 0 }),
      (0xFE6, { b := 0 }), (0xFE7, { b := 0 })] ++ (List.range 24).map fun i => (0xFE8 + i, { b := 0 }) }

/-- The small machine with that barrier object. -/
def sBarrier (g : Group) : State := { tState g with teams := [(3, tBarTeam)] }

/-- BarrierTests: phase 5 stands; 4 has passed, 5 has not. -/
theorem test_BarrierTests :
    let s := sBarrier (gBar 4)
    let w := whoAt s 4
    let t := tBarTeam
    SReady s w [8, 9, 10] ∧ s.getPending 4 = false ∧ s.sBar w 8 = some (3, 0xFE0) ∧ aget s.teams 3 = some t ∧ s.spBusy 4 w.g (.scratch 3 0xFE0) 32 = false ∧
      t.spPoisoned 0xFE0 4 = false ∧ t.spPoisoned (0xFE0 + 12) 4 = false ∧ leNat (t.spRead 0xFE0 4) = 5 ∧
      (5 + 2 ^ 33 - ((gBar 4).sget 9).toNat % 2 ^ 32 - 1) % 2 ^ 32 < 2 ^ 31 ∧ ¬ (5 + 2 ^ 33 - ((gBar 5).sget 9).toNat % 2 ^ 32 - 1) % 2 ^ 32 < 2 ^ 31 :=
  ⟨ready rfl rfl rfl _, by decide +kernel, by decide +kernel, by decide +kernel, by decide +kernel, by decide +kernel, by decide +kernel, by decide +kernel,
    by decide +kernel, by decide +kernel⟩

/-- BarrierWordsEventsAndRegions, first clause: the least and the greatest value that `binit` takes, values with a reserved bit and with SCOPE 7, a bad address. -/
theorem test_BarrierWords :
    (tState (gBar 0)).getPending 4 = false ∧ (gBar 0).relPend = none ∧ (gBar 0).region = none ∧ (tState (gBar 0)).sBar (tWho (gBar 0)) 8 = some (3, 0xFE0) ∧
    ¬ ((0 : DWord).toNat / 2 ^ 36 ≠ 0 ∨ (0 : DWord).toNat / 2 ^ 32 % 8 = 7) ∧ ¬ ((0xEFFFFFFFF : DWord).toNat / 2 ^ 36 ≠ 0 ∨ (0xEFFFFFFFF : DWord).toNat / 2 ^ 32 % 8 = 7) ∧
    (0x1000000000 : DWord).toNat / 2 ^ 36 ≠ 0 ∧ (0x700000000 : DWord).toNat / 2 ^ 32 % 8 = 7 ∧ (tState (tGroup 0x1000 0)).sBar (tWho (tGroup 0x1000 0)) 8 = none := by
  decide +kernel

/-- A record that `klaunch` has read: 128 bytes. -/
def tRead : Req :=
  { gid := 4, lane := false, pc := 0, lpc := 0xFFFFFFFF, dst := .record, core := homeCore, ctx := 0
    parts := [{ lane := 0, n := 128, ea := 0x100, place := .home 0x20100, gen := 0, value := some (List.replicate 128 0) }] }

/-- BarrierWordsEventsAndRegions, second clause: `evset` and `klaunch` in their last stages. -/
theorem test_EventsLaunches :
    let e := tState (gHold 4 [9] 0)
    let k := { tState (gHold 3 [6] 2) with reqs := [(6, tRead)] }
    SReady e (tWho (gHold 4 [9] 0)) [8, 10] ∧ (∀ i ∈ [9], aget e.rels i = none) ∧ (gHold 4 [9] 0).region = none ∧
    64 ≤ (({ e with ctxs := [(0, { kq := List.replicate 64 { lrec := tRec, slot := 0 } })] } : State).ctx 0).kq.length ∧
    SReady k (tWho (gHold 3 [6] 2)) [8, 10] ∧ (∀ i ∈ [6], aget k.rels i = none) ∧ aget k.reqs 6 = some tRead ∧ tRead.parts.all Part.settled = true ∧
    (∀ x ∈ tRead.parts, x.reject = none) ∧ (k.ctx 0).kq.length < 64 :=
  ⟨ready rfl rfl rfl _, by decide +kernel, rfl, by decide +kernel, ready rfl rfl rfl _, by decide +kernel, by decide +kernel, by decide +kernel, by decide +kernel,
    by decide +kernel⟩

/-- A launch record with RGN = 1. -/
def tRgnRec : LaunchRec := { w := aset tRec.w 10 (dw (64 * 2 ^ 32 + 2 ^ 17)) }

/-- The small machine with RGN = 1. -/
def sRgn (g : Group) : State := { tState g with launches := [(1, { tLaunch with lrec := tRgnRec })] }

/-- BarrierWordsEventsAndRegions, third clause. -/
theorem test_Rgn :
    (tWho g53).lrec.rgn = false ∧ SReady (sRgn g53) (whoAt (sRgn g53) 4) [] ∧ (whoAt (sRgn g53) 4).lrec.rgn = true ∧ g53.hold = none ∧
    (whoAt (sRgn (gHold 10 [] 0)) 4).lrec.rgn = true ∧ SReady (sRgn (gHold 10 [] 0)) (whoAt (sRgn (gHold 10 [] 0)) 4) [] ∧
    (sRgn (gHold 10 [] 0)).producersLanded 4 (gHold 10 [] 0) = true :=
  ⟨by decide +kernel, ready rfl rfl rfl _, by decide +kernel, rfl, by decide +kernel, ready rfl rfl rfl _, by decide +kernel⟩

/-- A group whose registers from s16 on hold `vs`. -/
def gRegs (vs : List DWord) : Group := { g53 with sregs := vs.zipIdx.map fun p => (16 + p.2, p.1) }

/-- The command that reads s16 on can issue. -/
theorem commandReady (vs : List DWord) (k : CmdKind) (regs : List SReg) (dst : SReg)
    (hp : (tState (gRegs vs)).getPending 4 = false) (hq : ∀ q ∈ k.queues, (tState (gRegs vs)).canEnqueue (tWho (gRegs vs)) q = true) :
    CommandReady (tState (gRegs vs)) (tWho (gRegs vs)) k regs dst :=
  ⟨ready rfl rfl rfl _, hp, by simp only [State.dstReady]; rw [Bool.or_eq_true]; exact Or.inl (full_all rfl dst), hq, rfl⟩

/-- EngineCommandsAreEnqueued: one good record for each command. -/
theorem test_CommandReady :
    CommandReady (tState (gRegs [])) (tWho (gRegs [])) .mld (recordRegs 16 4) 0 ∧ CommandReady (tState (gRegs [])) (tWho (gRegs [])) .ofence [] 0 ∧
    CommandReady (tState (gRegs [])) (tWho (gRegs [])) .xmar (recordRegs 16 8) 10 ∧ CommandReady (tState (gRegs [])) (tWho (gRegs [])) .pbar [] 63 :=
  ⟨commandReady _ _ _ _ (by decide +kernel) (by decide +kernel), commandReady _ _ _ _ (by decide +kernel) (by decide +kernel),
    commandReady _ _ _ _ (by decide +kernel) (by decide +kernel), commandReady _ _ _ _ (by decide +kernel) (by decide +kernel)⟩

/-- EngineCommandsAreEnqueued: good records of matrix and copy commands, and records whose first bad register is the one named. -/
theorem test_command_records :
    let w := tWho g53
    let copy : List DWord := [0x100, 0x200, 0x0000010001000001, 0, 0, 0x800000, 0, 0]
    let idx : List DWord := [0x100, 0x200, 0x0000010001000001, 1, 0, 0x800000, 0x300, 0]
    mldBad w [0x100, 0, 0, 0] = none ∧ mldBad w [0x101, 0, 0, 0] = some 0 ∧ mldBad w [0x100, 1, 0, 0] = some 1 ∧ mldBad w [0x100, 0, 1, 0] = some 2 ∧
    mldBad w [0x100, 0x300000000, 0, 4] = none ∧ mldBad w [0x100, 0x300000000, 0, 2] = some 3 ∧
    mmulBad w [0, 0x40, 0x100000000] = none ∧ mmulBad w [1, 0x40, 0x100000000] = some 0 ∧ mmulBad w [0, 0x41, 0x100000000] = some 1 ∧ mmulBad w [0, 0x40, 0] = some 2 ∧
    mfenceBad w [0x800000] = none ∧ mfenceBad w [0x7000000] = some 0 ∧ mfenceBad w [0xFE0] = none ∧ mfenceBad w [0x1000] = some 0 ∧
    copyBad .cpt w copy = none ∧ copyBad .cptWs w copy = none ∧ copyBad .cptP w copy = none ∧ copyBad .cptIdx w idx = none ∧
    copyBad .cpt w (copy.set 7 1) = some 7 ∧ copyBad .cptWs w (copy.set 2 0) = some 2 ∧ copyBad .cptP w (copy.set 5 0x18800000) = some 5 ∧
    copyBad .cptIdx w (idx.set 6 0x301) = some 6 := by decide +kernel

/-- EngineCommandsAreEnqueued: good records of collective commands at package 0, and records whose first bad register is the one named. -/
theorem test_collective_records :
    let w := tWho g53
    let mar : List DWord := [0x100, 0x200, 0x0001000100010002, 0x0001000100010001, 0x0000000000000001, 0x1, 0x0000040000200001, 0x800000]
    xmarBad 0 w mar = none ∧ xmarBad 0 w (mar.set 0 0x101) = some 0 ∧ xmarBad 0 w (mar.set 4 0x0000000100000000) = some 3 ∧
    xredBad 0 w [0x100, 0x200, 0x30001, 0, 0x800000] = none ∧ xredBad 0 w [0x102, 0x200, 0x30001, 0, 0x800000] = some 0 ∧ xredBad 0 w [0x100, 0x200, 0x30000, 0, 0x800000] = some 2 ∧
    xnormBad 0 w [0, 0x3F800000, 0, 0, 0, 0x800000] = none ∧ xnormBad 0 w [0, 0, 0, 0, 0, 0x800000] = some 1 ∧
    xbarBad 0 w [0, 0x800000] = none ∧ xbarBad 0 w [0x100000000, 0x800000] = some 0 ∧ xbarBad 0 w [0, 0x1000000000] = some 1 := by decide +kernel

/-- The right-hand core of a cluster of two is the follower of `mld.pair`. -/
theorem test_pair_follower : tTeam.member % (2 : Nat) + 1 < 2 := by decide +kernel

/-- RoundFloor: the last region. -/
theorem test_RoundFloor : SReady (tState (tGroup 4095 7)) (tWho (tGroup 4095 7)) [8, 9, 10] ∧ ((tGroup 4095 7).sget 8).toNat < 4096 ∧ (tGroup 4095 7).region = none :=
  ⟨ready rfl rfl rfl _, by decide +kernel, rfl⟩

/-- The small machine with region record 0 of context 0 at physical 0x30000: two slots, base 0x8000, 128 bytes, RC = 5, both slots registered. -/
def sRegion0 (g : Group) : State :=
  { tState g with
    mem := tMem ++ [(0x30000, 0x01), (0x30001, 0x02), (0x30009, 0x80), (0x30010, 0x80), (0x30018, 0x05), (0x30020, 0x03)]
    cores := [(0, { tlb := [{ ctx := 0, gen := 0, base := 0x1FFFFFFFFB80000, size := 65536, leaf := 0x30007 }] })] }

/-- The record of that region. -/
def tRegion : RegionRec := { pa := 0x30000, p := 2, base := 0x8000, len := 128, rc := 5, reg := 3, arr := 0, ret := 0 }

/-- The group of the round tests: s8 = `i`, s9 = 1, in stage 54 of `rnd.adv` waiting for round `v`. -/
def gAdv (i v : DWord) : Group := { tGroup i 1 with hold := some { pc := 0, stage := 54, since := 0, val := v } }

/-- A group inside a region whose first S instruction was released before a strike and logged the value 9. -/
def gReplay (g : Group) : Group := { g with region := some { ck := g.checkpoint 0 [], rs := 1, log := [{ lane := none, ordinal := 1, value := 9 }] } }

/-- RoundInstructions: the record readable, its arrival allowed; RC has reached round 5 and not 6; the first number that is illegal. -/
theorem test_RoundInstructions :
    let s := sRegion0 (tGroup 0 1)
    let h := fun v => sRegion0 (gAdv 0 v)
    SReady s (tWho (tGroup 0 1)) [8, 9, 10] ∧ ((tGroup 0 1).sget 8).toNat < 4096 ∧ (∃ l, s.regionPa homeCore 0 0 = .leaf l ∧ l.pkg = s.self) ∧ (tGroup 0 1).hold = none ∧
    (tGroup 0 1).region = none ∧ s.seenRecord (tWho (tGroup 0 1)) 0 = some (.valid tRegion) ∧ advFault (.valid tRegion) 0 1 = none ∧
    SReady (h 5) (tWho (gAdv 0 5)) [8, 9] ∧ (h 5).seenRecord (tWho (gAdv 0 5)) 0 = some (.valid tRegion) ∧ (5 : DWord).toNat ≤ tRegion.rc.toNat ∧
    SReady (h 6) (tWho (gAdv 0 6)) [8, 9] ∧ (h 6).seenRecord (tWho (gAdv 0 6)) 0 = some (.valid tRegion) ∧ tRegion.rc.toNat < (6 : DWord).toNat ∧
    4096 ≤ ((tGroup 4096 1).sget 8).toNat ∧ SReady (tState (tGroup 4096 1)) (tWho (tGroup 4096 1)) [8, 9, 10] :=
  ⟨ready rfl rfl rfl _, by decide +kernel, ⟨_, rfl, rfl⟩, rfl, rfl, by decide +kernel, by decide +kernel, ready rfl rfl rfl _, by decide +kernel, by decide +kernel,
    ready rfl rfl rfl _, by decide +kernel, by decide +kernel, by decide +kernel, ready rfl rfl rfl _⟩

/-- RoundInstructions: replays of a `rnd.reg` and of an `rnd.adv` that were released. -/
theorem test_RoundReplays :
    let g := gReplay (tGroup 0 1)
    let k := gReplay { tGroup 0 1 with hold := some { pc := 0, stage := 50, since := 0 } }
    ∃ r l x, SReady (sRegion0 g) (tWho g) [8, 9, 10] ∧ (sRegion0 g).regionPa homeCore 0 0 = .leaf l ∧ g.hold = none ∧ g.region = some r ∧ g.logFull = false ∧
      r.performed 0 (r.sOrd + 1) = true ∧ SReady (sRegion0 k) (tWho k) [8, 9] ∧ (k.hold.map (·.stage)) = some 50 ∧ k.lq = [] ∧ (k.region.map fun y => y.performed 0 (y.sOrd + 1)) = some true ∧
      (sRegion0 k).seenRecord (tWho k) 0 = some (.valid x) ∧ x.arr.getLsbD ((k.sget 9).toNat - 1) = false :=
  ⟨_, _, tRegion, ready rfl rfl rfl _, rfl, rfl, rfl, by decide +kernel, by decide +kernel, ready rfl rfl rfl _, rfl, rfl, by decide +kernel, by decide +kernel, by decide +kernel⟩

/-! ## Statements about lane instructions: their hypotheses are met -/

/-- What `LaneReady` asks, as one check. -/
def laneReadyB (s : State) (f : LF) (n : Need) (c : LaneCtx) : Bool :=
  decide (s.cur = some { gid := c.who.gid, sub := some (c.pc, c.depth) }) && decide (s.who c.who.gid = some c.who) &&
  decide (c.slices = c.who.g.gang c.pc c.depth) && decide (c.lanes = c.who.g.gangLanes c.slices) &&
  decide (c.act = c.lanes.filter fun l => guardHolds f.guard (c.who.g.lane l)) && decide (c.lanes ≠ []) && decide ((c.who.g.gangRec c.pc c.depth).pend = none) &&
  decide (s.predPending c.who.gid c.lanes = false) && decide (∀ k ∈ n.dst ++ n.keep ++ n.a ++ n.b ++ n.c, k < c.who.lrec.regsAlloc) &&
  decide (n.illegal c = false) && decide (n.gather = true → c.gathered = true) && decide (∀ k ∈ n.dst ++ n.keep, c.who.g.vfull k = true) &&
  decide (∀ d ∈ n.sdst, s.dstReady c.who.gid c.who.g d = true) && decide (∀ k ∈ n.a ++ n.b ++ n.c, c.who.g.vfull k = true) &&
  decide (∀ r ∈ scalarSrc f.bsel f.b ++ scalarSrc f.csel f.c, c.who.g.sfull r = true)

theorem laneReady {s : State} {f : LF} {n : Need} {c : LaneCtx} (h : laneReadyB s f n c = true) : LaneReady s f n c := by
  simp only [laneReadyB, Bool.and_eq_true, decide_eq_true_eq] at h
  obtain ⟨⟨⟨⟨⟨⟨⟨⟨⟨⟨⟨⟨⟨⟨h1, h2⟩, h3⟩, h4⟩, h5⟩, h6⟩, h0⟩, h7⟩, h8⟩, h9⟩, h10⟩, h11⟩, h12⟩, h13⟩, h14⟩ := h
  exact ⟨h1, h2, h3, h4, h5, h6, h0, h7, h8, h9, h10, h11, h12, h13, h14⟩

/-- A lane with v4 to v11 written: v6 = a, v8 = b, v10 = c. -/
def tLane (l : Nat) (a b c : Word) : Lane :=
  { regs := [(0, w32 l), (1, 0), (4, 0x44444444), (5, 0x55555555), (6, a), (7, 0), (8, b), (9, 0), (10, c), (11, 0)] }

/-- The group of the lane tests: one block at offset 0 in all 16 lanes. -/
def lGroup (a b c : Nat → Word) : Group :=
  { g53 with
    block := some { cmd := 9, start := 0 }, lq := [9]
    slices := (List.range 4).map fun i => (i, [{ pc := 0, depth := 0, mask := 15 }])
    lanes := (List.range 16).map fun l => (l, tLane l (a l) (b l) (c l)) }

/-- The small machine whose group issues a lane instruction. -/
def lState (g : Group) : State :=
  { tState g with cmds := [(9, { kind := .lrun, guard := none, pc := 0, released := true, started := true })], cur := some { gid := 4, sub := some (0, 0) } }

/-- The sub-gang at (`pc`, `depth`) that issues an instruction of fields `f`. -/
def ctxOf (s : State) (f : LF) (pc : Word) (depth : Nat) : LaneCtx :=
  let w := whoAt s 4
  let slices := w.g.gang pc depth
  let lanes := w.g.gangLanes slices
  { who := w, pc := pc, depth := depth, slices := slices, lanes := lanes, act := lanes.filter fun l => guardHolds f.guard (w.g.lane l) }

/-- Fields with destination 4, sources 6, 8 and 10. -/
def tF (ty : LTy) (mod5 : Nat) (w2 : Nat) (bs cs : Sel := .vec) : LF :=
  { guard := .always, feA := false, feB := false, feC := false, ty := ty, bsel := bs, csel := cs, mod5 := BitVec.ofNat 5 mod5, d := 4, a := 6, b := 8, c := 10
    w2 := w32 w2 }

/-- The group that most lane tests use. -/
def lg : Group := lGroup (fun l => w32 l) (fun _ => 3) (fun _ => 7)

/-- The sub-gang of that group stands ready for the fields `f` and the need `n`. -/
def lReady (f : LF) (n : Need) : Bool := laneReadyB (lState lg) f n (ctxOf (lState lg) f 0 0)

/-- Whether it stands ready depends on the guard and the registers alone, not on the type, the modifiers or W2. -/
theorem lReady_fields (ty : LTy) (m w2 : Nat) (bs cs : Sel) (n : Need) : lReady (tF ty m w2 bs cs) n = lReady (tF .b32 0 0 bs cs) n := by
  rfl

/-- LaneIntegers, LaneFieldsAndMad, LaneWideProductsAndMoves, LanePredicates, LaneFloatingPoint, LaneConversionsAndPacking and the lane clauses of
LaneExchangesAndReductions: a sub-gang stands ready, for every type, select of B, modifier and set of 32-bit operands. -/
theorem test_LaneReady (ty : LTy) (m w2 : Nat) :
    ∀ bs ∈ [Sel.vec, .scalar, .imm], ∀ d ∈ [true, false], ∀ u ∈ [(false, false, false), (true, false, false), (true, true, false), (true, true, true), (false, true, false)],
      lReady (tF ty m w2 bs) (needs (tF .b32 0 0 bs) d u.1 u.2.1 u.2.2) = true ∧ needs (tF ty m w2 bs) d u.1 u.2.1 u.2.2 = needs (tF .b32 0 0 bs) d u.1 u.2.1 u.2.2 := by
  have h : ∀ bs ∈ [Sel.vec, .scalar, .imm], ∀ d ∈ [true, false], ∀ u ∈ [(false, false, false), (true, false, false), (true, true, false), (true, true, true), (false, true, false)],
      lReady (tF .b32 0 0 bs) (needs (tF .b32 0 0 bs) d u.1 u.2.1 u.2.2) = true := by decide +kernel
  intro bs hb d hd u hu
  exact ⟨(lReady_fields ty m w2 bs .vec _).trans (h bs hb d hd u hu), rfl⟩

/-- The same for pairs: `madw`, 64-bit moves and selections, `rhash`, `rdcx`, 64-bit exchanges, and for an instruction without operands. -/
theorem test_LaneReady_pairs (ty : LTy) (m w2 : Nat) :
    let f := tF .b32 0 0
    ∀ n ∈ [needOf f { d := true, a := true, b := true, c := true } true false false true, needOf f { d := true, b := true } true false true false,
      needOf f { d := true, a := true, b := true } true true true false, needOf f { d := true, a := true, b := true, c := true } true true false false,
      needOf f { d := true } true false false false, needOf f { d := true, a := true, b := true } true false false false, {}], lReady (tF ty m w2) n = true := by
  intro f n hn
  refine (lReady_fields ty m w2 .vec .vec n).trans ?_
  have h : lReady f (needOf f { d := true, a := true, b := true, c := true } true false false true) = true ∧ lReady f (needOf f { d := true, b := true } true false true false) = true ∧
      lReady f (needOf f { d := true, a := true, b := true } true true true false) = true ∧ lReady f (needOf f { d := true, a := true, b := true, c := true } true true false false) = true ∧
      lReady f (needOf f { d := true } true false false false) = true ∧ lReady f (needOf f { d := true, a := true, b := true } true false false false) = true ∧ lReady f {} = true := by
    decide +kernel
  simp only [List.mem_cons, List.not_mem_nil, or_false] at hn
  rcases hn with rfl | rfl | rfl | rfl | rfl | rfl | rfl <;> simp only [h, f]

/-- The same for a scalar destination (R202). -/
theorem test_LaneReady_scalar :
    let f := tF .b32 8 0
    lReady f (gathers f (needs f false true false false)) = true ∧ lReady f (gathers f (needOf f { a := true, b := true } false false false false)) = true ∧
      lReady f (gathers f (needOf f { a := true, b := true } false true false false)) = true := by decide +kernel

/-- LanePredicates: the last predicate that a field may name. -/
theorem test_LanePredicates : (tF .i32 0 23).w2.toNat / 2 ^ 0 % 32 < 24 := by decide +kernel

/-- LaneWideProductsAndMoves: each code of `sreg`. -/
theorem test_sreg_codes : ∀ k ∈ [0, 1, 2, 3, 4, 5, 6, 7, 8, 9, 10], (tF .b32 k 0).mod5.toNat = k := by decide +kernel

/-- LaneConversionsAndPacking: the fields of `cvt`, the last parts of `pack` and `unpk`, the elements of `srbits`. -/
theorem test_conversion_fields :
    ((tF .bf16x2 0 (3 * 2 ^ 13 + 1)).w2.toNat % 4 = 1 ∧ (tF .bf16x2 0 (3 * 2 ^ 13 + 1)).w2.toNat / 2 ^ 13 % 16 = 3) ∧
    ((tF .f32 0 (4 * 2 ^ 13 + 1)).w2.toNat % 4 = 1 ∧ (tF .f32 0 (4 * 2 ^ 13 + 1)).w2.toNat / 2 ^ 13 % 16 = 4) ∧
    ((tF .nq4x8 3 0).mod5.toNat < 4 ∧ 2 * (tF .nq4x8 3 0).mod5.toNat < LTy.nq4x8.elems) ∧ ((tF .bf16x2 0 0).mod5.toNat < 4 ∧ 2 * (tF .bf16x2 0 0).mod5.toNat < LTy.bf16x2.elems) ∧
    ((tF .nq4x8 7 0).mod5.toNat < LTy.nq4x8.elems ∧ (tF .i8x4 3 0).mod5.toNat < LTy.i8x4.elems) ∧ (tF .bf16x2 1 0).mod5.toNat % 4 < 2 := by decide +kernel

/-- LaneFloatingPoint: the last rounding code that `frint` takes, and random rounding, which is code 4. -/
theorem test_rounding_codes : (tF .f32 3 0).mod5.toNat % 8 < 4 ∧ (tF .f32 4 0).mod5.toNat % 8 = 4 := by decide +kernel

/-- The group of the lane tests at depth `k`. -/
def lDeep (k : Nat) : Group := { lg with slices := (List.range 4).map fun i => (i, [{ pc := 0, depth := k, mask := 15 }]) }

/-- The small machine whose group issues at depth `k`. -/
def lStateAt (k : Nat) : State := { lState (lDeep k) with cur := some { gid := 4, sub := some (0, k) } }

/-- LaneControl, first clause: depth 62 may go deeper, depth 1 may rise; depth 63 and depth 0 trap; and the team has no live barrier. -/
theorem test_LaneControl_depth :
    let f := tF .b32 0 5
    (laneReadyB (lStateAt 62) f { dst := [f.d.toNat] } (ctxOf (lStateAt 62) f 0 62) = true ∧ (ctxOf (lStateAt 62) f 0 62).depth < 63) ∧
    (laneReadyB (lStateAt 1) f { a := [f.a.toNat] } (ctxOf (lStateAt 1) f 0 1) = true ∧ 0 < (ctxOf (lStateAt 1) f 0 1).depth) ∧
    (laneReadyB (lStateAt 63) f { dst := [f.d.toNat] } (ctxOf (lStateAt 63) f 0 63) = true ∧ (ctxOf (lStateAt 63) f 0 63).depth = 63 ∧ (ctxOf (lStateAt 63) f 0 63).act ≠ []) ∧
    (laneReadyB (lStateAt 0) f { a := [f.a.toNat] } (ctxOf (lStateAt 0) f 0 0) = true ∧ (ctxOf (lStateAt 0) f 0 0).depth = 0 ∧ (ctxOf (lStateAt 0) f 0 0).act ≠ []) ∧
    (whoAt (lStateAt 0) 4).team.liveBars = [] := by decide +kernel

/-- LaneTraps: the group delivers and its S-stream is between words. -/
theorem test_LaneTraps_delivers : Delivers (whoAt (lState lg) 4) ∧ (whoAt (lState lg) 4).g.inWord = false := ⟨⟨rfl, rfl, rfl, rfl, rfl, by decide +kernel⟩, by decide +kernel⟩

/-- A group of which lanes 0 and 1 alone have not exited: a, b and c in v6, v8 and v10. -/
def lTwo (a b c : Nat → Word) : Group :=
  { lGroup a b c with
    slices := [(0, [{ pc := 0, depth := 0, mask := 3 }])]
    lanes := (List.range 16).map fun l => (l, { tLane l (a l) (b l) (c l) with life := if l < 2 then .live else .exited }) }

/-- A group of two lanes that hold the dispatch index `k` in v6. -/
def lIndex (k : Word) : Group := lTwo (fun _ => k) (fun _ => 3) (fun _ => 7)

/-- LaneControl, second clause: the last index below LDLEN with its entry. -/
theorem test_LaneControl_dispatch :
    let f := tF .b32 0 0
    let s := lState (lIndex 3)
    let c := ctxOf s f 0 0
    laneReadyB s f { dst := [f.d.toNat], a := [f.a.toNat] } c = true ∧ (∀ l ∈ c.act, (srcA f c l).toNat < tRec.ldlen ∧
      s.fetchWord homeCore 0 false (BitVec.ofNat 64 (tRec.ldtab.toNat + 4 * (srcA f c l).toNat)) = .word 0) ∧ c.depth < 63 := by decide +kernel

/-- The first index at LDLEN. -/
theorem test_LaneControl_range :
    let f := tF .b32 0 0
    let s := lState (lIndex 4)
    let c := ctxOf s f 0 0
    laneReadyB s f { dst := [f.d.toNat], a := [f.a.toNat] } c = true ∧ laneReadyB s f { a := [f.a.toNat] } c = true ∧ c.act = 0 :: [1] ∧
      tRec.ldlen ≤ (srcA f c 0).toNat := by decide +kernel

/-- Fields whose guard p0 holds for no lane. -/
def tNever (f : LF) : LF := { f with guard := .pred 0 false }

/-- A group whose slices stand apart: slices 2 and 3 are at offset 9. -/
def lApart : Group := { lg with slices := (List.range 4).map fun i => (i, [{ pc := if i < 2 then 0 else 9, depth := 0, mask := 15 }]) }

/-- LaneControl, third clause. -/
theorem test_LaneControl_rest :
    let f := tF .b32 0 6
    let a := lState lApart
    let ca := ctxOf a f 0 0
    let r := { lState lApart with groups := [(4, { lApart with gangs := [{ pc := 0, depth := 0, regang := some 0 }] })] }
    let rg := { lState lg with launches := [(1, { tLaunch with lrec := tRgnRec })] }
    ((ctxOf (lState lg) f 0 0).act = 0 :: (List.range 16).tail ∧ lReady f { a := [f.a.toNat] } = true) ∧
    ((ctxOf (lState lg) (tNever f) 0 0).act = [] ∧ lReady (tNever f) { a := [f.a.toNat] } = true) ∧
    laneReadyB (lState lg) lfNone {} (ctxOf (lState lg) lfNone 0 0) = true ∧
    (lReady { f with d := 64 } {} = true ∧ tRec.regsAlloc ≤ ({ f with d := 64 } : LF).d.toNat) ∧
    (lReady f {} = true ∧ (ctxOf (lState lg) f 0 0).gathered = true) ∧
    (laneReadyB r f {} (ctxOf r f 0 0) = true ∧ ((ctxOf r f 0 0).who.g.gangRec 0 0).regang = some 0 ∧ 0 ≤ r.cycle) ∧
    (laneReadyB a f {} ca = true ∧ ca.gathered = false ∧ (ca.who.g.gangRec 0 0).regang = none ∧ f.w2 ≠ 0) ∧
    (whoAt (lState lg) 4).lrec.rgn = false ∧
    (laneReadyB rg f {} (ctxOf rg f 0 0) = true ∧ (whoAt rg 4).lrec.rgn = true ∧ (ctxOf rg f 0 0).gathered = true ∧ (whoAt rg 4).g.inWord = false ∧
      (whoAt rg 4).g.lrgn = none) := by decide +kernel

/-- LaneControl: an `rgn` of slices that stand apart, and one that has waited for its producers, which have landed. -/
theorem test_LaneControl_region :
    let f := tF .b32 0 6
    let a := { lState lApart with launches := [(1, { tLaunch with lrec := tRgnRec })] }
    let g : Group := { lg with lrgn := some { pc := 0, stage := 0, since := 0 } }
    let r := { lState g with launches := [(1, { tLaunch with lrec := tRgnRec })] }
    (laneReadyB a f {} (ctxOf a f 0 0) = true ∧ (whoAt a 4).lrec.rgn = true ∧ (ctxOf a f 0 0).gathered = false) ∧
    (laneReadyB r f {} (ctxOf r f 0 0) = true ∧ (whoAt r 4).lrec.rgn = true ∧ (ctxOf r f 0 0).gathered = true ∧ (whoAt r 4).g.inWord = false ∧
      (whoAt r 4).g.lrgn.map (·.stage) = some 0 ∧ r.producersLanded 4 (whoAt r 4).g = true) := by decide +kernel

/-- Both lanes name the barrier at 0xFE0 in v8 and wait for phase `n`. -/
def lBar (n : Word) : Group := lTwo (fun _ => 0) (fun _ => 0xFE0) (fun _ => n)

/-- The small machine with a barrier object of phase 5 at 0xFE0, whose group issues a lane instruction. -/
def lBarrier (g : Group) : State := { lState g with teams := [(3, tBarTeam)] }

/-- LaneBarriersAndFences: an arrival, a phase that has passed and one that has not. -/
theorem test_LaneBarriers :
    let f := tF .n32 0 0
    let s := lBarrier (lBar 4)
    let c := ctxOf s f 0 0
    let bs := [(0, (3, 0xFE0)), (1, (3, 0xFE0))]
    s.laneAcqPending 4 c.act = false ∧ laneReadyB s f (needs f false false true false) c = true ∧ laneReadyB s f (needs f false false true true) c = true ∧
      okIs (s.laneBars c f c.act) bs = true ∧ c.who.g.region = none ∧ c.act ≠ [] ∧ s.laneWaits c f bs = none := by decide +kernel

theorem test_LaneBarriers_wait :
    let f := tF .n32 0 0
    let s := lBarrier (lBar 5)
    let c := ctxOf s f 0 0
    let bs := [(0, (3, 0xFE0)), (1, (3, 0xFE0))]
    s.laneAcqPending 4 c.act = false ∧ laneReadyB s f (needs f false false true true) c = true ∧ okIs (s.laneBars c f c.act) bs = true ∧ s.laneWaits c f bs = some 0 := by
  decide +kernel

/-- The group of the fence tests: its fence has begun release 6 for all lanes. -/
def lFence : Group := { lg with gangs := [{ pc := 0, depth := 0, rel := some (6, List.range 16) }] }

theorem test_LaneFences :
    let f := tF .b32 2 0
    let q := tF .b32 10 0
    let s := lState lFence
    let c := ctxOf s f 0 0
    (laneReadyB s f {} c = true ∧ c.act ≠ [] ∧ f.mod5.toNat / 8 ≠ 1 ∧ (c.who.g.gangRec 0 0).rel = some (6, c.act) ∧ aget s.rels 6 = none) ∧
    (laneReadyB s q {} (ctxOf s q 0 0) = true ∧ q.mod5.toNat / 8 = 1 ∧ s.laneReadsDone 4 (ctxOf s q 0 0).act = true) ∧
    (lReady (tNever f) {} = true ∧ (ctxOf (lState lg) (tNever f) 0 0).act = []) := by decide +kernel

/-- LaneExchangesAndReductions: segments up to the width fit, the modes and both kinds of destination, 16 lanes are 2^4. -/
theorem test_LaneExchanges :
    let fits := fun (f : LF) (m : Need) => { m with illegal := fun c => decide (c.who.g.width < 2 ^ (f.mod5.toNat / 4)) }
    let x := tF .b32 (4 * 4 + 3) 0
    let y := tF .b64 0 0
    lReady x (fits x (needs x true true true false)) = true ∧ lReady y (fits y (needOf y { d := true, a := true, b := true } true true false false)) = true ∧
    ((tF .b32 2 23).mod5.toNat % 4 < 3 ∧ (tF .b32 2 23).w2.toNat % 32 < 24) ∧ ((tF .b32 3 0).mod5.toNat % 4 = 3 ∧ (tF .b32 3 0).mod5.getLsbD 3 = false) ∧
    ((tF .b32 11 0).mod5.toNat % 4 = 3 ∧ (tF .b32 11 0).mod5.getLsbD 3 = true) ∧ lg.width = 2 ^ 4 ∧ (tF .i32 8 0).mod5.getLsbD 3 = true := by decide +kernel

/-- Each type takes its first and its last operation. -/
theorem test_reductionLegal :
    reductionLegal 0 .i32 ∧ reductionLegal 2 .n32 ∧ reductionLegal 0 .f32 ∧ reductionLegal 2 .bf16x2 ∧ reductionLegal 3 .b32 ∧ reductionLegal 5 .b32 := by
  simp only [reductionLegal]; decide

/-- `rdcx.f32` where every active lane holds a NaN and some lane is not active. -/
theorem test_rdcx_nan :
    let f : LF := { tF .f32 0 0 with guard := .pred 1 false }
    let g := { lGroup (fun _ => 0x7FC00001) (fun _ => 3) (fun _ => 7) with
      lanes := (List.range 16).map fun l => (l, { tLane l 0x7FC00001 3 7 with preds := if l < 15 then 2 else 0 }) }
    let c := ctxOf (lState g) f 0 0
    (∀ l ∈ c.act, (f32 (srcA f c l)).isNan = true) ∧ (15 < c.who.g.width ∧ 15 ∉ c.act) ∧ c.act ≠ [] := by decide +kernel

/-! ### Lane memory instructions -/

/-- Two lanes with v6 = `a` + 4 l, the base `b` in v8, and the value 0x11 in v10. -/
def lMem (a b : Nat) : Group := lTwo (fun l => w32 (a + 4 * l)) (fun _ => w32 b) (fun _ => 0x11)

/-- The unit of an access is outside the scratchpad of the issuing core. -/
def outsideB (us : List RUnit) : Bool := us != [] && us.all fun u => match u.place with
  | .scratch _ _ => false
  | _ => true

theorem of_outsideB {us : List RUnit} (h : outsideB us = true) : us ≠ [] ∧ ∀ u ∈ us, ∀ t o, u.place ≠ .scratch t o := by
  simp only [outsideB, Bool.and_eq_true, bne_iff_ne, ne_eq, List.all_eq_true] at h
  refine ⟨h.1, fun u hu t o hp => ?_⟩
  have := h.2 u hu
  simp [hp] at this

/-- Fields of a 4-byte access by v8 plus v6. -/
def fWord : LF := tF .b32 0 (2 * 2 ^ 23 + 2 ^ 20)

/-- Fields of a 4-byte scratchpad access at v6, offset mode. -/
def fSp : LF := tF .b32 0 (2 * 2 ^ 23)

/-- LaneScratchpad: two lanes up to the last word of the scratchpad. -/
def sLds : State := lState (lMem 0xFF8 0)

/-- LaneScratchpad, first clause. -/
theorem test_Lds :
    let c := ctxOf sLds fSp 0 0
    let off := fun l => (windowAddress fSp c l).1
    let xs := c.perform.map fun l => { lane := l, ea := BitVec.ofNat 64 (off l), us := c.spUnits (off l) 4 : LaneAcc }
    (sLds.laneAcqPending 4 c.act = false ∧ accSize fSp = 4 ∧ laneReadyB sLds fSp { dst := regs1 fSp.d (accSize fSp = 8), a := [fSp.a.toNat] } c = true ∧
      ∀ l ∈ c.perform, off l + 4 ≤ c.who.lrec.scratch) ∧
    ∃ ps s1, sLds.laneParts c.who (fun _ => none) false xs = some (ps, s1) ∧ ps ≠ [] ∧ ∀ p ∈ ps, p.reject = none := by
  refine ⟨by decide +kernel, ?_⟩
  obtain ⟨a, b, h, hp⟩ := of_someWith (p := fun l => l != [] && l.all fun p => decide (p.reject = none)) (x := sLds.laneParts (ctxOf sLds fSp 0 0).who (fun _ => none) false
    ((ctxOf sLds fSp 0 0).perform.map fun l => { lane := l, ea := BitVec.ofNat 64 (windowAddress fSp (ctxOf sLds fSp 0 0) l).1, us := (ctxOf sLds fSp 0 0).spUnits (windowAddress fSp (ctxOf sLds fSp 0 0) l).1 4 })) (by decide +kernel)
  simp only [Bool.and_eq_true, bne_iff_ne, ne_eq, List.all_eq_true, decide_eq_true_eq] at hp
  exact ⟨a, b, h, hp.1, hp.2⟩

/-- The same machine with the last word of the scratchpad poisoned. -/
def sLdsBad : State := { sLds with teams := [(3, { tTeam with poisoned := [0x3FF] })] }

/-- LaneScratchpad: a load of a poisoned word. -/
theorem test_Lds_poisoned :
    let c := ctxOf sLdsBad fSp 0 0
    let xs := c.perform.map fun l => { lane := l, ea := BitVec.ofNat 64 (windowAddress fSp c l).1, us := c.spUnits (windowAddress fSp c l).1 4 : LaneAcc }
    laneReadyB sLdsBad fSp { dst := regs1 fSp.d (accSize fSp = 8), a := [fSp.a.toNat] } c = true ∧
      ((sLdsBad.laneParts c.who (fun _ => none) false xs).bind fun r => (r.1.find? fun x => x.reject.isSome).map (·.reject)) = some (some 0x09) := by decide +kernel

/-- LaneScratchpad, second clause: a store of the same lanes. -/
theorem test_Sts :
    let c := ctxOf sLds fSp 0 0
    laneReadyB sLds fSp { a := [fSp.a.toNat], c := srcRegs fSp.csel fSp.c (accSize fSp = 8) } c = true ∧ c.fenceScope = none ∧
      ∀ l ∈ c.perform, sLds.spBusy 4 c.who.g (.scratch 3 (windowAddress fSp c l).1) 4 = false := by decide +kernel

/-- LaneScratchpad, third clause: lane 1 is the first beyond SCRATCH. -/
theorem test_Lds_beyond :
    let s := lState (lMem 0xFFC 0)
    let c := ctxOf s fSp 0 0
    c.perform = [0] ++ 1 :: [] ∧ (∀ j ∈ [0], (windowAddress fSp c j).1 + 4 ≤ c.who.lrec.scratch) ∧ c.who.lrec.scratch < (windowAddress fSp c 1).1 + 4 ∧
      laneReadyB s fSp { dst := regs1 fSp.d (accSize fSp = 8), a := [fSp.a.toNat] } c = true ∧
      laneReadyB s fSp { a := [fSp.a.toNat], c := srcRegs fSp.csel fSp.c (accSize fSp = 8) } c = true ∧ c.fenceScope = none ∧ s.laneAcqPending 4 c.act = false := by decide +kernel

/-- LaneScratchpad, fourth clause: the only member of the cluster. -/
theorem test_Ldcl :
    let c := ctxOf sLds fSp 0 0
    let cs := c.perform.map (sLds.clAcc c fSp 4)
    laneReadyB sLds fSp { dst := regs1 fSp.d (accSize fSp = 8), a := [fSp.a.toNat] } c = true ∧ sLds.clBad c fSp 4 = none ∧ sLds.sentBusy c cs = false ∧
      cs.flatMap (c.clParts sLds) ≠ [] := by decide +kernel

/-- LaneMemory: two lanes name the words at 0x100 and 0x104. -/
def sLd : State := lState (lMem 0 0x100)

/-- Their accesses, resolved. -/
def xsLd : List LaneAcc :=
  [{ lane := 0, ea := 0x100, us := [{ off := 0, n := 4, place := .home 0x20100, attr := {} }] }, { lane := 1, ea := 0x104, us := [{ off := 0, n := 4, place := .home 0x20104, attr := {} }] }]

/-- LaneMemory, first clause: `ld` and `ldacq`. -/
theorem test_Ld :
    let c := ctxOf sLd fWord 0 0
    (sLd.laneAcqPending 4 c.act = false ∧ laneReadyB sLd fWord { addressNeeds fWord 4 false with dst := regs1 fWord.d (accSize fWord = 8) } c = true ∧
      okIs (sLd.resolveLanes c.who .read 4 false (laneAddress fWord c 20) c.perform) xsLd = true ∧ okIs (sLd.resolveLanes c.who .read 4 true (laneAddress fWord c 20) c.perform) xsLd = true) ∧
    ∃ ps s1, sLd.laneParts c.who (fun _ => none) true xsLd = some (ps, s1) ∧ (ps != []) = true :=
  ⟨by decide +kernel, of_someWith (by decide +kernel)⟩

/-- A fault: lane 1 names a page that is not mapped. -/
theorem test_Ld_fault :
    let s := lState (lMem 0xFFFC 0)
    let c := ctxOf s fWord 0 0
    laneReadyB s fWord { addressNeeds fWord 4 false with dst := regs1 fWord.d (accSize fWord = 8) } c = true ∧
      errIs (s.resolveLanes c.who .read 4 false (laneAddress fWord c 20) c.perform) (0x06, 0x10000) = true ∧ isSystemCause 0x06 = false ∧
      errIs (s.resolveLanes c.who .ldws 4 false (laneAddress fWord c 20) c.perform) (0x06, 0xFFFC) = true ∧
      s.laneAcqPending 4 c.act = false ∧ c.who.g.region = none ∧ c.doneBefore = 0 ∧ c.fenceScope = none ∧ laneReadyB s fWord (addressNeeds fWord 4 true) c = true ∧ errIs (s.resolveLanes c.who .write 4 true (laneAddress fWord c 20) c.perform) (0x06, 0x10000) = true := by decide +kernel

/-- A page of the own die's weight store, at virtual 0x20000. -/
def sLdws : State :=
  { lState (lMem 0 0x20000) with cores := [(0, { tlb := [{ ctx := 0, gen := 0, base := 0x20000, size := 65536, leaf := 0x300000000003 }] })] }

/-- LaneMemory: `ldws` from the own die's weight store. -/
theorem test_Ldws :
    let c := ctxOf sLdws fWord 0 0
    let xs : List LaneAcc := [{ lane := 0, ea := 0x20000, us := [{ off := 0, n := 4, place := .home 0x300000000000, attr := {} }] },
      { lane := 1, ea := 0x20004, us := [{ off := 0, n := 4, place := .home 0x300000000004, attr := {} }] }]
    (laneReadyB sLdws fWord { addressNeeds fWord 4 false with dst := regs1 fWord.d (accSize fWord = 8) } c = true ∧
      okIs (sLdws.resolveLanes c.who .ldws 4 false (laneAddress fWord c 20) c.perform) xs = true) ∧
    ∃ ps s1, sLdws.laneParts c.who (fun _ => none) false xs = some (ps, s1) ∧ (ps != []) = true := ⟨by decide +kernel, of_someWith (by decide +kernel)⟩

/-- The small machine with the four pages of the region table at physical 0x30000, and two lanes that name the words at 0x100. -/
def sLdb : State :=
  { sLd with cores := [(0, { tlb := (List.range 4).map fun i => { ctx := 0, gen := 0, base := 0x1FFFFFFFFB80000 + 65536 * i, size := 65536, leaf := dw (0x30007 + 65536 * i) } })] }

/-- LaneMemory: `ldb` outside every region. -/
theorem test_Ldb :
    let c := ctxOf sLdb fWord 0 0
    laneReadyB sLdb fWord { addressNeeds fWord 4 true with dst := regs1 fWord.d (accSize fWord = 8), c := srcRegs fWord.csel fWord.c false } c = true ∧
      okIs (sLdb.resolveLanes c.who .read 4 false (laneAddress fWord c 20) c.perform) xsLd = true ∧ sLdb.unreadableFor c xsLd = none ∧ sLdb.laneAcqPending 4 c.act = false ∧
      ((sLdb.settleFor c xsLd).laneParts c.who ((sLdb.settleFor c xsLd).ldbNeed c fWord xsLd) true xsLd).isSome = true := by decide +kernel

/-- LaneMemory, second clause: `st` and `strel` outside the scratchpad. -/
theorem test_St :
    let c := ctxOf sLd fWord 0 0
    let r := sLd.sendLanes c.who .write 4 false (laneAddress fWord c 20) c.perform
    (laneReadyB sLd fWord (addressNeeds fWord 4 true) c = true ∧ sLd.laneAcqPending 4 c.act = false ∧ c.who.g.region = none ∧ c.doneBefore = 0 ∧ c.fenceScope = none ∧ r.fault = none ∧
      sLd.sentBusy c r.lanes = false ∧ r.lanes = xsLd ∧
      okIs (sLd.resolveLanes c.who .write 4 true (laneAddress fWord c 20) c.perform) xsLd = true ∧ xsLd ≠ [] ∧ ∀ x ∈ xsLd, x.us ≠ [] ∧ outsideB x.us = true) ∧
    ∀ x ∈ xsLd, ∃ p a, x.us = [{ off := 0, n := 4, place := p, attr := a }] := by
  refine ⟨by decide +kernel, fun x hx => ?_⟩
  simp only [xsLd, List.mem_cons, List.not_mem_nil, or_false] at hx
  rcases hx with rfl | rfl
  · exact ⟨_, _, rfl⟩
  · exact ⟨_, _, rfl⟩

/-- LaneMemory, third clause: `stcl`. -/
theorem test_Stcl :
    let c := ctxOf sLds fSp 0 0
    let cl := c.perform.map (sLds.clAcc c fSp 4)
    laneReadyB sLds fSp { a := [fSp.a.toNat], c := srcRegs fSp.csel fSp.c (accSize fSp = 8) } c = true ∧ sLds.clBad c fSp 4 = none ∧ sLds.sentBusy c cl = false ∧ cl ≠ [] ∧
      sLds.laneAcqPending 4 c.act = false ∧ c.who.g.region = none ∧ c.doneBefore = 0 ∧ c.fenceScope = none := by decide +kernel

/-- Fields of a 32-bit atomic of operation `op` by v8 plus v6, returning when `ret`. -/
def fAtom (op : Nat) (ret : Bool) : LF := tF .n32 (if ret then 8 else 0) (op * 2 ^ 23 + 2 ^ 20)

/-- LaneAtomics, first clause: the last operation of the table, and a type of 32 bits. -/
theorem test_atom_codes : (7 : BitVec 4).toNat ≤ 7 ∧ (LTy.n32 ≠ .b64) := by decide

/-- LaneAtomics, second clause: `atom`, `acas` and `apush` outside the scratchpad. -/
theorem test_Atom :
    let f := fAtom 2 true
    let c := ctxOf sLd f 0 0
    let r := sLd.sendLanes c.who .atomic 4 true (laneAddress f c 20) c.perform
    sLd.laneAcqPending 4 c.act = false ∧ c.who.g.region = none ∧ c.doneBefore = 0 ∧ c.fenceScope = none ∧ r.fault = none ∧ r.lanes = xsLd ∧
      laneReadyB sLd f { addressNeeds f 4 true with dst := if f.mod5.getLsbD 3 then regs1 f.d false else [] } c = true ∧
      laneReadyB sLd f { addressNeeds f 4 true with dst := regs1 f.d false } c = true ∧
      laneReadyB sLd f { addressNeeds f 4 true with c := srcRegs f.csel f.c false } c = true ∧ (BitVec.ofNat 4 (f.w2.toNat / 2 ^ 23 % 16)).toNat ≤ 2 := by decide +kernel

/-- LaneAtomics: `spatom` on the last words of the scratchpad. -/
theorem test_Spatom :
    let f := tF .n32 8 0
    let c := ctxOf sLds f 0 0
    laneReadyB sLds f { dst := if f.mod5.getLsbD 3 then regs1 f.d false else [], a := [f.a.toNat], c := srcRegs f.csel f.c false } c = true ∧
      (∀ l ∈ c.perform, (sLds.spatomPlace c f 4 l).isSome = true) ∧ c.perform ≠ [] ∧ c.fenceScope = none ∧ c.doneBefore = 0 := by decide +kernel

/-- LaneAtomics: `cpl` of four bytes a lane, without a barrier. -/
theorem test_Cpl :
    let f := { tF .b32 0 (2 ^ 31 + 2 ^ 12) with c := 4 }
    let s := lState { lMem 0 0x100 with lanes := (List.range 16).map fun l => (l, { tLane l (w32 (4 * l)) 0x100 0 with regs := [(4, w32 (4 * l)), (6, w32 (4 * l)), (8, 0x100), (9, 0)], life := if l < 2 then .live else .exited }) }
    let c := ctxOf s f 0 0
    let p := s.cplSend c f
    laneReadyB s f { addrNeed f 12 with c := srcRegs f.csel f.c false } c = true ∧ p.fault = none ∧ p.lanes ≠ [] ∧ c.demoted = [] ∧ c.fenceScope = none ∧ c.doneBefore = 0 ∧ (∀ x ∈ p.lanes, x.us ≠ []) := by decide +kernel

/-! ## Single steps: the results that the spec works out -/

/-- s10 after a scalar word of the small machine with `x` in s8 and `y` in s9. -/
def sRes (i : Instr) (x y : Nat) : Option DWord :=
  match exec i (tState (tGroup (dw x) (dw y))) with
  | .next t => (aget t.groups 4).map fun g => g.sget 10
  | _ => none

/-- v4 of lane 5 after a lane instruction with the operands `x`, `y`, `z` in v6, v8, v10. -/
def vRes (i : LF → Instr) (f : LF) (x y z : Nat) : Option Word :=
  match exec (i f) (lState (lGroup (fun _ => w32 x) (fun _ => w32 y) (fun _ => w32 z))) with
  | .next t => (aget t.groups 4).map fun g => (g.lane 5).get 4
  | _ => none

/-- The corner cases of division and shifts, from the table under R137. -/
theorem test_step_division :
    [sRes (.divI false 10 8 9) 0x8000000000000000 0xFFFFFFFFFFFFFFFF, sRes (.remI false 10 8 9) 0x8000000000000000 0xFFFFFFFFFFFFFFFF,
        sRes (.divI false 10 8 9) 0xFFFFFFFFFFFFFFF9 2, sRes (.remI false 10 8 9) 0xFFFFFFFFFFFFFFF9 2, sRes (.divN false 10 8 9) 7 0, sRes (.remN false 10 8 9) 7 0,
        sRes (.divI true 10 8 9) 0x180000000 0xFFFFFFFFFFFFFFFF, sRes (.divN true 10 8 9) 0xFFFFFFFFFFFFFFF0 16, sRes (.shl true 10 8 9) 0x40000000 33] =
      [some 0x8000000000000000, some 0, some 0xFFFFFFFFFFFFFFFD, some 0xFFFFFFFFFFFFFFFF, some 0xFFFFFFFFFFFFFFFF, some 7, some 0xFFFFFFFF80000000, some 0xFFFFFFF,
        some 0xFFFFFFFF80000000] := by decide +kernel

/-- The conversions of the example under R139. -/
theorem test_step_fcvt :
    [0x40200000, 0x40600000, 0xC0200000, 0x7FC00000, 0x5F0AC723].map (fun x => sRes (.fcvtI 10 8) x 0) =
      [some 2, some 4, some 0xFFFFFFFFFFFFFFFE, some 0, some 0x7FFFFFFFFFFFFFFF] := by decide +kernel

/-- The example under R173, with and without saturation. -/
theorem test_step_packed_add :
    vRes .lAdd (tF .i8x4 1 0) 0x7F8010F0 0x01802010 0 = some 0x7F803000 ∧ vRes .lAdd (tF .i8x4 0 0) 0x7F8010F0 0x01802010 0 = some 0x80003000 := by decide +kernel

/-- The hash of the example under R130: key and counter (0, 0). -/
theorem test_step_rhash : vRes .lRhash { tF .b64 0 0 with b := 1, c := 1 } 0 0 0 = some 0x8F385298 := by decide +kernel

/-- Conversions from FP32 near the top of a range (R120): 464 to F8E4 is 448, 61,440 to F8E5 overflows, (2 - 2^-8) · 2^127 to BF16 overflows. -/
theorem test_step_cvt :
    vRes .lCvt (tF .f8e4x4 0 0x6000) 0x43E80000 0 0 = some 0x4444447E ∧ vRes .lCvt (tF .f8e5x4 0 0x6000) 0x47700000 0 0 = some 0x4444447C ∧
      vRes .lCvt (tF .bf16x2 0 0x6000) 0x7F7F8000 0 0 = some 0x44447F80 := by decide +kernel


/-! ## Context blocks and the host port -/

/-- The package after reset with context 63 as given. -/
def ctxState (x : Context) : State := { State.reset with ctxs := [(63, x)] }

/-- A completion record. -/
def tComp : CompRec := { typ := 1, status := 0, queue := 0, slot := 0, ctag := 0x77, time := 0, info := 0 }

/-- The small machine with a completion record held in context 0, its ring at virtual 0. -/
def sHeld : State := { tState g53 with ctxs := [(0, { en := true, ptroot := 0x10000, cqerr := true, held := [tComp] })] }

/-- ContextsAndGenerations, first part: an enabled context and a disabled one, a tail at the queue's size and one past it, a held record. -/
theorem test_contexts :
    (let s := ctxState { en := true }
     let h := (s.ctx 63).queue 7
     (s.ctx 63).en = true ∧ h.stopped = false ∧ ((2 : Word) - h.head).toNat ≤ 2 ^ h.log2 ∧ 2 ^ h.log2 < ((3 : Word) - h.head).toNat ∧ (s.ctx 63).held = []) ∧
      ((State.reset.ctx 0).en = false ∧ (State.reset.ctx 0).held = []) ∧
      ((sHeld.ctx 0).held = [tComp] ∧ (sHeld.ctx 0).cqAsk = none ∧ ((sHeld.ctx 0).cqtail - (sHeld.ctx 0).cqhead).toNat ≠ 2 ^ (sHeld.ctx 0).cqlog2 ∧
        okIs ((sHeld.modCtx 0 fun x => { x with cqerr := false }).deviceAddr 0 .write
          (BitVec.ofNat 64 ((sHeld.ctx 0).cqbase.toNat + 32 * ((sHeld.ctx 0).cqtail.toNat % 2 ^ (sHeld.ctx 0).cqlog2)))) (Place.home 0x20000) = true ∧ 0x20000 < tierBase) := by
  decide +kernel

/-- A bump of context 63 to generation 1, that core 0 has adopted, and reported or not. -/
def sBump (reported : List Nat) (more : Nat) : State :=
  { ctxState { bump := some { new := 1, start := 1, adopted := [0], reported := reported }, bumpsPending := more } with cores := [(0, {})] }

/-- ContextsAndGenerations, second part: no bump, a bump that waits, one that every core has reported, one that a core has not adopted or not reported. -/
theorem test_generations :
    (State.reset.ctx 63).bump = none ∧
      (∀ more ∈ [0, 1], ((sBump [0] more).ctx 63).bump = some { new := 1, start := 1, adopted := [0], reported := [0] } ∧
        ((sBump [0] more).ctx 63).bumpsPending = more ∧ (∀ x ∈ (sBump [0] more).cores, x.2.dead = true ∨ x.1 ∈ [0]) ∧ (sBump [0] more).oldTagged 63 {new := 1, start := 1, adopted := [0], reported := [0] } = false) ∧
      (coreIx (({ die := 15, row := 9, col := 15 } : CoreKey)) ∉ [0]) ∧ (coreIx (({ die := 0, row := 0, col := 0 } : CoreKey)) ∈ [0] ∧ coreIx (({ die := 0, row := 0, col := 0 } : CoreKey)) ∉ ([] : List Nat) ∧
        ∀ m ∈ (sBump [] 0).net, ¬ (m.2.isWriteBack = true ∧ m.2.core = ({ die := 0, row := 0, col := 0 } : CoreKey) ∧ m.2.ctx = 63 ∧ m.2.gen ≠ 1)) := by
  decide +kernel

/-- HostPort, first part: an idle context and one that is not, a busy mailbox, a busy snapshot capability, an enabled recovery. -/
theorem test_host_registers :
    ((State.reset.ctx 63).en = false ∧ State.reset.ctxActive 63 = false) ∧ ((ctxState { en := true }).ctx 63).en = true ∧
      (2 ≤ (2 : DWord).toNat % 32 ∧ (20 : DWord).toNat % 32 ≤ 20) ∧ (1 ≤ (1 : DWord).toNat % 32 ∧ (16 : DWord).toNat % 32 ≤ 16) ∧
      ((5 : BitVec 3).toNat ≤ 5 ∧ (0x400 : DWord).getLsbD 10 = true) ∧ (State.reset.mbox.busy = false ∧ (1 : DWord).getLsbD 0 = true ∧ (4 : DWord).getLsbD 2 = true) ∧
      { State.reset with mbox := { busy := true } }.mbox.busy = true ∧ State.reset.lehr.busy = false ∧ { State.reset with lehr := { busy := true } }.lehr.busy = true ∧
      State.reset.cullet.en = false ∧ { State.reset with cullet := { en := true } }.cullet.en = true := by decide +kernel

/-- The package after reset with a CXL port, and with one dirty granule of the tier. -/
def sCxl : State := { State.reset with hport := { cxlMem := true, cxlCache := true }, l2tierDirty := [tierBase / 64] }

/-- HostPort, second part: homes that serve and homes that cannot yet: a die that switches its slices, a stripe that is not rebuilt. -/
theorem test_host_homes :
    (∀ i, i < 8 → State.reset.homeBusy (0xFFF0000000 + 0xFFFFFF8 + i) = false) ∧ (∀ i, i < 64 → sCxl.homeBusy (tierBase + i) = false) ∧
      ({ State.reset with dies := (List.range 16).map fun d => (d, { sib := d, sdead := 17 }) } : State).homeBusy 0 = true ∧
      ({ sCxl with cullet := { serving := true, adoptBase := BitVec.ofNat 52 tierBase }, lehr := { liveLen := 256 } } : State).homeBusy tierBase = true := by decide +kernel

/-- HostPort, second part: an access that ends at the last byte of HBM and one that begins there, one outside its world, one to the tier, a snoop, a training, a flush and its end. -/
theorem test_host_accesses :
    (State.reset.streams = [] ∧ State.reset.hbmSize < tierBase ∧
      { State.reset with hport := { hwin := 0xFFF0000000 } }.worldOk false (0xFFF0000000 + 0xFFFFFFF) = true ∧ 0xFFF0000000 + 0xFFFFFFF + 1 ≤ State.reset.hbmSize ∧ State.reset.hbmSize < 0xFFF0000000 + 0xFFFFFFF + 2) ∧
      (let s := { State.reset with windows := [(0, { en := true, sec := true, base := 0, limit := 1 })] }
       s.worldOk s.hport.secure 0 = false ∧ s.wfcount ≠ 0xFFFFFFFF ∧ 0 + 8 ≤ s.hbmSize) ∧
      (sCxl.streams = [] ∧ sCxl.hport.cxlMem = true ∧ sCxl.worldOk sCxl.hport.secure tierBase = true ∧ tierBase + 64 ≤ tierEnd - sCxl.rsvSize ∧ sCxl.lehr.busy = false ∧ ([1] : List Byte) ≠ []) ∧
      State.reset.hport.cxlMem = false ∧ (sCxl.hport.cxlCache = true ∧ hostBase ≤ hostEnd - 1 ∧ hostEnd - 1 < hostEnd) ∧
      (16 ∈ [1, 2, 4, 8, 16] ∧ 1 ≤ 6) ∧ (sCxl.hport.gpfBusy = false) ∧
      (let s := { State.reset with hport := { gpfBusy := true } }; s.hport.gpfBusy = true ∧ s.hport.gpfWait = []) ∧
      State.reset.stepsIdle = true ∧ (tState g53).stepsIdle = false := by decide +kernel


/-! ## What a core does besides issuing -/

/-- A part of a load of lane `l` with the bytes `v`. -/
def tPart (l n : Nat) (v : Option (List Byte)) : Part := { lane := l, n := n, ea := 0x100, place := .home 0x20100, gen := 0, value := v }

/-- A producer of group 4. -/
def tReq (dst : ReqDst) (parts : List Part) : Req := { gid := 4, lane := false, pc := 0, lpc := 0xFFFFFFFF, dst := dst, parts := parts, core := homeCore, ctx := 0 }

/-- The small machine with the producer `q` of number 5. -/
def sReq (q : Req) : State := { tState g53 with reqs := [(5, q)], nextId := 6 }

/-- ProducersBlocksAndWaits, first part: producers of each destination, and one whose part has not come. -/
theorem test_producers :
    (∀ q ∈ [tReq (.scalar 3 false 4) [tPart 0 4 none], tReq (.scalar 3 false 8) [tPart 0 8 (some [1, 2, 3, 4, 5, 6, 7, 0x80])],
        tReq (.scalar 63 true 4) [tPart 0 4 (some [0, 0, 0, 0x80])], tReq (.value 0 7) [], tReq (.slowCsr 3 0x040) [], tReq (.slowCsr 3 0x041) [], tReq (.slowCsr 3 0x042) [],
        tReq (.slowCsr 3 0x043) [], tReq (.slowCsr 3 0x044) [], tReq (.roundGet 3 0 4095) [tPart 0 64 (some (List.replicate 64 1))],
        { tReq (.lanes 4 4 false (some 23)) [tPart 0 4 (some [1, 2, 3, 4]), tPart 15 4 (some [5, 6, 7, 8])] with zeros := [1] }],
      aget (sReq q).reqs 5 = some q ∧ aget (sReq q).groups q.gid = some g53 ∧ q.faulted = false ∧ g53.region = none ∧ q.acquire = none) ∧
      (∃ p ∈ [tPart 0 4 none], p.value = none) ∧
      (let q := { tReq (.lanes 4 4 false (some 23)) [tPart 0 4 (some [1, 2, 3, 4]), tPart 15 4 (some [5, 6, 7, 8])] with zeros := [1] }
       (∀ p ∈ q.parts, p.value.isSome = true) ∧ (∀ l ∈ q.zeros, l ∉ q.served) ∧ q.llog = [] ∧ 15 ∈ q.served ∧ (23 : BitVec 5).toNat < 24) := by decide +kernel

/-- A lane block that waits in the L-queue, under the guard `gd`. -/
def cBlock (gd : Option Nat) : Cmd := { kind := .lrun, guard := gd, pc := 0, args := [64], released := true }

/-- The small machine with one block queued, slot 15 false. -/
def sBlock (gd : Option Nat) : State := { tState { g53 with lq := [9], guards := [(15, false)] } with cmds := [(9, cBlock gd)] }

/-- ProducersBlocksAndWaits: a block that starts, and one that is discarded. -/
theorem test_blocks :
    (let s := sBlock none
     let w := whoAt s 4
     s.who 4 = some w ∧ w.g.block = none ∧ s.mayIssue w.g = true ∧ s.startable w.g 0 .lrun = some (9, cBlock none) ∧ s.reqs = [] ∧ 15 < w.g.width / 4 * 4 ∧ (w.g.lane 15).life ≠ .exited) ∧
      (let s := sBlock (some 15)
       let w := whoAt s 4
       s.who 4 = some w ∧ w.g.block = none ∧ s.mayIssue w.g = true ∧ s.startable w.g 0 .lrun = none ∧ s.discardable w.g 0 .lrun = some (9, cBlock (some 15)) ∧ aget s.cmds 9 = some (cBlock (some 15))) := by
  decide +kernel

/-- The small machine at cycle `n` with the group `g`. -/
def sAt (n : Nat) (g : Group) : State := { tState g with cycle := n }

/-- ProducersBlocksAndWaits: waits that end at their last cycle, and one cycle too early. -/
theorem test_waits :
    (let g := { g53 with yieldFrom := some 0 }
     (sAt 64 g).who 4 = some (whoAt (sAt 64 g) 4) ∧ 0 + 64 ≤ (sAt 64 g).cycle ∧ (sAt 63 g).cycle < 0 + 64) ∧
      (let g := { lg with gangs := [{ pc := 0, depth := 0, regang := some 32 }] }
       let s := { lState g with cycle := 32 }
       s.who 4 = some (whoAt s 4) ∧ (g.gangRec 0 0).regang = some 32 ∧ g.gang 0 0 ≠ [] ∧ s.mayIssue g = true ∧ g.block = some { cmd := 9, start := 0 } ∧ g.hold = none) ∧
      (let h : SHold := { pc := 0, stage := 30, since := 0, val := 15 }
       let g := { g53 with hold := some h }
       (tState g).who 4 = some (whoAt (tState g) 4) ∧ (tState g).slotNamed g h.val.toNat = false ∧ (tState g).mayIssue g = true) ∧
      (∀ kind ∈ [HangKind.barrier, .round],
        let x : Wait := { since := 0, kind := kind, pc := 8, addr := 0x100, seen := 0x04000001 }
        let g := { g53 with waits := [(0, x)] }
        let s := sAt 0x04000001 g
        s.who 4 = some (whoAt s 4) ∧ s.colls = [] ∧ g.park = none ∧ g.done = false ∧ s.hung (whoAt s 4) kind = some x ∧ (s.heldLoad (whoAt s 4)).isNone = true) ∧
      ((tState g53).hungColl 4 0x04000000).isNone = true ∧ (tState g53).hung (whoAt (tState g53) 4) .barrier = none := by decide +kernel

/-- A message of group 4. -/
def tMsg (kind : MsgKind) (place : Place) : Msg := { kind := kind, gid := 4, core := homeCore, ctx := 0, gen := 0, ea := 0x100, place := place }

/-- A store of four bytes at physical 0x20100. -/
def mStore : Msg := tMsg (.store [some 1, some 2, some 3, some 4] 0 false) (.home 0x20100)

/-- The small machine with one entry of effects `e` in the group's quarantine, 512 cycles old. -/
def sQuar (e : List Effect) : State :=
  { sAt 512 { g53 with quar := [{ at_ := 0, effects := e }], lq := [9] } with cmds := [(9, cBlock none)] }

/-- QuarantineReleasesAndRegions, first part: entries of each kind that leave, and one that may not yet. -/
theorem test_quarantine :
    (∀ e ∈ [[.msg mStore], [.cmd 0 9], [.releaseThen (some Scope.pkg) mStore 0 0], [.l1Store mStore]],
      aget (sQuar e).groups 4 = some (whoAt (sQuar e) 4).g ∧ (whoAt (sQuar e) 4).g.quar = [{ at_ := 0, effects := e }] ∧ 0 + 512 ≤ (sQuar e).cycle ∧ (sQuar e).net = []) ∧
      (∃ c, aget (sQuar [.cmd 0 9]).cmds 9 = some c) ∧
      (let s := sQuar [.l1Store mStore]
       mStore.place = .home 0x20100 ∧ 0x20100 % 4 = 0 ∧ mStore.gen = s.genStamp mStore.core mStore.ctx ∧ (s.core mStore.core).hasL1 = true ∧ (s.core mStore.core).l1 = [] ∧
         s.groupGone 4 = false ∧ mStore.gid = 4 ∧ s.olderMsg 4 mStore.issue mStore.lane mStore.place 4 = false ∧ s.olderPart 4 0 mStore.place 4 = false) ∧
      (let s := sAt 511 { g53 with quar := [{ at_ := 0, effects := [.msg mStore] }] }
       s.cycle < 0 + 512) := by
  refine ⟨by decide +kernel, ⟨cBlock none, by decide +kernel⟩, by decide +kernel, by decide +kernel⟩

/-- A release of the group with nothing, or with a store, to send. -/
def tRel (after : List Msg) : Release := { gid := 4, core := homeCore, ctx := 0, scope := .pkg, rho := 0, after := after.map fun m => { m with rho := 1 } }

/-- A line of L1 with a dirty word. -/
def tLine : L1Line := { pa := 0x20100, ctx := 0, words := [(31, { data := 7, dirty := true })] }

/-- QuarantineReleasesAndRegions: releases that are ready, one that is not, a dirty line. -/
theorem test_releases :
    (∀ after ∈ [[], [mStore]], let s := { tState g53 with rels := [(5, tRel after)], nextId := 6 }
      aget s.rels 5 = some (tRel after) ∧ s.releaseReady (tRel after) = true ∧ s.net = []) ∧
      (let s := { tState g53 with rels := [(6, tRel [])], net := [(5, mStore)], nextId := 7 }
       aget s.rels 6 = some (tRel []) ∧ s.releaseReady (tRel []) = false) ∧
      (let s := { tState g53 with cores := [(0, { l1 := [tLine] })] }
       (s.core homeCore).l1.filter (fun y => y.pa = 0x20100) = [tLine] ∧ tLine.isDirty = true) := by decide +kernel

/-- A region that began at word 4. -/
def tRgn : Region :=
  { ck := { spc := 16, sExited := false, slices := [], lives := [], block := none, lq := [], guards := [], sfe := 0xFFFFFFFFFFFFFFFF, vfe := BitVec.allOnes 256
            batchCtr := 0, donemask := 0 } }

/-- QuarantineReleasesAndRegions, second part: a region word after 384 cycles, strikes without and with a region, a replay, a register error. -/
theorem test_regions :
    (let h : SHold := { pc := 0, stage := 11, since := 0 }
     let s := sAt 384 { lg with hold := some h }
     s.who 4 = some (whoAt s 4) ∧ (whoAt s 4).g.lrgn = none ∧ (whoAt s 4).g.hold = some h ∧ h.since + 384 ≤ s.cycle ∧ s.mayIssue (whoAt s 4).g = true ∧
       (sAt 383 { lg with hold := some h }).cycle < h.since + 384) ∧
      (let h : SHold := { pc := 0, stage := 1, since := 0 }
       let s := sAt 384 { lg with lrgn := some h }
       s.who 4 = some (whoAt s 4) ∧ (whoAt s 4).g.lrgn = some h ∧ h.since + 384 ≤ s.cycle ∧ s.mayIssue (whoAt s 4).g = true ∧ (sAt 383 { lg with lrgn := some h }).cycle < h.since + 384) ∧
      (let s := tState g53
       s.who 4 = some (whoAt s 4) ∧ s.zone (whoAt s 4).core = [4] ∧ g53.region = none ∧ g53.quar = [] ∧ g53.park = none ∧ g53.done = false ∧ s.reqs = [] ∧ s.batches = []) ∧
      (let g := { g53 with region := some tRgn }
       let s := tState g
       s.who 4 = some (whoAt s 4) ∧ s.zone (whoAt s 4).core = [4] ∧ g.hold = none ∧ g.quar = [] ∧ s.batches = [] ∧ s.net = [] ∧ s.copies = []) ∧
      (let g := { g53 with region := some tRgn, striking := true }
       let s := tState g
       s.who 4 = some (whoAt s 4) ∧ g.quar = [] ∧ g.hold = none ∧ s.net = [] ∧ s.rels = [] ∧ s.copies = [] ∧ s.reqs = [] ∧ s.producersLanded 4 g = true ∧ g.rejected = []) := by decide +kernel


/-! ## Accesses where they arrive -/

/-- What `Arrives` asks, as one check. -/
def arrivesB (s : State) (id : Nat) (m : Msg) : Bool :=
  decide (aget s.net id = some m) && decide (m.rejected = none) && decide (s.msgBlocked id m = false) && decide (s.msgFate m = .serve) && decide (m.gid ≠ 0) &&
    decide (∀ x ∈ s.net, x.1 ≠ id → ¬ (x.2.gid = m.gid ∧ x.2.issue = m.issue)) && (aget s.groups m.gid).all fun g => decide (g.dmIssue ≠ some m.issue)

theorem arrives {s : State} {id : Nat} {m : Msg} (h : arrivesB s id m = true) : Arrives s id m := by
  simp only [arrivesB, Bool.and_eq_true, decide_eq_true_eq] at h
  obtain ⟨⟨⟨⟨⟨⟨h1, h2⟩, h3⟩, h4⟩, h5⟩, h6⟩, h7⟩ := h
  exact ⟨h1, h2, h3, h4, h5, h6, fun g hg => by simpa [hg] using h7⟩

/-- The machine with region record 0, whose slots `reg` are registered, and the message `m` on its way; the group holds at `stage`. -/
def sMsg (reg : Byte) (stage : Nat) (m : Msg) : State :=
  { sRegion0 { g53 with hold := some { pc := 0, stage := stage, since := 0 } } with
    mem := tMem ++ [(0x30000, 0x01), (0x30001, 0x02), (0x30009, 0x80), (0x30010, 0x80), (0x30018, 0x05), (0x30020, reg)]
    net := [(5, m)], reqs := [(6, { tReq (.scalar 3 false 4) [tPart 0 4 none] with gid := 4, atomic := true })], nextId := 7 }

/-- AccessesWhereTheyArrive, first part: a store, a write of an L1 line, an atomic with its answer. -/
theorem test_arrivals :
    (∀ k ∈ [MsgKind.store [some 1, none] 0 false, .store (List.replicate 128 (some 2)) 0 true, .atomic 7 .b64 1 2 false (some (6, 0)), .atomic 0 .n32 1 2 true none],
      let s := sMsg 1 0 (tMsg k (.home 0x30100))
      s.streams = [] ∧ s.lehr.busy = false ∧ s.homeBusy 0x30100 = false ∧ arrivesB s 5 (tMsg k (.home 0x30100)) = true) ∧
      (let s := sMsg 1 0 (tMsg (.atomic 7 .b64 1 2 false (some (6, 0))) (.home 0x30100))
       ∃ q p, aget s.reqs 6 = some q ∧ q.parts[0]? = some p) := by
  refine ⟨by decide +kernel, ⟨_, _, rfl, rfl⟩⟩

/-- AccessesWhereTheyArrive: `rnd.reg` with a free slot, with none, of a registered slot and of one beyond P; the arrival of `rnd.adv`. -/
theorem test_round_arrivals :
    (∀ x ∈ [(1, 0), (3, 0), (3, 2), (3, 3), (1, 2)],
      let m := tMsg (.roundReg 0 (dw x.2) 3 none) (.home 0x30000)
      let s := sMsg (BitVec.ofNat 8 x.1) 40 m
      arrivesB s 5 m = true ∧ s.regionAt 0x30000 = .valid { tRegion with reg := dw x.1 } ∧ (aget s.groups 4).any (fun g => g.region.isNone && g.hold.any (·.stage = 40)) = true) ∧
      ((1 : DWord).getLsbD 1 = false ∧ (1 : DWord).getLsbD 0 = true) ∧ (∀ k, k < 2 → (3 : DWord).getLsbD k = true) ∧ (2 ≤ (3 : DWord).toNat - 1) ∧ ((2 : DWord).toNat - 1 < 2) ∧
      (let m := tMsg (.roundArrive 0 1) (.home 0x30000)
       let s := sMsg 3 53 m
       arrivesB s 5 m = true ∧ s.regionAt 0x30000 = .valid tRegion ∧ (aget s.groups 4).any (fun g => g.hold.any (·.stage = 53)) = true) := by decide +kernel

/-- AccessesWhereTheyArrive: a load part, a line that leaves L2. -/
theorem test_parts :
    (let p := { tPart 0 4 none with attr := { nc := true } }
     let q := tReq (.scalar 3 false 4) [p]
     let s := sReq q
     aget s.reqs 5 = some q ∧ q.parts[0]? = some p ∧ p.value = none ∧ p.region = none ∧ p.fwd = [] ∧ (∀ x ∈ q.parts, x.reject = none) ∧ q.atomic = false ∧ q.faulted = false ∧
       s.partBlocked 5 q p = false ∧ s.partFate q p = .serve ∧ s.streams = [] ∧ s.homeBusy 0x20100 = false) ∧
      (let s := { tState g53 with l2dirty := [tierBase / 128], l2tierDirty := [tierBase / 64, tierBase / 64 + 1] }
       tierBase / 128 ∈ s.l2dirty ∧ s.streams = [] ∧ s.lehr.busy = false) := by decide +kernel

/-- The team of the small machine with 64 written scratchpad bytes: a barrier object at 0 of the fields given, FLAGS `flags`. -/
def tObjTeam (expArr arr flags : Byte) : Team :=
  { tTeam with sp := (List.range 64).map fun i => (i, { b := if i = 4 then expArr else if i = 8 then arr else if i = 12 then flags else 0 }) }

/-- The small machine with that team and the message `m` on its way. -/
def sObj (expArr arr flags : Byte) (m : Msg) : State :=
  { tState g53 with teams := [(3, tObjTeam expArr arr flags)], net := [(5, m)], reqs := [(6, { tReq (.scalar 3 false 4) [{ tPart 0 4 none with place := .scratch 3 0 }] with atomic := true })], nextId := 7 }

/-- AccessesWhereTheyArrive, second part, and the arrivals of BarrierObjects: every kind of message at the last bytes of a team's scratchpad or at an object. -/
theorem test_scratch_arrivals :
    (∀ x ∈ [(MsgKind.scratchStore [1, 2, 3, 4], 4092), (.scratchAtomic 8 .b64 1 2 (some (6, 0)), 4088), (.barInit 0x800000001, 0), (.barArm 8, 0), (.barLanes 16, 0), (.barGroup none none, 0),
        (.barGroup (some 6) none, 0), (.barCredit 8 none, 0)],
      let m := tMsg x.1 (.scratch 3 x.2)
      arrivesB (sObj 2 1 0 m) 5 m = true ∧ aget (sObj 2 1 0 m).teams 3 = some (tObjTeam 2 1 0) ∧ (tObjTeam 2 1 0).exitDone (sObj 2 1 0 m).cycle 0 = false ∧
        ({ tObjTeam 2 1 0 with liveDone := [(0, (sObj 2 1 0 m).cycle)] } : Team).exitDone (sObj 2 1 0 m).cycle 0 = true) ∧
      (∃ q p, aget (sObj 2 1 0 mStore).reqs 6 = some q ∧ q.parts[0]? = some p) := by
  refine ⟨by decide +kernel, ⟨_, _, rfl, rfl⟩⟩

/-- BarrierObjects: objects one arrival short of full, and two short, with and without LIVE. -/
theorem test_barrier_fields :
    BarrierIs (tObjTeam 2 1 0) 0 0 2 1 0 0 0 ∧ BarrierIs (tObjTeam 3 1 0) 0 0 3 1 0 0 0 ∧ BarrierIs (tObjTeam 2 15 8) 0 0 2 15 8 0 0 ∧ (tObjTeam 2 15 8).live = 16 := by
  simp only [BarrierIs]; decide +kernel

/-- A load of a cluster member's scratchpad that has come to it. -/
theorem test_cluster_load :
    let p := { tPart 0 4 none with place := .scratch 3 4092 }
    let q := tReq (.scalar 3 false 4) [p]
    let s := sReq q
    aget s.net 5 = none ∧ aget s.reqs 5 = some q ∧ q.parts[0]? = some p ∧ p.value = none ∧ (∀ y ∈ q.parts, y.reject = none) ∧ q.atomic = false ∧ q.faulted = false ∧
      s.partBlocked 5 q p = false ∧ s.partFate q p = .serve := by decide +kernel

/-- A store that its home refuses, of the group's present generation or an older one. -/
def mBad (gen : BitVec 12) : Msg := { tMsg (.store [some 1, some 2, some 3, some 4] 0 false) (.home (hostEnd)) with gen := gen }

/-- LateFaultsGenerationsAndWeightStore, first part: a store outside every aperture, one that would be served, one of an older generation. -/
theorem test_late_faults :
    (let s := { tState g53 with net := [(5, mBad 0)], nextId := 6 }
     s.who 4 = some (whoAt s 4) ∧ (mBad 0).isLane = false ∧ aget s.net 5 = some (mBad 0) ∧ s.msgBlocked 5 (mBad 0) = false ∧ s.msgFate (mBad 0) = .bad 0x06 ∧ isSystemCause 0x06 = false ∧
       (whoAt s 4).g.inWord = false ∧ s.rels = [] ∧
       (mBad 0).rejected = none ∧ s.pendedAt 4 (mBad 0).issue = false ∧ ∀ x ∈ s.net, x.1 ≠ 5 → ¬ (x.2.gid = (mBad 0).gid ∧ x.2.issue = (mBad 0).issue)) ∧ Delivers (whoAt { tState g53 with net := [(5, mBad 0)], nextId := 6 } 4) ∧
      (let s := { tState g53 with net := [(5, mStore)], nextId := 6 }
       aget s.net 5 = some mStore ∧ s.msgFate mStore = .serve) ∧
      (let m := { mStore with gen := 0xFFF }
       let s := { tState g53 with net := [(5, m)], nextId := 6 }
       aget s.net 5 = some m ∧ m.rejected = none ∧ s.msgHeld m = false ∧ s.msgFate m = .stale) ∧
      (let m := { mStore with gen := 0xFFF, rejected := some 0x07 }
       let g := { g53 with staleWait := true, rejected := [5] }
       let s := { tState g with net := [(5, m)], nextId := 6 }
       s.who 4 = some (whoAt s 4) ∧ s.staleSettled 4 = true ∧ s.genStamp (whoAt s 4).core (whoAt s 4).ctx = (s.ctx (whoAt s 4).ctx).gen ∧
         (s.net.filter fun x => x.2.gid = 4 && x.2.rejected.isSome) = [(5, m)] ∧ aget s.net 5 = some m ∧ okIs (s.retranslate m) mStore = true ∧ s.reqs = [] ∧ s.copies = []) := by
  refine ⟨by decide +kernel, ⟨rfl, rfl, rfl, rfl, rfl, by decide +kernel⟩, by decide +kernel, by decide +kernel, by decide +kernel⟩

/-- LateFaultsGenerationsAndWeightStore: the last message of the instruction that DONEMASK names. -/
theorem test_donemask :
    let m := { mStore with issue := 7 }
    let s := { tState { g53 with dmIssue := some 7, trap := { donemask := 3 } } with net := [(5, m)], nextId := 6 }
    s.who 4 = some (whoAt s 4) ∧ aget s.net 5 = some m ∧ m.rejected = none ∧ m.isLane = false ∧ s.homeBusy 0x20100 = false ∧ s.msgBlocked 5 m = false ∧ s.msgFate m = .serve ∧
      s.rels = [] ∧ s.copies = [] ∧ (whoAt s 4).g.dmIssue = some m.issue ∧ ∀ x ∈ s.net, x.1 ≠ 5 → ¬ (x.2.gid = m.gid ∧ x.2.issue = m.issue) := by decide +kernel

/-- LateFaultsGenerationsAndWeightStore: a core that has adopted the homes' generation, and one that is ahead of them. -/
theorem test_walk_generation :
    (tState g53).genStamp homeCore 0 = ((tState g53).ctx 0).gen ∧
      ({ tState g53 with ctxs := [(0, { en := true, ptroot := 0x10000, bump := some { new := 1, start := 1, adopted := [0] } })] } : State).genStamp homeCore 0 ≠ 0 := by
  decide +kernel

/-- LateFaultsGenerationsAndWeightStore, second part: a die at the last cycle of a slot and before it, at banks 0 and 7; a mapped page and one that is not. -/
theorem test_weight_store :
    (∀ b ∈ [0, 7],
      let s := { State.reset with cycle := 13600, dies := [(0, { sib := 0, wsBusy := false, wsBank := b })] }
      (s.die 0).wsBusy = false ∧ (s.die 0).wsOrigin + 13600 ≤ s.cycle ∧ { s with cycle := 13599 }.cycle < (s.die 0).wsOrigin + 13600) ∧
      (let s := { State.reset with cycle := 3400 }
       (s.die 15).wsBusy = true ∧ (s.die 15).wsOrigin + 3400 ≤ s.cycle ∧ s.reqs = [] ∧ { s with cycle := 3399 }.cycle < (s.die 15).wsOrigin + 3400) ∧
      (0xFFFF < spWindow ∧ (match (tState g53).walk 0 0xFFFF with | .leaf _ => true | _ => false) = true) ∧
      (match (tState g53).walk 0 0x10000 with | .bad c => c == 0x06 | _ => false) = true := by decide +kernel


/-! ## Copies and the matrix engine -/

/-- An engine read that is answered with `n` bytes. -/
def engOk (r : EngRead) (n : Nat) : Bool :=
  match r with
  | .ok bs _ => bs.length = n
  | _ => false

/-- An access that is performed at the home of `pa`. -/
def atHome (r : Resolved) (pa : Nat) : Bool :=
  match r with
  | .ok p _ => decide (p = .home pa)
  | .bad _ => false

/-- A released command of kind `k` under the guard `gd`. -/
def tCmd (k : CmdKind) (args : List DWord) (gd : Option Nat := none) : Cmd := { kind := k, guard := gd, pc := 0x40, args := args, dst := 3, released := true }

/-- The registers of a copy of two elements of four bytes from 0x100 to 0x200, crediting the barrier at offset 0. -/
def cpArgs : List DWord := [0x100, 0x200, dw (2 + 2 ^ 24 + 2 ^ 40 + 2 * 2 ^ 56), 0, 0, 0]

/-- The small machine with command 9 at the head of the C-queue and of the M-queue, slot 15 false. -/
def sCmd (c : Cmd) : State :=
  { tState { g53 with cq := [9], mq := if c.kind = .cpt ∨ c.kind = .cptIdx ∨ c.kind = .cptWs ∨ c.kind = .cptP ∨ c.kind = .pbar then [] else [9], guards := [(15, false)] } with
    cmds := [(9, c)], nextId := 10 }

/-- CopiesAndPersistBarriers: copies of every kind at the head of the queue, and discarded ones. -/
theorem test_copy_starts :
    ∀ k ∈ [CmdKind.cpt, .cptIdx, .cptWs, .cptP], ∀ gd ∈ [none, some 15],
      let c := tCmd k cpArgs gd
      let s := sCmd c
      let w := whoAt s 4
      s.who 4 = some w ∧ aget s.cmds 9 = some c ∧ s.nextCmd w.g 2 k = some (9, c, gd.isSome) ∧ w.g.region = none ∧ noBar (s.copyOf w 9 c).barw = false ∧ copyBytes c.args = 8 := by
  decide +kernel

/-- The running copy of `cpArgs`, with the elements `es`. -/
def tCopy (es : Tbl ElemState) : Copy :=
  { gid := 4, kind := .cpt, pc := 0x40, args := cpArgs, dst := 3, core := homeCore, ctx := 0, team := 3, gen := 0, elems := es }

/-- The small machine with that copy. -/
def sCopy (es : Tbl ElemState) : State := { sCmd { tCmd .cpt cpArgs with started := true } with copies := [(9, tCopy es)] }

/-- CopiesAndPersistBarriers: the last element before it is read, read, and landed. -/
theorem test_copy_elements :
    (let s := sCopy []
     let x := tCopy []
     aget s.copies 9 = some x ∧ x.perLane = false ∧ x.busy = false ∧ 0 < x.n2 ∧ 0 < x.n1 ∧ 1 < x.n0 ∧ x.kind = .cpt ∧ aget x.elems 1 = none ∧ (x.srcAddr 0 0 1).toNat % x.esz = 0 ∧
       x.esz ≤ 8 ∧ engOk (s.engRead (s.copyEng 9 x) .read (x.srcAddr 0 0 1 + BitVec.ofNat 64 0) x.esz) 4 = true ∧ s.copyDone 9 x = false) ∧
      (let x := tCopy [(1, .fetched (some [1, 2, 3, 4]))]
       let s := sCopy [(1, .fetched (some [1, 2, 3, 4]))]
       aget x.elems 1 = some (.fetched (some [1, 2, 3, 4])) ∧ (x.dstAddr 0 0 1).toNat % x.esz = 0 ∧ (s.hits (s.copyEng 9 x) x (x.dstAddr 0 0 1) x.esz (s.srcPlaces (s.copyEng 9 x) x)).any (fun b => b) = false ∧
         atHome (s.resolveAs x.gen x.core x.ctx x.team (s.scratchOf x.team) .write (x.dstAddr 0 0 1) x.esz) 0x20204 = true ∧
         s.behind x.gid x.core x.gen 9 s.nextId (.home 0x20204) x.esz = false ∧ s.olderPart x.gid 9 (.home 0x20204) x.esz = false ∧ s.homeBusy 0x20204 = false ∧
         s.fate x.ctx x.gen 0x20204 x.esz false = .serve ∧ s.lehr.busy = false ∧ noBar x.barw = false ∧ x.esz ≠ 0) ∧
      (let es : Tbl ElemState := [(0, .landed), (1, .landed)]
       let s := sCopy es
       let x := tCopy es
       aget s.copies 9 = some x ∧ x.perLane = false ∧ x.busy = false ∧ x.gid = 4 ∧ s.copyDone 9 x = true ∧ x.faults = [] ∧ (aget s.groups x.gid).any (·.region.isNone) = true) := by decide +kernel

/-- A copy of one element of 16 bytes from 0x100 to 0x200 without a barrier, with the elements `es`. -/
def tWideCopy (es : Tbl ElemState) : Copy :=
  { tCopy es with args := [0x100, 0x200, dw (1 + 2 ^ 24 + 2 ^ 40 + 4 * 2 ^ 56), 0, 0, 0x800000] }

/-- CopiesAndPersistBarriers: an element of 16 bytes before, between and after the reads of its halves, and between their writes, either half first. -/
theorem test_copy_halves : ∀ u ∈ [false, true],
    let b : List Byte := List.replicate 16 7
    let off := fun (v : Bool) => if v then 8 else 0
    let x := tWideCopy []
    let s := { sCopy [] with copies := [(9, x)] }
    let h := tWideCopy [(0, .half u (some (b.take 8)))]
    let f := tWideCopy [(0, .fetched (some b))]
    let g := tWideCopy [(0, .halfWritten u b [])]
    let puts := fun (y : Copy) (o : Nat) =>
      let t := { s with copies := [(9, y)] }
      let ea := y.dstAddr 0 0 0 + BitVec.ofNat 64 o
      (t.hits (t.copyEng 9 y) y ea 8 (t.srcPlaces (t.copyEng 9 y) y)).any (fun b => b) = false ∧
        atHome (t.resolveAs y.gen y.core y.ctx y.team (t.scratchOf y.team) .write ea 8) (0x20200 + o) = true ∧ t.behind y.gid y.core y.gen 9 t.nextId (.home (0x20200 + o)) 8 = false ∧
        t.olderPart y.gid 9 (.home (0x20200 + o)) 8 = false ∧ t.homeBusy (0x20200 + o) = false ∧ t.fate y.ctx y.gen (0x20200 + o) 8 false = .serve
    x.esz = 16 ∧ x.n0 = 1 ∧ x.n1 = 1 ∧ x.n2 = 1 ∧ (x.srcAddr 0 0 0).toNat % 16 = 0 ∧ engOk (s.engRead (s.copyEng 9 x) .read (x.srcAddr 0 0 0 + BitVec.ofNat 64 (off u)) 8) 8 = true ∧
      aget h.elems 0 = some (.half u (some (b.take 8))) ∧ engOk (s.engRead (s.copyEng 9 h) .read (h.srcAddr 0 0 0 + BitVec.ofNat 64 (off !u)) 8) 8 = true ∧
      aget f.elems 0 = some (.fetched (some b)) ∧ puts f (off u) ∧ aget g.elems 0 = some (.halfWritten u b []) ∧ puts g (off !u) := by decide +kernel

/-- CopiesAndPersistBarriers, second part: a persist barrier that starts, one discarded, one that is settled, one that waits for an image. -/
theorem test_persist_barriers :
    (∀ gd ∈ [none, some 15],
      let c := tCmd .pbar [] gd
      let s := sCmd c
      let w := whoAt s 4
      aget s.groups 4 = some w.g ∧ aget s.cmds 9 = some c ∧ w.g.region = none ∧ s.net = [] ∧ s.nextCmd w.g 2 .pbar = some (9, c, gd.isSome)) ∧
      (let c := { tCmd .pbar [] with started := true }
       let s := sCmd c
       let w := whoAt s 4
       aget s.groups 4 = some w.g ∧ w.g.cq.head? = some 9 ∧ (∀ i ∈ w.g.lq, 9 ≤ i) ∧ s.persistSettled 4 w.g = true ∧
         { s with images := [{ id := 1, granule := tierBase / 64, bytes := [], psn := [], tag := 0, gid := 4 }] }.persistSettled 4 w.g = false) := by decide +kernel

/-- The arguments of a latch of a byte-wide format whose columns start at the window of the team's scratchpad, one byte apart, every row at its column's start. -/
def mlArgs : List DWord := [dw spWindow, dw (2 ^ 32), 0, 0]

/-- The small machine with two teams in its cluster, 256 written bytes in the first one's scratchpad, and command 9 in its queues. -/
def sMat (c : Cmd) (a : Option Array) : State :=
  let s := sCmd c
  { s with
    launches := [(1, { tLaunch with lrec := { w := aset tRec.w 9 (dw (16 + 2 ^ 16 + 2 ^ 32 + 2 * 2 ^ 48 + 2 ^ 56)) } })]
    clusters := [(2, { launch := 1, ord := 0, die := 0, col := 0, row := 0, teams := [3, 6], placedAt := 0 })]
    teams := [(3, { tTeam with sp := (List.range 256).map fun i => (i, { b := 1 }) }), (6, { tTeam with member := 1, core := { die := 0, col := 1, row := 0 }, col := 1, groups := [] })]
    cores := [(0, { array := a }), (1, { array := if c.kind = .mrel then a else none })] }

/-- MatrixArraysAndFences: a latch and a latch of a pair on free arrays. -/
theorem test_latches : ∀ k ∈ [CmdKind.mld, .mldPair],
    let s := sMat (tCmd k mlArgs) none
    let w := whoAt s 4
    s.who 4 = some w ∧ aget s.cmds 9 = some (tCmd k mlArgs) ∧ w.g.done = false ∧ (s.latching w.g k).isNone = true ∧ s.nextCmd w.g 1 k = some (9, tCmd k mlArgs, false) ∧
      s.claimable 4 w.core = true ∧ s.followerCore w = some { die := 0, col := 1, row := 0 } ∧ s.claimable 4 { die := 0, col := 1, row := 0 } = true := by decide +kernel

/-- The request of a latch for the first and the last byte of the tile's columns, and for an address `ea`. -/
def qTile (ea : DWord) : Req :=
  { tReq .record (tileParts 0 [(dw spWindow, 1), (dw (spWindow + 255), 1), (ea, 1)]) with atomic := true }

/-- A latch of kind `k` under way with that request. -/
def sLatch (k : CmdKind) (ea : DWord) : State :=
  let s := sMat { tCmd k mlArgs with started := true, req := some 8 } (some { owner := 4, follower := false })
  { s with reqs := [(8, qTile ea)], batches := [(0, { gid := 4, number := 1 })] }

/-- The latch of that state stands ready to end with its reads made. -/
def latchEnds (k : CmdKind) (ea : DWord) : Bool :=
  let s := sLatch k ea
  let w := whoAt s 4
  let c := { tCmd k mlArgs with started := true, req := some 8 }
  let r := s.readTile (s.latchEng 8 (qTile ea)) (qTile ea).parts
  decide (s.who 4 = some w) && decide (aget s.cmds 9 = some c) && !w.g.done && decide (s.latching w.g k = some (9, c)) && decide (aget s.reqs 8 = some (qTile ea)) &&
    r.2.all Part.settled && decide (r.1.who 4 = some w) && decide (aget r.1.cmds 9 = some c) && decide (r.1.dies = s.dies) &&
    decide (s.followerCore w = some { die := 0, col := 1, row := 0 }) && (aget r.1.batches c.batch).isSome

/-- MatrixArraysAndFences: a latch and a latch of a pair whose elements have all come, and one of which an element is refused. -/
theorem test_latch_ends :
    latchEnds .mld (dw spWindow) = true ∧ latchEnds .mldPair (dw spWindow) = true ∧ latchEnds .mld (dw (spWindow + 0x1000)) = true ∧
      ((sLatch .mld (dw spWindow)).readTile ((sLatch .mld (dw spWindow)).latchEng 8 (qTile (dw spWindow))) (qTile (dw spWindow)).parts).2.all (fun p => p.reject.isNone) = true ∧
      ((sLatch .mld (dw (spWindow + 0x1000))).readTile ((sLatch .mld (dw (spWindow + 0x1000))).latchEng 8 (qTile (dw (spWindow + 0x1000)))) (qTile (dw (spWindow + 0x1000))).parts).2.any
        (fun p => p.reject.isSome) = true := by decide +kernel

/-- MatrixArraysAndFences: one element of the tile that its home serves. -/
theorem test_latch_element :
    let s := sLatch .mld (dw spWindow)
    let q := qTile (dw spWindow)
    aget s.reqs 8 = some q ∧ q.atomic = true ∧ (q.dst == .record) = true ∧ (match q.parts[1]? with
      | some p => p.value.isNone && p.reject.isNone && p.sent.isNone &&
          (match s.engRead (s.latchEng 8 q) (if spWindow ≤ p.ea.toNat then .read else .weights) p.ea p.n with
           | .ok bs t => decide (bs = [1]) && decide (aget t.reqs 8 = some q)
           | _ => false)
      | none => false) = true := by decide +kernel

/-- MatrixArraysAndFences: a latch that finds the array owned by another group, a discarded one, `mrel`, `ofence` at its start and its end. -/
theorem test_matrix_commands :
    (let s := sMat (tCmd .mld mlArgs) (some { owner := 5, follower := false })
     let w := whoAt s 4
     s.who 4 = some w ∧ (s.latching w.g .mld).isNone = true ∧ s.nextCmd w.g 1 .mld = some (9, tCmd .mld mlArgs, false) ∧ s.claimable 4 w.core = false) ∧
      (∀ k ∈ [CmdKind.mld, .mrel],
        let s := sMat (tCmd k mlArgs (some 15)) (some { owner := 4, follower := false })
        s.nextCmd (whoAt s 4).g 1 k = some (9, tCmd k mlArgs (some 15), true)) ∧
      (let s := sMat (tCmd .mrel []) (some { owner := 4, follower := false })
       s.nextCmd (whoAt s 4).g 1 .mrel = some (9, tCmd .mrel [], false)) ∧
      (let s := sCmd (tCmd .ofence [])
       s.nextCmd (whoAt s 4).g 1 .ofence = some (9, tCmd .ofence [], false) ∧ s.nextCmd (whoAt s 4).g 2 .ofence = some (9, tCmd .ofence [], false)) ∧
      (let s := { sCmd (tCmd .ofence [] (some 15)) with groups := [(4, { (whoAt (sCmd (tCmd .ofence [] (some 15))) 4).g with cq := [] })] }
       s.nextCmd (whoAt s 4).g 1 .ofence = some (9, tCmd .ofence [] (some 15), true) ∧ s.nextCmd (whoAt s 4).g 2 .ofence = none) ∧
      (let s := sCmd { tCmd .ofence [] with started := true }
       let w := whoAt s 4
       s.who 4 = some w ∧ w.g.mq = [9] ∧ (∀ i ∈ w.g.lq, 9 ≤ i) ∧ s.laneScratchPending 4 w.g 9 = false ∧ ∃ i ∈ { w.g with lq := [8] }.lq, i < 9) := by decide +kernel

/-- A latched tile of one column of ones in a byte format. -/
def tTile : Tile := { fmt := 1, codes := [List.replicate 256 1] }

/-- A stream of one row at offset 0, whose element address is 0x40. -/
def tStream (started transposed : Bool) : Stream :=
  { gid := 4, batch := 7, pc := 0x40, core := homeCore, ctx := 0, gen := 0, args := [0, 0, dw (2 ^ 48)], transposed := transposed, outs := 1, rows := 1, started := started, partials := [0x3F800000] }

/-- The batch of that stream. -/
def tBatch (barw : DWord) : Batch := { gid := 4, number := 1, closed := true, dst := 3, barw := barw }

/-- The small machine with the stream, its batch, and the array as given. -/
def sStr (k : CmdKind) (gd : Option Nat) (a : Option Array) (x : List (Nat × Stream)) (b : Batch) : State :=
  { sMat { tCmd k [0, 0, dw (2 ^ 48)] gd with batch := 7 } a with streams := x, batches := [(7, b)] }

/-- MatrixStreams, first part: streams that start with a tile and without one. -/
theorem test_streams : ∀ k ∈ [CmdKind.mmul, .mmt],
    let x := tStream false (k = .mmt)
    let c := { tCmd k [0, 0, dw (2 ^ 48)] with batch := 7 }
    let s := sStr k none (some { owner := 4, follower := false, tile := some tTile }) [(9, x)] (tBatch 0)
    let w := whoAt s 4
    let len := (if x.transposed then tTile.codes.length else 256) * x.esz
    s.who 4 = some w ∧ aget s.cmds 9 = some c ∧ aget s.streams 9 = some x ∧ s.nextCmd w.g 1 k = some (9, c, false) ∧ x.rows = 1 ∧ s.tileOf w = some tTile ∧ x.aoff + len ≤ w.lrec.scratch ∧
      w.team.spPoisoned x.aoff len = false ∧ s.behind 4 w.core (s.genStamp w.core w.ctx) 9 s.nextId (.scratch 3 0) len = false ∧
      (sStr k none none [(9, x)] (tBatch 0)).tileOf (whoAt (sStr k none none [(9, x)] (tBatch 0)) 4) = none ∧ aget s.batches 7 = some (tBatch 0) := by decide +kernel

/-- MatrixStreams: an accumulation to be applied, and one that has been. -/
theorem test_accumulations :
    let x := tStream true false
    let s := sStr .mmul none none [(9, x)] (tBatch 0)
    let w := whoAt s 4
    s.who 4 = some w ∧ aget s.streams 9 = some x ∧ 0 < x.rows ∧ 0 < x.outs ∧ 0 ∉ x.applied ∧ aget x.asked 0 = none ∧ s.accBefore 9 x 0 (x.elemAddr 0 0) = false ∧
      x.gid = 4 ∧ s.homeBusy 0x20040 = false ∧ atHome (s.resolveAs x.gen x.core x.ctx w.g.team (s.scratchOf w.g.team) .atomic (x.elemAddr 0 0) 4) 0x20040 = true ∧
      s.behind x.gid x.core x.gen 9 s.nextId (.home 0x20040) 4 = false ∧ s.olderPart x.gid 9 (.home 0x20040) 4 = false ∧ s.fate x.ctx x.gen 0x20040 4 true = .serve ∧ s.lehr.busy = false ∧
      (f32 (round32 .rne (Fp.add false (f32 (BitVec.ofNat 32 (leNat (overlay (s.ownDirty x.core x.ctx 0x20040 4) (cellsRead s.mem 0x20040 4))))) (f32 (x.partials.getD 0 0))))).isFinite = true ∧
      0 ∈ { x with applied := [0] }.applied := by decide +kernel

/-- MatrixStreams: an `mfence` taken up, also a discarded one. -/
theorem test_mfences : ∀ gd ∈ [none, some 15],
    let s := sStr .mfence gd none [] (tBatch 0)
    let c := { tCmd .mfence [0, 0, dw (2 ^ 48)] gd with batch := 7 }
    aget s.cmds 9 = some c ∧ aget s.batches 7 = some (tBatch 0) ∧ s.nextCmd (whoAt s 4).g 1 .mfence = some (9, c, gd.isSome) := by decide +kernel

/-- The small machine with a closed batch. -/
def sBatch (barw : DWord) : State := { tState g53 with batches := [(7, tBatch barw)] }

/-- MatrixStreams: a batch that lands and one that arrives. -/
theorem test_batches : ∀ n ∈ [0, 0x800000],
    (sBatch (dw n)).who 4 = some (whoAt (sBatch (dw n)) 4) ∧ (sBatch (dw n)).nextCmd g53 1 .mfence = none ∧ (sBatch (dw n)).readyBatch 4 = some (7, tBatch (dw n)) ∧
      aget (sBatch (dw n)).batches 7 = some (tBatch (dw n)) ∧ (tBatch (dw n)).arriving = none ∧ (sBatch (dw n)).streams = [] ∧ (tBatch (dw n)).faults = [] ∧ g53.region = none ∧
      noBar (dw n) = decide (n ≠ 0) := by decide +kernel

/-- MatrixStreams, second part: groups of products for each clause. -/
theorem test_group_sums :
    Fp.nan ∈ [Fp.nan] ∧ (Fp.inf true ∈ [Fp.inf true, .inf false] ∧ Fp.inf false ∈ [Fp.inf true, .inf false]) ∧
      (Fp.nan ∉ [Fp.inf true] ∧ Fp.inf false ∉ [Fp.inf true]) ∧ (Fp.nan ∉ [Fp.inf false] ∧ Fp.inf true ∉ [Fp.inf false]) ∧
      (∀ p ∈ [Fp.fin true 0 3, .fin false 0 0], ∃ n e, p = Fp.fin n 0 e) ∧
      ((∀ p ∈ [Fp.fin false 1 0, .fin true 3 (-41)], ∃ n m e, p = Fp.fin n m e ∧ (m = 0 ∨ topExp m e ≤ topExp 1 0)) ∧ ∃ n m e, Fp.fin n m e ∈ [Fp.fin false 1 0, .fin true 3 (-41)] ∧ m ≠ 0 ∧ topExp m e = topExp 1 0) := by
  refine ⟨by decide, by decide, by decide, by decide, ?_, ?_, ⟨false, 1, 0, by decide, by decide, rfl⟩⟩
  · intro p hp
    simp only [List.mem_cons, List.not_mem_nil, or_false] at hp
    rcases hp with rfl | rfl
    · exact ⟨true, 3, rfl⟩
    · exact ⟨false, 0, rfl⟩
  · intro p hp
    simp only [List.mem_cons, List.not_mem_nil, or_false] at hp
    rcases hp with rfl | rfl
    · exact ⟨false, 1, 0, rfl, .inr (Int.le_refl _)⟩
    · exact ⟨true, 3, -41, rfl, .inr (by decide +kernel)⟩


/-! ## Collective commands -/

/-- The record words of each collective for rank 0 of two ranks on packages 0 and 1: an exchange of a 2×2 array of words held by columns and received by
rows; a reduction of one i32; a norm without headers; a barrier. All complete on the barrier at offset 0. -/
def collArgs : CollKind → List DWord
  | .xmar => [0x100, 0x200, dw (2 + 2 * 2 ^ 16 + 2 ^ 32 + 2 ^ 48), dw (1 + 2 * 2 ^ 16 + 2 ^ 32 + 2 ^ 48), 1, 0x100, dw (2 + 2 * 2 ^ 21 + 2 * 2 ^ 42), 0]
  | .xred => [0x100, 0x200, 0x10001, 1, 0]
  | .xnorm => [0x40000000, 0x3F800000, 0, 0, 1, 0]
  | .xbar => [1, 0]

/-- The small machine with the collective `k` at the head of the C-queue. -/
def sColl (q : CmdKind) (k : CollKind) (gd : Option Nat) : State := sCmd (tCmd q (collArgs k) gd)

/-- CollectivesStart: every collective at the head of the queue, also discarded. -/
theorem test_collective_starts :
    ∀ x ∈ [(CmdKind.xmar, CollKind.xmar), (.xred, .xred), (.xnorm, .xnorm), (.xbar, .xbar)], ∀ gd ∈ [none, some 15],
      let s := sColl x.1 x.2 gd
      let w := whoAt s 4
      s.who 4 = some w ∧ aget s.cmds 9 = some (tCmd x.1 (collArgs x.2) gd) ∧ s.nextCmd w.g 2 x.1 = some (9, tCmd x.1 (collArgs x.2) gd, gd.isSome) ∧ (s.readingColl 4 x.2).isNone = true := by
  decide +kernel

/-- A running collective of rank 0. -/
def tColl (k : CollKind) (stage : Nat) : Coll :=
  { gid := 4, kind := k, pc := 0x40, args := collArgs k, dst := 3, core := homeCore, ctx := 0, team := 3, gen := 0, inst := 0, disc := false, hdr := collHdr k (collArgs k), since := 0, stage := stage }

/-- What rank `r` says of the instance of `c`. -/
def tSays (c : Coll) (r : Nat) (b : CollBody) : CollMsg := { ctx := 0, inst := c.inst, src := rankPkg c.rankw r, rank := r, hdr := c.hdr, body := b }

/-- The small machine with the collective `c` under number 9, and what has arrived. -/
def sRun (c : Coll) (said : List CollBody) : State :=
  { sCmd { tCmd .xbar (collArgs c.kind) with started := true } with colls := [(9, c)], collIn := said.map (tSays c (1 - c.rank)) }

/-- CollectivesStart: the source of an exchange, the input of a reduction and a header of a norm are read, and a command that has read them all can send. -/
theorem test_collective_inputs :
    (let c := tColl .xmar 0
     let s := sRun c []
     let d := { c with srcs := [(0, some [1, 2, 3, 4]), (1, none)] }
     s.who 4 = some (whoAt s 4) ∧ aget s.colls 9 = some c ∧ aget s.reqs 9 = none ∧ c.cause = 0 ∧ xmarEsz c.args = 4 ∧ srcCount c.args = 2 ∧
       s.ownPlace (s.collEng 9 c) .read (xmarSrc c.args 1) 4 = true ∧ engOk (s.engRead (s.collEng 9 c) .read (xmarSrc c.args 1) 4) 4 = true ∧
       d.srcRead = true ∧ (sRun d []).readingColl 4 .xmar = some (9, d) ∧ d.rank < d.nr ∧ (xmarTarget d.args d.rank 1).1 = 1 ∧ 1 ∈ d.others) ∧
      (let c := tColl .xred 0
       let s := sRun c []
       let d := { c with inputs := [(0, some 5)] }
       aget s.colls 9 = some c ∧ xredCount c.args = 1 ∧ engOk (s.engRead (s.collEng 9 c) .read (c.elemAddr 0 0) (xredSize c.args)) 4 = true ∧
         (sRun d []).readingColl 4 .xred = some (9, d) ∧ d.rank < d.nr) ∧
      (let a : List DWord := [0x40000000, 0x3F800000, 0x100, 1, dw (1 + 2 ^ 32 + 255 * 2 ^ 40), 0]
       let c := { tColl .xnorm 0 with args := a, hdr := collHdr .xnorm a, inputs := [(0, some 0x200)] }
       let s := sRun c []
       let d := { c with landed := [0] }
       aget s.colls 9 = some c ∧ c.clr = false ∧ c.nh = 1 ∧ c.rank = 1 ∧ engOk (s.engRead (s.collEng 9 c) .read 0x200 4) 4 = true ∧
         (sRun d []).readingColl 4 .xnorm = some (9, d)) := by decide +kernel

/-- CollectivesRun: a piece's element that lands, and a piece that was dropped. -/
theorem test_pieces :
    let c := tColl .xmar 1
    let e : PieceElem := { index := 1, bytes := some [1, 2, 3, 4] }
    let s := sRun c [.start, .piece [e]]
    let d := sRun c [.start, .pieceDropped 4]
    (aget s.colls 9 = some c ∧ c.disc = false ∧ c.cause = 0 ∧ s.heardAll c = true ∧ s.collMismatch c = false ∧ s.pieceOf c 1 = some (tSays c 1 (.piece [e])) ∧
      [e].find? (fun x => x.index = 1) = some e ∧ 1 ∉ c.landed ∧ 1 ∉ c.faulted ∧ 1 < destCount c.args ∧ [1, 2, 3, 4].length = xmarEsz c.args ∧
      c.stage = 1 ∧ s.aperture 0x20204 ≠ .host ∧ atHome (s.resolveAs c.gen c.core c.ctx c.team (s.scratchOf c.team) .write (xmarDst c.args 1) (xmarEsz c.args)) 0x20204 = true ∧ s.behind c.gid c.core c.gen 9 s.nextId (.home 0x20204) 4 = false ∧
      s.olderPart c.gid 9 (.home 0x20204) 4 = false ∧ s.homeBusy 0x20204 = false ∧ s.fate c.ctx c.gen 0x20204 4 false = .serve ∧ s.lehr.busy = false ∧ noBar c.barw = false) ∧
      (d.heardAll c = true ∧ d.collMismatch c = false ∧ d.pieceOf c 1 = some (tSays c 1 (.pieceDropped 4)) ∧ (∀ i ∈ pieceIndexes c.args 1 c.rank, i ∉ c.landed) ∧ pieceIndexes c.args 1 c.rank = [1]) := by
  decide +kernel

/-- The norm of rank 1 of the set, on package 0; rank 0 is on package 255. -/
def tNorm1 (stage : Nat) : Coll :=
  let a : List DWord := [0x40000000, 0x3F800000, 0, 0, dw (1 + 2 ^ 32 + 255 * 2 ^ 40), 0]
  { tColl .xnorm stage with args := a, hdr := collHdr .xnorm a }

/-- CollectivesRun: the norm's result and commit at rank 0 and at rank 1, and the numbers of its clauses. -/
theorem test_norms :
    (let c := tColl .xnorm 1
     let s := sRun c [.norm 0x3F800000 false]
     s.collMismatch c = false ∧ s.collLost c = false ∧ c.rank = 0 ∧ (∀ r ∈ c.others, s.heard c r bodyNorm = true) ∧ c.others = [1]) ∧
      (let c := tNorm1 1
       let s := sRun c [.normResult 0x40400000 0x3F000000 false]
       aget s.colls 9 = some c ∧ s.collMismatch c = false ∧ s.collLost c = false ∧ c.rank ≠ 0 ∧ s.resultHeard c = some (0x40400000, 0x3F000000, false)) ∧
      (let c := { tColl .xnorm 2 with result := some (0x40400000, 0x3F000000, true) }
       let s := sRun c [.normAck]
       aget s.colls 9 = some c ∧ s.lehr.busy = false ∧ s.collLost c = false ∧ ∀ r ∈ c.others, s.heard c r bodyNormAck = true) ∧
      (let c := { tNorm1 2 with result := some (0x40400000, 0x3F000000, true) }
       (sRun c [.normCommit]).heard c 0 bodyNormCommit = true ∧ c.rank ≠ 0) ∧
      ((f32 0x7FC00000).isNan = true ∧ f32 0xFF800000 = .inf true ∧ (match f32 0x80000000 with | .fin _ m _ => m == 0 | _ => false) = true ∧
        (match f32 0xBF800000 with | .fin n m _ => n && m != 0 | _ => false) = true) := by decide +kernel

/-- CollectivesRun: barriers, exchanges and reductions at their ends, a mismatch, a lost rank, and the record of a command that is over. -/
theorem test_collective_ends :
    (let c := { tColl .xbar 0 with relId := some 8 }
     let s := sRun c []
     c.stage < 3 ∧ s.collMismatch c = false ∧ s.lostNow c = false ∧ (∀ r, c.relId = some r → aget s.rels r = none) ∧ c.rank < c.nr) ∧
      (let c := tColl .xbar 1
       let s := sRun c [.released]
       s.collMismatch c = false ∧ s.lostNow c = false ∧ ∀ r ∈ c.others, s.heard c r bodyReleased = true) ∧
      (let c := { tColl .xmar 1 with landed := [0, 1] }
       let s := sRun c [.piece [], .pieceAck]
       s.collMismatch c = false ∧ s.lostNow c = false ∧ s.collHeard c = true ∧ c.landed.length + c.faulted.length = destCount c.args) ∧
      (let c := { tColl .xred 1 with inputs := [(0, some 5)] }
       let s := sRun c [.values [some 7]]
       s.collMismatch c = false ∧ s.lostNow c = false ∧ s.collHeard c = true ∧ xredCount c.args = 1 ∧ s.xredElem c 0 = some 12 ∧
         c.stage = 1 ∧ c.landed = [] ∧ c.faulted = [] ∧ c.asked = [] ∧
         atHome (s.resolveAs c.gen c.core c.ctx c.team (s.scratchOf c.team) .write (c.elemAddr 1 0) (xredSize c.args)) 0x20200 = true ∧ s.behind c.gid c.core c.gen 9 s.nextId (.home 0x20200) 4 = false ∧
         s.olderPart c.gid 9 (.home 0x20200) 4 = false ∧ s.homeBusy 0x20200 = false ∧ s.fate c.ctx c.gen 0x20200 4 false = .serve ∧ s.lehr.busy = false ∧ xredSize c.args = 4) ∧
      (let c := { tColl .xred 1 with disc := true }
       let s := sRun c [.values [some 7]]
       s.collMismatch c = false ∧ s.lostNow c = false ∧ s.collHeard c = true) ∧
      (let c := tColl .xbar 1
       let s := { sRun c [] with collIn := [{ tSays c 1 .start with hdr := collHdr .xnorm (collArgs .xnorm) }] }
       s.collMismatch c = true ∧ c.begun = false) ∧
      (let c := tColl .xbar 1
       let s := sRun c [.lost]
       s.collMismatch c = false ∧ s.lostNow c = true ∧ ∀ x ∈ c.asked, x.1 < 65536) ∧
      (let c := { tColl .xred 1 with landed := [0], asked := [(1, 77)] }
       let s := sRun c [.lost]
       s.lostNow c = true ∧ c.stage < 3 ∧ ∀ x ∈ c.asked, x.1 < 65536) ∧
      (let c := { tColl .xbar 3 with cause := 7 }
       let s := sRun c []
       s.collCredits 9 = false ∧ c.cause ≠ 6 ∧ s.who c.gid = some (whoAt s 4)) ∧
      (let c := tColl .xbar 3
       let s := sRun c []
       s.collCredits 9 = false ∧ c.cause ≠ 6 ∧ c.faults = [] ∧ (aget s.cmds 9).isSome = true ∧ (aget s.groups c.gid).any (·.region.isNone) = true) := by
  refine ⟨⟨by decide +kernel, by decide +kernel, by decide +kernel, ?_, by decide +kernel⟩, by decide +kernel, by decide +kernel, by decide +kernel, by decide +kernel, by decide +kernel,
    by decide +kernel, by decide +kernel, by decide +kernel, by decide +kernel⟩
  rintro r ⟨⟩
  rfl


/-! ## Rounds and the fabric -/

/-- Context 0 with region record 0 at physical 0x30000: two slots, RC = 5, slot 0 registered, slot 1 not; `arr` and `ret` as given, and the advances under way. -/
def sRnd (arr ret : Byte) (adv : List Advance) : State :=
  { State.reset with
    mem := [(0x18FF8, 0x01), (0x18FF9, 0x90), (0x18FFA, 0x01), (0x19FF8, 0x01), (0x19FF9, 0xA0), (0x19FFA, 0x01), (0x1AFF8, 0x01), (0x1AFF9, 0xB0), (0x1AFFA, 0x01), (0x1BFE8, 0x01), (0x1BFE9, 0xC0),
      (0x1BFEA, 0x01), (0x1C0C0, 0x07), (0x1C0C2, 0x03), (0x30000, 0x01), (0x30001, 0x02), (0x30009, 0x80), (0x30010, 0x80), (0x30018, 0x05), (0x30020, 0x01)] ++
      (if arr = 0 then [] else [(0x30028, arr)]) ++ (if ret = 0 then [] else [(0x30030, ret)])
    ctxs := [(0, { en := true, ptroot := 0x18000 })]
    advances := adv
    rcls := [(rclKey 0 0 3 7, 5)]
    arrivedSince := [(0, 0)] }

/-- The record as those bytes give it. -/
def tRnd (arr ret : DWord) : RegionRec := { pa := 0x30000, p := 2, base := 0x8000, len := 128, rc := 5, reg := 1, arr := arr, ret := ret }

/-- RoundAdvances: every slot has arrived or retired, or one has not. -/
theorem test_rounds :
    ((sRnd 1 2 []).regionHome 0 0 = some (tRnd 1 2) ∧ (sRnd 1 2 []).advances = [] ∧ (∀ k, k < 2 → (if (tRnd 1 2).reg.getLsbD k then (tRnd 1 2).arr.getLsbD k else (tRnd 1 2).ret.getLsbD k) = true) ∧
        (tRnd 1 2).rc ≠ 0xFFFFFFFF ∧ (0, 0) ∈ (sRnd 1 2 []).arrivedSince) ∧
      ((sRnd 1 0 []).regionHome 0 0 = some (tRnd 1 0) ∧ ¬ ∀ k, k < 2 → (if (tRnd 1 0).reg.getLsbD k then (tRnd 1 0).arr.getLsbD k else (tRnd 1 0).ret.getLsbD k) = true) := by
  decide +kernel

/-- RoundAdvances: an advance whose home has acknowledged, or not. -/
theorem test_adoptions :
    (let a : Advance := { ctx := 0, region := 0, to_ := 6, homes := [homeIx 3 7] }
       let b := { a with acked := [homeIx 3 7] }
       (sRnd 1 2 [a]).advances.find? (fun x => x.ctx = 0 && x.region = 0 && x.homes.contains (homeIx 3 7)) = some a ∧
         (sRnd 1 2 [a]).advances.find? (fun x => x.ctx = 0 && x.region = 0) = some a ∧ (∃ h ∈ a.homes, h ∉ a.acked) ∧
         (sRnd 1 2 [b]).advances.find? (fun x => x.ctx = 0 && x.region = 0) = some b ∧ (sRnd 1 2 [b]).regionHome 0 0 = some (tRnd 1 2) ∧ ∀ h ∈ b.homes, h ∈ b.acked) := by decide +kernel

/-- RoundAdvances: an advance of a region whose record is valid no more. -/
theorem test_ended_advance :
    let a : Advance := { ctx := 0, region := 0, to_ := 6, homes := [] }
    let s := { sRnd 1 2 [a] with mem := [] }
    s.advances.find? (fun x => x.ctx = 0 && x.region = 0) = some a ∧ s.regionHome 0 0 = none ∧ s.streams = [] ∧ s.lehr.busy = false := by decide +kernel

/-- RoundAdvances: a held load whose need is met and one whose need is not. -/
theorem test_held_loads :
    (∀ need ∈ [(5 : Nat), 6], ∀ now ∈ [true, false], ∀ asLd ∈ [true, false],
        let p := { tPart 0 4 none with attr := { nc := true }, region := some (0, w32 need), sent := some 0, asLd := asLd }
        let q := { tReq (.scalar 3 false 4) [p] with now := now }
        let s := { sReq q with rcls := [(rclKey 0 0 ((tState g53).homeDie 0x20100) ((tState g53).homeSlice 0x20100), 5)] }
        aget s.reqs 5 = some q ∧ q.parts[0]? = some p ∧ p.value = none ∧ p.sent.isSome = true ∧ p.fwd = [] ∧ (∀ x ∈ q.parts, x.reject = none) ∧ q.atomic = false ∧ q.faulted = false ∧
          s.homeBusy 0x20100 = false ∧ s.partBlocked 5 q p = false ∧ s.partFate q p = .serve ∧ s.regionPkg q.ctx 0 = s.self ∧ aget s.rcls (rclKey q.ctx 0 (s.homeDie 0x20100) (s.homeSlice 0x20100)) = some 5) := by
  decide +kernel

/-- The small machine with port 47 up to package 1, its last flit at cycle 0, and what has arrived. -/
def sPort (n : Nat) (come : List FabricMsg) : State :=
  { sAt n g53 with ports := [(47, { lanes := 8, up := true, peer := 1 })], fabricIn := come }

/-- FabricTraffic: the last port up; a request of another package that waits for its answer; ports and packages that fail. -/
theorem test_fabric :
    (47 < 48 ∧ ((sPort 0 []).port 47).up = true ∧ (sPort 0 []).lost = false ∧ { sPort 0 [] with lost := true }.lost = true ∧ (sPort 0 []).lehr.busy = false ∧ ((sPort 0 []).port 46).up = false ∧ (sPort 0 []).lehrMay 0x20100 = true) ∧
      (let p := { tPart 0 4 none with place := .remote 1 0x100, sent := some 77 }
       let q := tReq (.scalar 3 false 4) [p]
       let s := { sReq q with ports := [(47, { lanes := 8, up := true, peer := 1 })] }
       (s.port 47).up = true ∧ s.lost = false ∧ aget s.net 77 = none ∧ s.partSent 77 = some (5, 0) ∧ aget s.reqs 5 = some q ∧ q.parts[0]? = some p ∧ ∀ x ∈ q.parts, x.reject = none) ∧
      (∀ op ∈ [RemoteOp.load 4 none, .store [some 1, none] false 0, .atomic 0 .n32 1 0 0],
        (sPort 0 [.access 1 8 0 0 0x20100 op]).lost = false ∧ (sPort 0 [.access 1 8 0 0 0x20100 op]).remoteFate 0 0 0x20100 (remoteLen op) (remoteReads op) = .serve ∧
          (sPort 0 []).remoteFate 0 1 0x20100 (remoteLen op) (remoteReads op) = .stale ∧ (sPort 0 []).remoteFate 0 0 hostEnd (remoteLen op) (remoteReads op) = .bad 0x06) ∧
      ((sPort 0 []).homeBusy 0x20100 = false ∧ (sPort 0 []).streams = []) ∧
      (((sPort 0 []).port 47).failed ≤ 2 ∧ (∃ k, k < 48 ∧ ((sPort 0 []).port k).failed ≤ 2)) ∧
      (6 ∈ [0, 6, 7, 8] ∧ 6 + ((sPort 0 []).port 47).failed ≤ 8 ∧ ((sPort 0 []).port 47).failed ≤ 2 ∧ 6 ≠ 0 ∧ 255 < 256 ∧ 63 < 64) ∧
      (let s := sPort 17000000 []
       (∃ q ∈ s.ports, q.2.peer = 1 ∧ q.2.lanes ≠ 0) ∧ (∀ q ∈ s.ports, q.2.peer = 1 → q.2.lanes ≠ 0 → q.2.silentSince + 17000000 ≤ s.cycle) ∧ 1 ≠ s.self ∧ 1 ∉ s.lostPkgs) ∧
      (∃ q ∈ (sPort 16999999 []).ports, q.2.peer = 1 ∧ q.2.lanes ≠ 0 ∧ (sPort 16999999 []).cycle < q.2.silentSince + 17000000) := by
  refine ⟨by decide +kernel, by decide +kernel, by decide +kernel, by decide +kernel, ⟨by decide +kernel, 0, by decide +kernel⟩, by decide +kernel, by decide +kernel, by decide +kernel⟩


/-! ## The persistence tier, the cullet and the gaffer -/

/-- An image of granule 0 of the tier. -/
def tImage : Image := { id := 1, granule := tierBase / 64, bytes := List.replicate 64 7, psn := [], tag := 0 }

/-- The package after reset with that image on its way and `n` images of the same granule in the WBQ. -/
def sImages (n : Nat) : State := { State.reset with images := [tImage], wbq := List.replicate n tImage }

/-- A WBQ that holds `n` images, and no fewer than it may, is full. -/
theorem images_full {n : Nat} (h : Config.wbqGranules ≤ n) :
    Config.wbqGranules ≤ ((sImages n).wbq.filter fun y => granuleDie y.granule = granuleDie tImage.granule).length ∧
      (sImages n).wbq.find? (fun y => granuleDie y.granule = granuleDie tImage.granule) = some tImage := by
  have h0 : n ≠ 0 := by rintro rfl; exact absurd h (by decide)
  simp [sImages, h, h0]

/-- CapturesOfAStep: an image that enters a WBQ with room, and one that finds it full. -/
theorem test_images :
    ((sImages 0).images.find? (fun y => y.granule = tImage.granule) = some tImage ∧ ((sImages 0).imageBehind tImage) = false ∧
        ((sImages 0).wbq.filter fun y => granuleDie y.granule = granuleDie tImage.granule).length < Config.wbqGranules) ∧
      ((sImages Config.wbqGranules).images = [tImage] ∧
        Config.wbqGranules ≤ ((sImages Config.wbqGranules).wbq.filter fun y => granuleDie y.granule = granuleDie tImage.granule).length ∧
        (sImages Config.wbqGranules).wbq.find? (fun y => granuleDie y.granule = granuleDie tImage.granule) = some tImage) :=
  ⟨by decide +kernel, rfl, images_full (Nat.le_refl _)⟩

/-- The snapshot capability of a 2 MiB range with its two slots above it, capturing step 0 in stage `stage`, with the copied lines `ls`. -/
def tLehr (stage : Nat) (ls : List Nat) : Lehr :=
  { liveBase := BitVec.ofNat 52 tierBase, liveLen := 0x200000, slot0 := BitVec.ofNat 52 (tierBase + 0x400000), slot1 := BitVec.ofNat 52 (tierBase + 0x800000), group := 1, busy := true, stage := stage
    copied := ls }

/-- The package after reset with that capability, and a dirty granule of the range. -/
def sLehr (l : Lehr) : State := { State.reset with lehr := l, l2dirty := [tierBase / 128], l2tierDirty := [tierBase / 64] }

/-- CapturesOfAStep: a capture that is armed, cleared, sweeping its last line, drained, reported, complete, and over. -/
theorem test_captures :
    (State.reset.lehr.busy = false ∧ (sLehr (tLehr 1 [])).lehr.busy = true ∧ State.reset.snapValid = false ∧
        (let s := { sLehr { tLehr 0 [] with busy := false } with normbox := { step := 1 } }
         s.snapValid = true ∧ s.lehr.sstep.toNat < s.normbox.step.toNat)) ∧
      ((sLehr (tLehr 1 [])).protBlocks = false ∧ (tLehr 1 []).fail = 0 ∧ (tLehr 1 []).early = [] ∧ (sLehr (tLehr 1 [])).snapValid = true ∧ (sLehr (tLehr 1 [])).lehrMay (sLehr (tLehr 1 [])).slotBase = true) ∧
      ((sLehr (tLehr 4 [])).inRange (tierBase / 256 + 8191) = true ∧ tierBase / 256 + 8191 ∉ (tLehr 4 []).copied ∧
        (sLehr (tLehr 4 [])).lehrMay (256 * (tierBase / 256 + 8191)) = true ∧ (sLehr (tLehr 4 [])).lehrMay ((sLehr (tLehr 4 [])).slotLine (tierBase / 256 + 8191)) = true) ∧
      ((tLehr 4 []).drainSent = false ∧ (sLehr (tLehr 4 [])).oldWrites = false ∧ (tLehr 4 []).drainStarted = false ∧ (sLehr (tLehr 4 [])).inRange (tierBase / 64 / 4) = true ∧
        (sLehr (tLehr 4 [])).oldTag ((aget (sLehr (tLehr 4 [])).tags (tierBase / 64 / 4)).getD 0) = true) ∧
      (let l := { tLehr 4 [] with drainStarted := true, drainWait := [] }
       l.drainSent = false ∧ (sLehr l).oldWrites = false) ∧
      (let s := { sLehr (tLehr 4 []) with fabricIn := [.drained 0 (tLehr 4 []).sstep] }
       s.fabricIn = [.drained 0 s.lehr.sstep] ∧ s.lehr.busy = true ∧ 0 ∈ s.lehr.packages) ∧
      (sLehr { tLehr 6 [] with hdrWait := [] }).lehr.stage = 6 ∧ (sLehr { tLehr 4 [] with fail := 0x22 }).lehr.fail ≠ 0 := by decide +kernel

/-- The capture whose copied lines are `ls`, with every report in. -/
def lDone (ls : List Nat) : Lehr := { tLehr 4 ls with drainSent := true, drained := [0] }

/-- CapturesOfAStep: every line is copied and every report is in. -/
theorem test_capture_complete : ∃ ls, (lDone ls).copied.length = (sLehr (lDone ls)).snapLines ∧ (lDone ls).fail = 0 ∧ (∀ p ∈ (lDone ls).packages, p ∈ (lDone ls).drained) ∧
    (lDone ls).hdr0 = [] ∧ (lDone ls).hdrWait = [] ∧ (sLehr (lDone ls)).snapValid = true ∧
    (sLehr (lDone ls)).lehrMay (sLehr (lDone ls)).slotBase = true := by
  obtain ⟨ls, h⟩ : ∃ ls : List Nat, ls.length = 8192 := ⟨List.replicate 8192 0, List.length_replicate⟩
  refine ⟨ls, ?_, rfl, ?_, rfl, rfl, ?_, ?_⟩
  · rw [show (sLehr (lDone ls)).snapLines = (sLehr (lDone [])).snapLines from rfl]
    exact h.trans (by decide +kernel)
  · rw [show (lDone ls).packages = (lDone []).packages from rfl, show (lDone ls).drained = (lDone []).drained from rfl]
    decide +kernel
  · rw [show (sLehr (lDone ls)).snapValid = (sLehr (lDone [])).snapValid from rfl]
    decide +kernel
  · rw [show (sLehr (lDone ls)).lehrMay (sLehr (lDone ls)).slotBase = (sLehr (lDone [])).lehrMay (sLehr (lDone [])).slotBase from rfl]
    decide +kernel

/-- CapturesOfAStep: captures that failed late, at stages 6 and 1, and captures whose end posts the record: failed at ARM, failed in the sweep, and complete; with the cullet enabled, idle and encoding. -/
theorem test_capture_ends :
    (let l := { tLehr 6 [] with fail := 0x22 }
     l.busy = true ∧ l.fail ≠ 0 ∧ l.fail ≠ 0x20 ∧ l.fail ≠ 0x21 ∧ l.early = [] ∧ (sLehr l).lehrMay (sLehr l).slotBase = true ∧ ({ l with stage := 1 } : Lehr).stage = 1) ∧
      (({ tLehr 1 [] with fail := 0x20 } : Lehr).fail = 0x20 ∧
        (let l := { tLehr 4 [] with fail := 0x22 }
         l.fail ≠ 0 ∧ l.stage ≠ 1 ∧ l.stage ≠ 6 ∧ l.hdr0 = [] ∧ l.hdrWait = []) ∧ (tLehr 6 []).fail = 0 ∧ (tLehr 6 []).hdrWait = []) ∧
      (let s := { sLehr (tLehr 6 []) with cullet := { en := true } }
       let u := s.postRecord 0 { typ := 2, status := 0, queue := 0, slot := 0, ctag := 0, time := 0, info := 0 }
       u.cullet.en = true ∧ u.cullet.encoding = none ∧ ({ u.cullet with encoding := some 1 } : Cullet).encoding ≠ none) := by decide +kernel

/-- The package of member 0 (of sixteen packages 0 to 15) with the recovery capability `c` and the range of `tLehr`. -/
def sCullet (c : Cullet) : State := { State.reset with lehr := { tLehr 0 [] with busy := false }, cullet := { c with mempkg := 0x0F0E0D0C0B0A09080706050403020100, en := true } }

/-- CulletProtectsAndRecovers: the last stripe encoded, all fragments accepted, every report in, a recovery that starts, serves, rebuilds its last stripe and is done. -/
theorem test_cullet :
    (let s := sCullet { encoding := some 2 }
     s.cullet.encoding = some 2 ∧ 42 < s.stripeCount ∧ 42 ∉ s.cullet.encoded ∧ s.cullet.package ((s.cullet.member.toNat + 15) % 16) ≠ s.self) ∧
      (let s := sCullet { encoding := some 2, encoded := List.range 43 }
       s.cullet.reported = false ∧ s.cullet.encoded.length = s.stripeCount ∧ s.cullet.wait = [] ∧ s.cullet.asked = []) ∧
      (let s := { sCullet { encoding := some 2, reported := true } with fabricIn := (List.range 16).map fun p => .fragmentsAccepted p 2 }
       s.cullet.reported = true ∧ ∀ p ∈ ((List.range 16).map s.cullet.package).filter (· ≠ s.self), FabricMsg.fragmentsAccepted p 2 ∈ s.fabricIn) ∧
      ((sCullet {}).cullet.go = false ∧ (sCullet {}).cullet.serving = false ∧
        (let s := sCullet { serving := true, done := true }
         s.cullet.go = false ∧ s.cullet.done = true) ∧ (sCullet { serving := true }).cullet.done = false) ∧
      (let s := sCullet { go := true, prot0 := 0x8000000000000002 }
       s.cullet.go = true ∧ s.cullet.newest = some 2) ∧
      (let s := sCullet { serving := true }
       s.sweptTo 42 = false ∧ s.stripeWanted 42 = false ∧ s.cullet.stripes.length ≠ s.stripeCount) ∧
      (let s := sCullet { serving := true, stripes := List.range 42 }
       s.cullet.serving = true ∧ s.cullet.done = false ∧ 42 < s.stripeCount ∧ 42 ∉ s.cullet.stripes ∧ 42 ∉ s.cullet.failedStripes ∧ s.sweptTo 42 = true ∧ s.lehr.busy = false) ∧
      (let s := { sCullet { serving := true, adoptBase := 0x10000000 } with fabricIn := [.access 1 1 0 0 (0x10000000 + stripeBytes * 42) (.load 8 none)] }
       42 < s.stripeCount ∧ 42 ∉ s.cullet.stripes ∧ s.stripeWanted 42 = true) ∧
      (let s := sCullet { serving := true, stripes := List.range 43 }
       s.cullet.done = false ∧ s.cullet.stripes.length = s.stripeCount) := by decide +kernel

/-- Twelve fragments of a stripe that hold the bytes `r`. -/
def tFrags (r : List Byte) : List (Nat × List Byte) := [(0, r), (1, r), (2, r), (3, r), (4, r), (5, r), (6, r), (7, r), (8, r), (9, r), (10, r), (11, r)]

/-- CulletProtectsAndRecovers: a stripe with twelve fragments, with eleven, and twelve fragments of data. -/
theorem test_stripes :
    (∃ ds, decodeStripe (tFrags (List.replicate 4096 1)) = some ds) ∧ decodeStripe [] = none ∧ ([] : List (Nat × List Byte)).length < 12 ∧
      ((List.replicate 12 (List.replicate 4096 (1 : Byte))).length = 12 ∧ ∀ d ∈ List.replicate 12 (List.replicate 4096 (1 : Byte)), d.length = 4096) := by
  have hr : (List.replicate 4096 (1 : Byte)).length = fragBytes := List.length_replicate
  generalize hg : List.replicate 4096 (1 : Byte) = r at hr
  refine ⟨?_, by decide +kernel, by decide, by simp, fun d hd => ?_⟩
  · unfold decodeStripe
    rw [if_neg (by simp [tFrags, hr, List.range, List.range.loop])]
    exact ⟨_, rfl⟩
  · rw [(List.mem_replicate.1 hd).2, hr]
    rfl

/-- Twelve fragments of a lost member's stripe that its survivors hold. -/
def tHeld (r : List Byte) : List (Nat × List Byte) := [(1, r), (2, r), (3, r), (4, r), (5, r), (6, r), (7, r), (8, r), (9, r), (10, r), (11, r), (12, r)]

/-- Member 0, adopting member 1, whose own fragment is poisoned. -/
def sAdopt : State := { sCullet { serving := true, lost := 1, adoptBase := 0x10000000 } with ecc := [((sCullet {}).fragAddr 0 1 0 / 32, .poisoned)] }

/-- CulletProtectsAndRecovers: a stripe that is rebuilt from twelve surviving fragments, and one that has none. -/
theorem test_survivors : sAdopt.survivors 0 [] = [] ∧ decodeStripe [] = none ∧ sAdopt.sweptTo 0 = true ∧ sAdopt.lehrMay (sAdopt.cullet.adoptBase.toNat + stripeBytes * 0) = true ∧
    ∃ r, (∃ ds, decodeStripe (sAdopt.survivors 0 (tHeld r)) = some ds) ∧ (1, r) ∈ sAdopt.survivors 0 (tHeld r) := by
  refine ⟨by decide +kernel, by decide +kernel, by decide +kernel, by decide +kernel, List.replicate 4096 1, ?_⟩
  have hr : (List.replicate 4096 (1 : Byte)).length = fragBytes := List.length_replicate
  generalize List.replicate 4096 (1 : Byte) = r at hr ⊢
  have h : sAdopt.survivors 0 (tHeld r) = tHeld r := by
    unfold State.survivors
    rw [show sAdopt.ownFragment 0 = [] from by decide +kernel]
    rfl
  rw [h]
  refine ⟨?_, by simp [tHeld]⟩
  unfold decodeStripe
  rw [if_neg (by simp [tHeld, hr, List.range, List.range.loop])]
  exact ⟨_, rfl⟩

/-- The small machine with a request in the mailbox. -/
def sReqM (r : BitVec 128) : State := { tState g53 with mbox := { req := r, busy := true } }

/-- A request for the buffer at the last page of HBM, code `k` and `n` bytes. -/
def reqAt (k n : Nat) : BitVec 128 := BitVec.ofNat 128 (k + (2 ^ 28 - 1) * 2 ^ 24 + n * 2 ^ 64)

/-- MailboxRequests: loads with a reserved bit, of a buffer that ends beyond HBM and at its end, poisoned and clean. Whether policy allows it and whether the image verifies are
free; each of the clauses that ask for one has its other hypotheses here. -/
theorem test_load_firmware :
    (let s := sReqM 0x101
     s.mbox.busy = true ∧ s.mbox.result = none ∧ s.mbox.req.toNat % 256 = 1 ∧ s.mbox.req.toNat / 2 ^ 8 % 2 ^ 16 ≠ 0) ∧
      (let r := (sReqM (reqAt 1 4097)).mbox.req.toNat
       r % 256 = 1 ∧ r / 2 ^ 8 % 2 ^ 16 = 0 ∧ r / 2 ^ 96 % 2 ^ 32 = 0 ∧ State.reset.hbmSize < r / 2 ^ 24 % 2 ^ 40 * 4096 + r / 2 ^ 64 % 2 ^ 32) ∧
      (let s := sReqM (reqAt 1 64)
       let r := s.mbox.req.toNat
       let pa := r / 2 ^ 24 % 2 ^ 40 * 4096
       pa + r / 2 ^ 64 % 2 ^ 32 ≤ s.hbmSize ∧ s.bufferBarred pa 64 = false ∧ s.homeRead pa 64 = some (List.replicate 64 0) ∧
         { s with ecc := [(pa / 32, .poisoned)] }.homeRead pa 64 = none) ∧
      (let w : Tbl Window := [(64 * baseDie ((2 ^ 28 - 1) * 4096), { en := true, sec := true, base := 0, limit := 0x1000000 })]
       { sReqM (reqAt 1 64) with windows := w }.bufferBarred ((2 ^ 28 - 1) * 4096) 64 = true) := by
  refine ⟨by decide +kernel, by decide +kernel, by decide +kernel, by decide +kernel⟩

/-- MailboxRequests: reports after the last leaf, too early, in time, with a reserved bit, and of a buffer that ends beyond HBM. -/
theorem test_attest :
    let r : BitVec 128 := 0x30000002
    (r.toNat % 256 = 2 ∧ r.toNat / 2 ^ 8 % 2 ^ 16 = 0 ∧ r.toNat / 2 ^ 64 = 0 ∧ r.toNat / 2 ^ 24 % 2 ^ 40 * 4096 + 16384 ≤ (sReqM r).hbmSize) ∧
      (986176 ≤ { (sReqM r).mbox with leaf := 986176 }.leaf.toNat) ∧ ((sReqM r).mbox.leaf.toNat < 986176 ∧ (sReqM r).cycle < 0 + 217600000000) ∧
      ((sReqM r).mbox.lastReport = none ∧ (sReqM r).lehr.busy = false) ∧
      ((0x102 : BitVec 128).toNat % 256 = 2 ∧ (0x102 : BitVec 128).toNat / 2 ^ 8 % 2 ^ 16 ≠ 0 ∧ (sReqM 0x102).mbox.leaf.toNat < 986176) ∧
      (let q := (reqAt 2 0).toNat
       q % 256 = 2 ∧ q / 2 ^ 8 % 2 ^ 16 = 0 ∧ q / 2 ^ 64 = 0 ∧ State.reset.hbmSize < q / 2 ^ 24 % 2 ^ 40 * 4096 + 16384) := by decide +kernel

/-- MailboxRequests: a context in use and one that is not, windows that are empty, that overlap, that do not. -/
theorem test_worlds :
    (let r : BitVec 128 := 0x13F03
     r.toNat % 256 = 3 ∧ r.toNat / 2 ^ 14 % 4 = 0 ∧ r.toNat / 2 ^ 17 = 0 ∧ r.toNat / 2 ^ 8 % 64 = 63 ∧ ((sReqM r).ctx 63).en = false ∧ (sReqM r).ctxActive 63 = false ∧ ((sReqM r).ctx 0).en = true) ∧
      (let r : BitVec 128 := BitVec.ofNat 128 (4 + 3 * 2 ^ 8 + 63 * 2 ^ 16 + 2 ^ 22 + 5 * 2 ^ 24 + 6 * 2 ^ 64)
       r.toNat % 256 = 4 ∧ r.toNat / 2 ^ 10 % 2 ^ 6 = 0 ∧ r.toNat / 2 ^ 60 % 16 = 0 ∧ r.toNat / 2 ^ 100 = 0 ∧ r.getLsbD 22 = true ∧
         (sReqM r).windowOverlaps 3 63 { en := true, base := 5, limit := 6 } = false ∧
         { sReqM r with windows := [(64 * 3, { en := true, base := 0, limit := 6 })] }.windowOverlaps 3 63 { en := true, base := 5, limit := 6 } = true) ∧
      ((6 : BitVec 36).toNat ≤ (6 : BitVec 36).toNat ∧ (5 : BitVec 36).toNat < (6 : BitVec 36).toNat) := by decide +kernel

/-- MailboxRequests: a request that ends with its result, one of an unknown code, and one that is not formed yet. -/
theorem test_request_ends :
    (let s := { sReqM 1 with mbox := { req := 1, busy := true, result := some (0, 0, 0) } }
     s.mbox.busy = true ∧ s.mbox.result = some (0, 0, 0)) ∧
      ((sReqM 5).mbox.result = none ∧ (5 : BitVec 128).toNat % 256 ∉ [1, 2, 3, 4, 16]) ∧ (16 : BitVec 128).toNat % 256 ∈ [1, 2, 3, 4, 16] := by decide +kernel

/-- The small machine with its group parked as `p`, and a park action `act` requested. -/
def sPark (act : Nat) (p : Option Park) : State := { tState { g53 with park := p } with mbox := { req := BitVec.ofNat 128 (16 + act * 2 ^ 14), busy := true } }

/-- A park by a fault of code `code`. -/
def tPark (code sub : BitVec 8) (nest precise system : Bool) : Park := { cause := { code := code, sub := sub, pc := 0x40 }, nest := nest, precise := precise, system := system }

/-- ParkActionsAndPower, first part: each action on no parked group, on groups that refuse it, on groups that take it. -/
theorem test_park_actions :
    (∀ act ∈ [0, 1, 2, 3], (sPark act none).processing 16 = true ∧ (sPark act none).parkedAt (sPark act none).mbox.req = none ∧ reqBits (sPark act none).mbox.req 15 14 = act ∧
        reqBits (sPark act none).mbox.req 127 34 = 0) ∧
      (∀ act ∈ [0, 1, 2, 3], ∀ p ∈ [tPark 0x0D 0 false false true, tPark 0x09 6 false false true, tPark 0x06 0 false true false, tPark 0x06 0 true true false, tPark 0x0A 0 false false true, tPark 0x06 0 false false false],
        let s := sPark act (some p)
        s.processing 16 = true ∧ s.parkedAt s.mbox.req = some (whoAt s 4, p) ∧ s.who 4 = some (whoAt s 4) ∧ s.net = [] ∧ s.reqs = [] ∧ (whoAt s 4).g.rejected = [] ∧ (whoAt s 4).g.done = false) ∧
      ((tPark 0x0D 0 false false true).cause.code = 0x0D ∧ (tPark 0x09 6 false false true).killOnly = true ∧ (tPark 0x06 0 false true false).killOnly = false ∧
        (tPark 0x0A 0 false false true).hang = true ∧ (tPark 0x06 0 false false false).precise = false ∧ (tPark 0x06 0 false true false).mayContinue = true ∧ (tPark 0x06 0 false true false).cause.lane = false ∧
        (tPark 0x06 0 true true false).nest = true ∧ (tPark 0x06 0 false true false).mayDeliver (whoAt (sPark 3 none) 4) = true ∧ (whoAt (sPark 3 none) 4).g.sExited = false ∧
        (aget (sPark 3 none).launches (whoAt (sPark 3 none) 4).team.launch).isSome = true) := by decide +kernel

/-- ParkActionsAndPower, second part: a powered package with one image in its WBQs, and one without power. -/
theorem test_power :
    (let s := { State.reset with wbq := [tImage] }
     s.powered = true ∧ s.wbq = [tImage]) ∧ { State.reset with powered := false }.powered = false := by decide +kernel


/-! ## Failures, the distributor, pre-emption -/

/-- The package after reset with `n` dies in service. -/
def sDies (n : Nat) : State := { State.reset with dies := (List.range 16).map fun d => (d, { sib := d, inService := d < n }) }

/-- FailuresAndRetirement: words of each check state, dies at the limit and above it, a core that lives and one that is dead, slices, channels, table changes. -/
theorem test_failures :
    (∀ e ∈ [none, some (Ecc.bit 3), some .broken, some .poisoned], let s := { State.reset with ecc := (e.map fun x => (0, x)).toList }
      aget s.ecc 0 = e ∧ 32 * 0 < s.hbmSize) ∧ (tierBase ≤ 32 * (tierEnd / 32 - 1) ∧ 32 * (tierEnd / 32 - 1) < tierEnd) ∧
      (((sDies 12).die 11).inService = true ∧ (sDies 12).servingDies ≤ 12) ∧ (((sDies 16).die 15).inService = true ∧ 12 < (sDies 16).servingDies) ∧ ((sDies 15).die 15).inService = false ∧
      (let k : CoreKey := { die := 15, col := 15, row := 9 }
       (State.reset.core k).dead = false ∧ (State.reset.die 15).inService = true ∧ State.reset.teams = [] ∧ (State.reset.die 15).dead = [] ∧
         ({ State.reset with cores := [(coreIx k, { dead := true })] }.core k).dead = true) ∧
      (let s := tState g53
       s.who 4 = some (whoAt s 4) ∧ g53.done = false ∧ (whoAt s 4).core.die = 0 ∧ tTeam.retired = false ∧ tTeam.frame = none ∧ 4 ∈ tTeam.groups) ∧
      (let s := { State.reset with l2dirty := [1] }
       511 < (if (s.die 0).n480 then 480 else 512) ∧ (s.die 0).sdead < 48 ∧ s.homeDie 128 = 0 ∧ s.homeSlice 128 = 1) ∧
      (let s := { State.reset with dies := [(0, { sib := 0, sdead := 16 })], l2dirty := [tierBase / 128], l2tierDirty := [tierBase / 64] }
       (s.die 0).inService = true ∧ (s.die 0).n480 = false ∧ 16 ≤ (s.die 0).sdead ∧ s.advances = [] ∧ s.homeDie (64 * (tierBase / 64)) = 0) ∧ (State.reset.die 0).sdead < 16 ∧
      ((aget State.reset.pcdead 15).getD 0 = 0 ∧ (aget { State.reset with pcdead := [(15, 16)] }.pcdead 15).getD 0 = 16) ∧
      ({ State.reset with cfgPending := 1 }.cfgPending ≠ 0 ∧ State.reset.tables.writing = none ∧ State.reset.cfgPending = 0) ∧
      ({ State.reset with tables := { writing := some (true, {}) } }.tables.writing = some (true, {})) := by decide +kernel

/-- The bytes of a record that is accepted, in the slot of a queue at virtual 0. -/
def qMem : List Host.Cell :=
  tMem.take 14 ++ [(0x20040, 1), (0x20044, 1), (0x20046, 1), (0x20048, 16), (0x2004A, 1), (0x2004C, 1), (0x2004E, 1), (0x2004F, 1), (0x20054, 1)]

/-- The first fifteen fields of a slot, `v` giving their values. -/
def tFields (v : Nat → DWord) : Tbl DWord := (List.range 15).map fun i => (i, v i)

/-- Context 0 with one entry in queue 7 at `base`, of which the fields `part` have been read, and memory `m`. -/
def sQueue (m : List Host.Cell) (base : DWord) (part : Tbl DWord) : State :=
  { State.reset with mem := m, ctxs := [(0, { en := true, ptroot := 0x10000, queues := [(7, { base := base, tail := 1, part := part })] })] }

/-- The state that the slot is read in: one free value has been drawn. -/
def sDrawn (s : State) : State := { s with fresh := s.fresh + 1 }

/-- Field 15 is among the fields read where it alone is unread. -/
theorem fieldsNow_last (s : State) (v : Nat → DWord) : (s.fieldsNow (tFields v)).getLsbD 15 = true := by
  unfold State.fieldsNow
  generalize (Config.freeWord s.fresh).setWidth 16 = m
  dsimp only
  split
  · rename_i h
    simpa [tFields, aget, List.range, List.range.loop] using h
  · rfl

/-- The read of the last field of a slot, whatever other fields are asked for. -/
theorem readFields_last (s : State) (v : Nat → DWord) (pa : Nat) (m : BitVec 16) (h : m.getLsbD 15 = true) :
    s.readFields pa m (tFields v) = (s.homeDWord (pa + 120)).map fun x => aset (tFields v) 15 x := by
  simp [State.readFields, tFields, aget, List.range, List.range.loop, h]

/-- The values of the fields of the slot in `qMem`. -/
def qWord (i : Nat) : DWord := leDWord (cellsRead qMem (0x20000 + 8 * i) 8)

/-- The same with an undefined bit of word 9 set. -/
def qBad (i : Nat) : DWord := if i = 9 then dw (2 ^ 63) else qWord i

/-- LaunchesAreTakenStartedAndCompleted: a slot whose last field is read, its record accepted, and rejected; a slot with a poisoned field, one that cannot be reached, and one on another package. (Whether a field stays
unread is free.) -/
theorem test_slot_reads :
    (∀ v ∈ [qWord, qBad], let s := sQueue qMem 0 (tFields v)
      (s.ctx 0).en = true ∧ ((s.ctx 0).queue 7).head ≠ ((s.ctx 0).queue 7).tail ∧ okIs ((sDrawn s).slotPlace 0 ((s.ctx 0).queue 7)) (.home 0x20000) = true ∧
        (sDrawn s).homeDWord (0x20000 + 120) = some 0 ∧ (∀ i, i < 16 → aget (aset (tFields v) 15 0) i ≠ none)) ∧
      LaunchRec.fault { w := (List.range 16).map fun i => (i, (aget (aset (tFields qWord) 15 0) i).getD 0) } = none ∧
      LaunchRec.fault { w := (List.range 16).map fun i => (i, (aget (aset (tFields qBad) 15 0) i).getD 0) } ≠ none ∧
      (let s := { sQueue qMem 0 (tFields qWord) with ecc := [((0x20000 + 120) / 32, .poisoned)] }
       okIs ((sDrawn s).slotPlace 0 ((s.ctx 0).queue 7)) (.home 0x20000) = true ∧ (sDrawn s).homeDWord (0x20000 + 120) = none) ∧
      (let s := sQueue qMem 0x10000 []
       errIs (((sDrawn s).slotPlace 0 ((s.ctx 0).queue 7)).map fun _ => ()) 0x06 = true) ∧
      (let s := { sQueue (tMem.take 14 ++ [(0x14006, 0x10)]) 0 [] with domain := [0, 1] }
       okIs ((sDrawn s).slotPlace 0 ((s.ctx 0).queue 7)) (.remote 1 0x20000) = true ∧ aget ((s.ctx 0).queue 7).part 15 = none) ∧
      State.reset.devAsks = [] := by decide +kernel

/-- LaunchesAreTakenStartedAndCompleted: the read of that slot, with the fields that are drawn. -/
theorem test_slot_part :
    let s := sQueue qMem 0 (tFields qWord)
    (sDrawn s).readFields 0x20000 (s.fieldsNow (tFields qWord)) (tFields qWord) = some (aset (tFields qWord) 15 0) ∧
      { sDrawn s with ecc := [((0x20000 + 120) / 32, .poisoned)] }.readFields 0x20000 (s.fieldsNow (tFields qWord)) (tFields qWord) = none := by
  refine ⟨?_, ?_⟩ <;> rw [readFields_last _ _ _ _ (fieldsNow_last _ _)]
  · rw [show (sDrawn (sQueue qMem 0 (tFields qWord))).homeDWord (0x20000 + 120) = some 0 from by decide +kernel]
    rfl
  · rw [show ({ sDrawn (sQueue qMem 0 (tFields qWord)) with ecc := [((0x20000 + 120) / 32, .poisoned)] } : State).homeDWord (0x20000 + 120) = none from by decide +kernel]
    rfl

/-- LaunchesAreTakenStartedAndCompleted: the kernel queue's head and its candidate. -/
theorem test_queues :
    (State.reset.ctx 63).en = false ∧
      (let s := { State.reset with ctxs := [(63, { en := true, kq := [{ lrec := tRec, slot := 5 }] })] }
       (s.ctx 63).kq = [{ lrec := tRec, slot := 5 }] ∧ (s.ctx 63).en = true ∧ s.candidate 63 8 = none ∧ tRec.fault = none) ∧
      (let s := { State.reset with launches := [(1, { tLaunch with queue := 8, started := false, placed := 0 })] }
       s.candidate 0 8 = some (1, { tLaunch with queue := 8, started := false, placed := 0 })) := by decide +kernel

/-- Context 0 with the launch `l`, unstarted or placed, and the event bits `ev`. -/
def sLaunch (l : Launch) (ev : BitVec 256) : State := { State.reset with ctxs := [(0, { en := true, ev := ev })], launches := [(1, l)], nextId := 2 }

/-- A launch in queue 8 that waits for bit 63 of window 3. -/
def lWait : Launch := { tLaunch with queue := 8, started := false, placed := 0, lrec := { w := aset (aset tRec.w 10 (dw (64 * 2 ^ 32 + 3 * 2 ^ 24))) 12 0x8000000000000000 } }

/-- LaunchesAreTakenStartedAndCompleted: a launch whose bit is set and one whose bit is not; a launch that is over and one that is not. -/
theorem test_launches :
    (let s := (sLaunch lWait (1 <<< 255)).settleAges
     s.candidate 0 8 = some (1, lWait) ∧ s.waitMet lWait = true ∧ s.earlierCandidate 1 lWait = false) ∧
      (let s := (sLaunch lWait 0).settleAges
       s.candidate 0 8 = some (1, lWait) ∧ s.waitMet lWait = false) ∧
      (let s := sLaunch tLaunch 0
       aget s.launches 1 = some tLaunch ∧ tLaunch.started = true ∧ s.hasNext 1 tLaunch = false ∧ s.launchBusy 1 = false ∧ s.teams = []) ∧
      (let l := { tLaunch with placed := 0 }
       aget (sLaunch l 0).launches 1 = some l ∧ (sLaunch l 0).hasNext 1 l = true) := by decide +kernel

/-- A launch of one cluster of one column and ten rows, of priority 1, that has failed to fit since cycle 0. -/
def lTall : Launch :=
  { tLaunch with placed := 0, failSince := some 0, lrec := { w := aset (aset (aset tRec.w 8 (dw (1 + 10 * 2 ^ 32 + 2 ^ 48))) 9 (dw (16 + 2 ^ 16 + 2 ^ 32 + 2 ^ 48 + 10 * 2 ^ 56))) 10 (dw (2 ^ 32 + 2 ^ 8)) } }

/-- A package of one die of one column, whose first core's store is held by the preemptible team of launch 1, and launch 5 which needs every core. -/
def sTight (victim : Cluster) : State :=
  { tState g53 with
    cycle := 2 ^ 22
    dies := { fst := 0, snd := { sib := 0, width := 1 } } :: (List.range 15).map fun d => (d + 1, { sib := d + 1, inService := false })
    launches := [(1, { tLaunch with lrec := { w := aset tRec.w 10 (dw (64 * 2 ^ 32 + 2 ^ 16)) } }), (5, lTall)]
    clusters := [(2, victim)]
    teams := [(3, { tTeam with size := 524288 })] }

/-- The cluster of the small machine. -/
def tCluster : Cluster := { launch := 1, ord := 0, die := 0, col := 0, row := 0, teams := [3], placedAt := 0 }

/-- PlacementRetirementAndPreemption, first part: a launch whose cluster fits the last place of a die, and one that does not; a launch that has failed for 2^22 cycles; a die to be numbered anew. -/
theorem test_placement :
    (let l := { tLaunch with placed := 0 }
     let s := sLaunch l 0
     let u := s.settleAges.refit
     aget u.launches 1 = some l ∧ u.hasNext 1 l = true ∧ (u.oldestSaved 1).isNone = true ∧ u.rectFits l 15 14 9 = true ∧ u.mayPlace 1 l = true ∧ l.lrec.cluw = 1 ∧ l.lrec.cluh = 1 ∧
       l.lrec.lanes = l.lrec.width ∧ l.lrec.rgn = false ∧ u.rectFits l 15 15 9 = false) ∧
      (let s := State.reset
       let s1 := { s with dies := [(0, { sib := 0, renumber := true, dead := [(15, 9)] })] }
       (s1.die 0).renumber = true ∧ (s1.die 0).inService = true ∧ s1.teams = [] ∧ (s1.die 0).dead = [(15, 9)]) ∧
      (∃ x ∈ (tState g53).teams, x.2.retired = false ∧ x.2.core.die = 0) := by
  refine ⟨by decide +kernel, by decide +kernel, ⟨(3, tTeam), by decide +kernel, by decide +kernel, by decide +kernel⟩⟩

/-- PlacementRetirementAndPreemption: a launch that has failed to fit for 2^22 cycles, the victim that it stops, and clusters that it may not stop. -/
theorem test_victims :
    (let s := sTight tCluster
     let u := s.settleAges
     (aget u.refit.launches 5).any (fun l => l.failSince = some 0) = true ∧ 0 + 2 ^ 22 ≤ s.cycle ∧
       (aget u.launches 5).any (fun l => u.hasNext 5 l && (u.firstFit 5 l).isNone && u.isVictim 5 l 2) = true ∧ aget u.clusters 2 = some tCluster) ∧
      (let u := (sTight { tCluster with saved := true }).settleAges
       (aget u.launches 5).any (fun l => !u.eligible l (2, { tCluster with saved := true })) = true ∧ ∀ y ∈ u.clusters, y.1 = 2 → y.2 = { tCluster with saved := true }) ∧
      (let s := sLaunch { tLaunch with placed := 0 } 0
       let u := s.settleAges
       (u.firstFit 1 { tLaunch with placed := 0 }).isSome = true) := by decide +kernel

/-- PlacementRetirementAndPreemption: groups whose stream has ended, idle, busy, and with a cause still held. -/
theorem test_retirement :
    (let g := { g53 with sExited := true }
     let s := tState g
     s.who 4 = some (whoAt s 4) ∧ s.mayIssue g = true ∧ g.late = [] ∧ s.groupBusy 4 g = false ∧ s.net = [] ∧ s.streams = [] ∧ (∀ j ∈ (whoAt s 4).team.groups, j = 4) ∧ (whoAt s 4).team.retired = false) ∧
      (let g := { g53 with sExited := true, lq := [9] }
       (tState g).groupBusy 4 g = true ∧ (tState g).mayIssue g = true) ∧
      (let g := { g53 with sExited := true, late := [{ code := 0x06, pc := 0x40, late := true }] }
       (tState g).mayIssue g = true ∧ g.late = [{ code := 0x06, pc := 0x40, late := true }]) := by decide +kernel

/-- A small launch: one register, no scratchpad. -/
def lSmall : Launch := { tLaunch with lrec := { w := aset (aset tRec.w 10 (dw (2 ^ 32 + 2 ^ 16))) 11 0 } }

/-- Its group, every register of every lane written, every bit empty. -/
def gSmall : Group := { g53 with sregs := [], sfe := 0, vfe := 0, lanes := (List.range 16).map fun l => (l, { regs := (List.range 8).map fun k => (k, 0) }) }

/-- Its team. -/
def tSmall : Team := { tTeam with size := 0 }

/-- Context 0 with its frames mapped by one page of 1 GiB, and the cluster `x` of that launch. -/
def sSave (x : Cluster) (g : Group) : State :=
  { tState g with
    mem := [(0x18FF8, 0x01), (0x18FF9, 0x90), (0x18FFA, 0x01), (0x19F00, 0x01), (0x19F01, 0xA0), (0x19F02, 0x01), (0x1A000, 0x07), (0x1A003, 0x40)]
    ctxs := [(0, { en := true, ptroot := 0x18000 })], launches := [(1, lSmall)], clusters := [(2, x)], teams := [(3, tSmall)] }

/-- PlacementRetirementAndPreemption, second part: a cluster whose last team is saved, one with a parked group, one that is not quiet yet. -/
theorem test_saving :
    (let x := { tCluster with stopping := true }
     let s := sSave x { gSmall with done := true }
     aget s.launches 1 = some lSmall ∧ aget s.clusters 2 = some x ∧ (∀ g ∈ s.clusterGroups x, g.2.park = none ∧ s.quietGroup g = true) ∧
       (∀ t ∈ s.liveTeams x, ∀ y ∈ (s.core t.2.core).l1, y.isDirty = false) ∧ s.net = [] ∧ (s.clusterAll x).length = 1 ∧ (∀ g ∈ s.clusterAll x, g.2.done = true ∧ s.groupBusy g.1 g.2 = false) ∧ s.liveTeams x = [(3, tSmall)]) ∧
      (let x := { tCluster with stopping := true }
       (∀ g ∈ (sSave x gSmall).clusterGroups x, g.2.park = none ∧ (sSave x gSmall).quietGroup g = true) ∧ (sSave x gSmall).clusterGroups x = [(4, gSmall)]) ∧
      (let x := { tCluster with stopping := true }
       let s := sSave x { gSmall with park := some (tPark 0x06 0 false true false) }
       ∃ g ∈ s.clusterGroups x, g.2.park.isSome = true) ∧
      (let x := { tCluster with stopping := true }
       let s := sSave x { gSmall with quar := [{ at_ := 0, effects := [] }] }
       (∀ g ∈ s.clusterGroups x, g.2.park = none) ∧ ∃ g ∈ s.clusterGroups x, s.quietGroup g = false) ∧
      (let x := { tCluster with stopping := true }
       let s := sSave x { gSmall with done := true, lq := [9] }
       (∀ g ∈ s.clusterGroups x, g.2.park = none) ∧ ∃ g ∈ s.clusterAll x, g.2.done = true ∧ s.groupBusy g.1 g.2 = true) := by decide +kernel

/-- PlacementRetirementAndPreemption, second part: a frame that can be written, and one that cannot. -/
theorem test_frames :
    ((sSave tCluster { gSmall with done := true }).saveTeams lSmall [(3, tSmall)]).isSome = true ∧
      ({ sSave tCluster { gSmall with done := true } with mem := [] }.saveTeams lSmall [(3, tSmall)]).isNone = true := by decide +kernel

/-- The machine after a save: the team stands on no core, and frame 0 holds what R391 and R392 put into it: NGROUP 1, LIVE 16, no live barrier, the modifiers at
their start, s0 full. -/
def sSaved : State :=
  let s := sSave { tCluster with saved := true } gSmall
  { s with
    mem := s.mem ++ [(0x40000010, 1), (0x40000020, 16)] ++ (List.range 32).map (fun i => (0x40000028 + i, 0xFF)) ++ (List.range 8).map (fun i => (0x40010044 + 8 * i, 4)) ++ [(0x40010300, 1)]
    teams := [(3, { tSmall with core := nowhere, frame := some 0 })], frames := [(0, 0)] }

/-- Cells of other addresses are passed over. -/
theorem cellRead_skip (m n : List Host.Cell) (a : Nat) (h : ∀ p ∈ m, p.1 ≠ a) : cellRead (m ++ n) a = cellRead n a := by
  induction m with
  | nil => rfl
  | cons p t ih =>
    rw [List.cons_append, show cellRead (p :: (t ++ n)) a = if a = p.1 then p.2 else cellRead (t ++ n) a from rfl, if_neg fun e => h p (by simp) e.symm]
    exact ih fun q hq => h q (by simp [hq])

/-- A run of cells reads as its values. -/
theorem cellRead_run (v : Nat → Byte) (b n i : Nat) (m : List Host.Cell) (h : i < n) : cellRead ((List.range n).map (fun j => (b + j, v j)) ++ m) (b + i) = v i := by
  induction n generalizing m with
  | zero => omega
  | succ n ih =>
    rw [List.range_succ, List.map_append, List.append_assoc]
    by_cases e : i = n
    · subst e
      rw [cellRead_skip _ _ _ (by simp; omega)]
      simp [cellRead]
    · exact ih _ (by omega)

/-- The bytes in the device's own form that the frame of seed 0 holds for group 0. -/
def ownCells : List Host.Cell := (List.range 768).map fun i => (0x40010800 + i, Config.freeByte (0 + 0x10800 + i))

/-- The page table's entries, their zero bytes too (so that a walk finds each before it passes over the frame). -/
def tableCells : List Host.Cell := [0x18FF8, 0x19F00, 0x1A000].flatMap fun a => (List.range 8).map fun i => (a + i, cellRead sSaved.mem (a + i))

/-- The machine of `sSaved` with those bytes in its memory. -/
def sOwn : State := { sSaved with mem := tableCells ++ (sSaved.mem ++ ownCells) }

/-- The frame of its team. -/
def fOwn : List (Nat × List Byte) := sOwn.frameOf { tSmall with core := nowhere, frame := some 0 } lSmall

/-- Its bytes in the device's own form are as they were written. -/
theorem own_read : cellsRead sOwn.mem 0x40010800 768 = (ownForm 0 0x10800 768).2 := by
  refine List.ext_getElem (by simp [ownForm]) fun i h _ => ?_
  rw [cellsRead_getElem]
  have hi : i < 768 := by simpa using h
  rw [show sOwn.mem = (tableCells ++ sSaved.mem) ++ (ownCells ++ []) from by simp [sOwn], cellRead_skip _ _ _ ?_]
  · exact (cellRead_run (fun j => Config.freeByte (0 + 0x10800 + j)) 0x40010800 768 i [] hi).trans (by simp [ownForm])
  · have : ∀ p ∈ tableCells ++ sSaved.mem, p.1 < 0x40010800 := by decide +kernel
    intro p hp
    have := this p hp
    omega

/-- They are read at their home. -/
theorem own_home : sOwn.homeRead 0x40010800 (ownForm 0 0x10800 768).2.length = some (ownForm 0 0x10800 768).2 := by
  have hp : sOwn.poisonIn 0x40010800 768 = false := by decide +kernel
  have hl : (ownForm 0 0x10800 768).2.length = 768 := by
    unfold ownForm
    rw [List.length_map, List.length_range]
  unfold State.homeRead
  rw [hl, hp, own_read]
  rfl

/-- A part of a frame that the memory holds as it was written. -/
def isHeld (p : Nat × List Byte) : Bool :=
  match sOwn.frameAddr 0 0 p.1 with
  | some pa => sOwn.homeRead pa p.2.length = some p.2
  | none => false

/-- A part that stands elsewhere, as `sSaved` holds it. -/
def isElsewhere (p : Nat × List Byte) : Bool :=
  match sOwn.frameAddr 0 0 p.1 with
  | some pa => 0x40000000 ≤ pa && (pa + p.2.length ≤ 0x40010800 || 0x40010B00 ≤ pa) && sSaved.homeRead pa p.2.length = some p.2
  | none => false

/-- The parts before it and after it. -/
theorem rest_elsewhere : (fOwn.take 123 ++ fOwn.drop 124).all isElsewhere = true := by decide +kernel

/-- The cells added change no byte of another part of the frame. -/
theorem own_else (a : Nat) (h : 0x40000000 ≤ a) (h2 : a < 0x40010800 ∨ 0x40010B00 ≤ a) : cellRead sOwn.mem a = cellRead sSaved.mem a := by
  have ht : ∀ p ∈ tableCells, p.1 < 0x40000000 := by decide +kernel
  rw [show sOwn.mem = tableCells ++ (sSaved.mem ++ ownCells) from rfl, cellRead_skip _ _ _ fun p hp => by have := ht p hp; omega]
  have ho : ∀ p ∈ ownCells, p.1 ≠ a := by
    intro p hp
    obtain ⟨i, hi, rfl⟩ := List.mem_map.1 hp
    have := List.mem_range.1 hi
    show 0x40010800 + i ≠ a
    omega
  generalize sSaved.mem = m
  induction m with
  | nil => simpa using cellRead_skip ownCells [] a ho
  | cons p t ih => simp only [List.cons_append, cellRead, ih]

/-- So such a part is held. -/
theorem held_elsewhere (p : Nat × List Byte) (h : isElsewhere p = true) : isHeld p = true := by
  unfold isElsewhere at h
  unfold isHeld
  split at h
  · rename_i pa hp
    simp only [Bool.and_eq_true, Bool.or_eq_true, decide_eq_true_eq] at h
    obtain ⟨⟨h1, h2⟩, h3⟩ := h
    have hc : sOwn.homeRead pa p.2.length = sSaved.homeRead pa p.2.length := by
      have e : cellsRead sOwn.mem pa p.2.length = cellsRead sSaved.mem pa p.2.length := by
        refine List.ext_getElem (by simp) fun i hi _ => ?_
        rw [cellsRead_getElem, cellsRead_getElem]
        have := hi
        rw [cellsRead_length] at this
        exact own_else _ (by omega) (by omega)
      unfold State.homeRead
      rw [e]
      rfl
    simp only [hc, h3, decide_true]
  · cases h

/-- PlacementRetirementAndPreemption: a frame that is intact. -/
theorem test_intact : sOwn.frameIntact 0 0 fOwn = true := by
  have h : fOwn = fOwn.take 123 ++ ownForm 0 0x10800 768 :: fOwn.drop 124 := rfl
  have ho : isHeld (ownForm 0 0x10800 768) = true := by
    unfold isHeld
    rw [show sOwn.frameAddr 0 0 (ownForm 0 0x10800 768).1 = some 0x40010800 from by decide +kernel]
    exact decide_eq_true own_home
  have ha : fOwn.all isHeld = true := by
    have hr := rest_elsewhere
    rw [List.all_append, Bool.and_eq_true] at hr
    rw [h, List.all_append, List.all_cons, Bool.and_eq_true, Bool.and_eq_true]
    exact ⟨List.all_eq_true.2 fun p hp => held_elsewhere p (List.all_eq_true.1 hr.1 p hp), ho, List.all_eq_true.2 fun p hp => held_elsewhere p (List.all_eq_true.1 hr.2 p hp)⟩
  exact ha

/-- PlacementRetirementAndPreemption: a saved cluster that resumes elsewhere, its frame as it was written. -/
theorem test_resumption :
    let u := sOwn.settleAges.refit
    let x := { tCluster with saved := true }
    aget u.launches 1 = some lSmall ∧ u.oldestSaved 1 = some (2, x) ∧ u.nextFits 1 lSmall 15 14 9 = true ∧ u.mayPlace 1 lSmall = true ∧
      u.liveTeams x = [(3, { tSmall with core := nowhere, frame := some 0 })] ∧ tSmall.groups = [4] ∧ aget sOwn.groups 4 = some gSmall ∧ gSmall.done = false := by decide +kernel


/-! ## Empty registers -/

/-- The lane group with v4 full or empty as bit 0 of `k` says, v6 as bit 1, v8 as bit 2, v10 as bit 3, and s63 empty. -/
def gEmpty (k : Nat) : Group :=
  { lg with sfe := 0x7FFFFFFFFFFFFFFF, vfe := BitVec.ofNat 256 (2 ^ 0 + k % 2 * 2 ^ 4 + k / 2 % 2 * 2 ^ 6 + k / 4 % 2 * 2 ^ 8 + k / 8 % 2 * 2 ^ 10) }

/-- FullEmptyRules: an empty last scalar register; every lane register empty in turn, with lanes active and with none, with the mode bits clear and set. -/
theorem test_FullEmpty :
    (let g := gEmpty 15
     (tState g).cur = some { gid := 4 } ∧ (tState g).who 4 = some (whoAt (tState g) 4) ∧ g.sfull 63 = false ∧ g.sfull 62 = true) ∧
      (∀ k ∈ [15, 14, 13, 11, 7], ∀ fe ∈ [true, false], ∀ gd ∈ [LGuard.always, .pred 23 false],
        let f := { tF .i32 0 0 with feA := fe, feB := fe, feC := fe, guard := gd }
        let s := lState (gEmpty k)
        let c := ctxOf s f 0 0
        laneReadyB s f {} c = true ∧ f.bsel = .vec ∧ f.csel = .vec ∧ f.d.toNat < c.who.lrec.regsAlloc ∧ f.a.toNat < c.who.lrec.regsAlloc ∧ f.b.toNat < c.who.lrec.regsAlloc ∧ f.c.toNat < c.who.lrec.regsAlloc ∧
          (needs f true true true false).illegal c = false ∧ (needs f true true true true).illegal c = false ∧ c.who.g.vfull 4 = decide (k ≠ 14) ∧ c.who.g.vfull 6 = decide (k ≠ 13) ∧
          c.who.g.vfull 8 = decide (k ≠ 11) ∧ c.who.g.vfull 10 = decide (k ≠ 7)) ∧
      (let s := lState (gEmpty 13)
       (ctxOf s (tF .i32 0 0) 0 0).act ≠ [] ∧ (ctxOf s { tF .i32 0 0 with guard := .pred 23 false } 0 0).act = []) := by decide +kernel

/-! ## What the host reads -/

/-- The configuration window after reset: the first header (R36) and its LENGTH (R40), the gap behind it, CTXBASE and NCTX (R41), COLMAP of row 0 of die 0 (R403), QLOG2
and CQLOG2 of context 3 (R53). -/
theorem test_host_reads :
    [0x0, 0x8, 0x40, 0x6A0, 0x100, 0x103028, 0x103128].map State.reset.bar0Word =
        [0x0000005000010001, 0x40, 0, 0x0000004000100000, 0x0EDCBA9876543210, 1, 2] ∧
      State.reset.bar0Read 0x102A 0 = [] ∧ State.reset.bar0Read 0x103029 4 = [0, 0, 0, 0] ∧ State.reset.bar0Read 0x50 2 = [2, 0] := by decide +kernel

end Sys2Proof.Tests
end

section
/-!
SUPPORT. Scalar branches, jumps and calls (R145): the branch condition and the target in the terms of the spec, and what `br`,
`jmp` and `call` do when they stand ready.
-/
namespace Sys2Proof.Machine

/-- The model decides the branch condition as the table of R145 gives it. -/
theorem brHolds_iff (c : BrCond) (x y : DWord) : brHolds c x y = true ↔ BranchTaken c x y := by
  cases c <;> exact decide_eq_true_iff

/-- A word offset counts in steps of four bytes (R96). -/
theorem relTarget_eq (pc : DWord) {n : Nat} (off : BitVec n) : relTarget pc off = pc + 4 * off.signExtend 64 := by
  rw [relTarget, BitVec.shiftLeft_eq_mul_twoPow, BitVec.mul_comm, show BitVec.twoPow 64 2 = 4 by decide]

/-- Going on is a jump to the word that follows. -/
theorem Group.next_eq_goto (g : Group) : g.next = g.goto (g.spc + 4) := rfl

theorem exec_br_taken {s : State} {w : Who} {c : BrCond} {a b : SReg} (off : BitVec 11) (h : SReady s w [a, b])
    (taken : BranchTaken c (w.g.sget a) (w.g.sget b)) :
    exec (.br c a b off) s = .next (s.setGroup w.gid (w.g.goto (w.g.spc + 4 * off.signExtend 64))) := by
  rw [exec_br, execBr, sIssue_ready h, if_pos ((brHolds_iff ..).2 taken), relTarget_eq]

theorem exec_br_not_taken {s : State} {w : Who} {c : BrCond} {a b : SReg} (off : BitVec 11) (h : SReady s w [a, b])
    (untaken : ¬ BranchTaken c (w.g.sget a) (w.g.sget b)) :
    exec (.br c a b off) s = .next (s.setGroup w.gid (w.g.goto (w.g.spc + 4))) := by
  rw [exec_br, execBr, sIssue_ready h, if_neg (mt (brHolds_iff ..).1 untaken), Group.next_eq_goto]

theorem exec_jmp_ready {s : State} {w : Who} (off : BitVec 26) (h : SReady s w []) :
    exec (.jmp off) s = .next (s.setGroup w.gid (w.g.goto (w.g.spc + 4 * off.signExtend 64))) := by
  rw [exec_jmp, execJmp, sIssue_ready h, relTarget_eq]

theorem exec_call_ready {s : State} {w : Who} (off : BitVec 26) (h : SReady s w [63]) :
    exec (.call off) s =
      .next (s.setGroup w.gid ((w.g.sput 63 (w.g.spc + 4)).goto (w.g.spc + 4 * off.signExtend 64))) := by
  rw [exec_call, execCall, sIssue_ready h, relTarget_eq]

/-- Settles O12: each form ready to issue runs its body, whose condition and target are those of R145. -/
theorem branchesJumpsCalls : Obligations.BranchesJumpsCalls := fun _ _ _ _ _ off11 off26 =>
  ⟨exec_br_taken off11, exec_br_not_taken off11, exec_jmp_ready off26, exec_call_ready off26⟩

end Sys2Proof.Machine
end

section
/-!
SUPPORT. Lane instructions that write one register: what `laneWrite` does where it stands ready.
-/
namespace Sys2Proof.Machine

theorem PutReg.put (d : Nat) (v : Word) (x : Lane) : PutReg d v x (x.put d v) :=
  ⟨by rw [Lane.get_put, if_pos rfl], fun k hk => by rw [Lane.get_put, if_neg hk], rfl, rfl, rfl⟩

/-- Writing the same value again changes nothing that `PutReg` sees. -/
theorem PutReg.put_again {d : Nat} {v : Word} {x y : Lane} (h : PutReg d v x y) : PutReg d v x (y.put d v) := by
  obtain ⟨_, others, preds, life, atEnd⟩ := h
  obtain ⟨written, others', preds', life', atEnd'⟩ := PutReg.put d v y
  exact ⟨written, fun k hk => (others' k hk).trans (others k hk), preds'.trans preds, life'.trans life, atEnd'.trans atEnd⟩

theorem RunsLanes.mono {s : State} {c : LaneCtx} {o : Out} {p q : Nat → Lane → Lane → Prop} (h : RunsLanes s c o p)
    (weaker : ∀ l x y, p l x y → q l x y) : RunsLanes s c o q := by
  obtain ⟨t, g, next, group, kept, reqs, cores, groupKept, flags, lanes⟩ := h
  exact ⟨t, g, next, group, kept, reqs, cores, groupKept, flags, fun l hl => weaker l _ _ (lanes l hl)⟩

/-- An instruction that writes 32 bits to v[d] and stands ready puts its value there, in every active lane. -/
theorem laneWrite_ready {s : State} {f : LF} {n : Need} {c : LaneCtx} (h : LaneReady s f n c) (fn : LaneCtx → Nat → Word) :
    RunsLanes s c (laneWrite s f n fn) fun l x y => PutReg f.d.toNat (fn c l) x y := by
  rw [laneWrite, laneIssue_ready h]
  exact runsLanes_of_map _ _ _ (fun l _ => PutReg.put _ _ _) (fun l _ x hx => hx.put_again)

end Sys2Proof.Machine
end

section
/-!
SUPPORT. The class of an FP32 value (R192): the bit that `fclass` computes is the one class of the value.
-/
namespace Sys2Proof.Machine

/-- The tests that compute the bit cut the magnitudes into NaNs, infinities, zeros, subnormals and normals; in each range one more bit, the
sign or the fraction's top bit, leaves one class of the table. -/
theorem isClass_iff {x : Word} {k : Nat} : IsClass x k ↔ k = classBit x := by
  simp only [IsClass, classBit]
  generalize x.toNat % 2 ^ 31 = mag
  generalize x.getLsbD 31 = neg
  generalize x.getLsbD 22 = quiet
  split
  case isTrue nan => cases quiet <;> simp <;> omega
  case isFalse =>
    split
    case isTrue infinite => cases neg <;> simp <;> omega
    case isFalse =>
      split
      case isTrue zero => cases neg <;> simp <;> omega
      case isFalse =>
        split
        case isTrue subnormal => cases neg <;> simp <;> omega
        case isFalse normal => cases neg <;> simp <;> omega

/-- The table has ten classes. -/
theorem lt_ten_of_isClass {x : Word} {k : Nat} (h : IsClass x k) : k < 10 := by
  unfold IsClass at h
  omega

theorem one_shiftLeft_eq_ofNat (k : Nat) : (1 : Word) <<< k = BitVec.ofNat 32 (2 ^ k) :=
  BitVec.eq_of_toNat_eq ((BitVec.toNat_twoPow 32 k).trans (BitVec.toNat_ofNat ..).symm)

/-- `fclass` standing ready writes the mask 2^k for the class k of its operand. -/
theorem exec_lFclass_ready {s : State} {f : LF} {c : LaneCtx} (h : LaneReady s f (needs f true true false false) c) :
    RunsLanes s c (exec (.lFclass f) s) fun l x y =>
      PutReg f.d.toNat (BitVec.ofNat 32 (2 ^ classBit (modA f (srcA f c l)))) x y := by
  rw [exec_lFclass, execLFclass]
  refine (laneWrite_ready h _).mono fun l x y put => ?_
  rwa [one_shiftLeft_eq_ofNat] at put

/-- Settles O30: the mask that `fclass` writes holds the computed bit, the one class of the operand. -/
theorem floatClass : Obligations.FloatClass := by
  intro s f c ready
  refine (exec_lFclass_ready ready).mono fun l x y put => ?_
  have holds : IsClass (modA f (srcA f c l)) (classBit (modA f (srcA f c l))) := isClass_iff.2 rfl
  exact ⟨_, lt_ten_of_isClass holds, holds, fun _ => isClass_iff.1, put⟩

end Sys2Proof.Machine
end

section
/-!
SUPPORT. The barrier tests (R286, R289): the phase test in the arithmetic of the spec, what an acquire leaves standing, and what `bwait` and
`btest` do where they stand ready before a barrier object that they may read.
-/
namespace Sys2Proof.Machine

/-- Phase `n` has passed when PHASE is `phase`: the test of R286 on naturals, 2^33 added so that the subtraction stays above zero. -/
abbrev PhaseTest (phase n : Nat) : Prop := (phase + 2 ^ 33 - n - 1) % 2 ^ 32 < 2 ^ 31

/-- Subtraction of words is that of R286, modulo 2^32. -/
theorem toNat_phase_sub (phase : Nat) (v : DWord) :
    (w32 phase - v.setWidth 32 - 1).toNat = (phase + 2 ^ 33 - v.toNat % 2 ^ 32 - 1) % 2 ^ 32 := by
  have word_one : (1 : Word).toNat = 1 := rfl
  simp only [w32, BitVec.toNat_sub, BitVec.toNat_ofNat, BitVec.toNat_setWidth, word_one]
  omega

theorem phasePassed_iff (phase : Nat) (v : DWord) :
    phasePassed (w32 phase) (v.setWidth 32) = true ↔ PhaseTest phase (v.toNat % 2 ^ 32) := by
  rw [phasePassed, decide_eq_true_iff, toNat_phase_sub]

/-- An acquire drops words of an L1 and nothing else. -/
@[simp] theorem State.acquire_mem (s : State) (k : CoreKey) (c : Nat) (scope : Scope) :
    (s.acquire k c scope).mem = s.mem := by
  rw [State.acquire]; split
  · exact State.modCore_mem ..
  · rfl

/-- The barrier that s[a] names stands at place `p`, in the scratchpad of the team `t`, and the group of `w` may read it now: no `rnd.get` and no
update of its own at the object is pending, and PHASE and FLAGS hold no detected error. -/
structure BarReadable (s : State) (w : Who) (a : SReg) (p : Nat × Nat) (t : Team) : Prop where
  unpended : s.getPending w.gid = false
  place : s.sBar w a = some p
  team : aget s.teams p.1 = some t
  settled : s.spBusy w.gid w.g (.scratch p.1 p.2) 32 = false
  phaseSound : t.spPoisoned p.2 4 = false
  flagsSound : t.spPoisoned (p.2 + 12) 4 = false

section
variable {s : State} {w : Who} {need : List SReg} {a b : SReg} {p : Nat × Nat} {t : Team}

theorem sBarRead_ready (ready : SReady s w need) (bar : BarReadable s w a p t) (body : Who → Bool → Scope → Out) :
    sBarRead s need a b body = body w (phasePassed (t.barPhase p.2) ((w.g.sget b).setWidth 32)) (t.barScope p.2) := by
  rw [sBarRead, sAccess_ready ready bar.unpended]
  simp [bar.place, bar.team, bar.settled, bar.phaseSound, bar.flagsSound]

theorem barPassed_iff : phasePassed (t.barPhase p.2) ((w.g.sget b).setWidth 32) = true ↔
    PhaseTest (leNat (t.spRead p.2 4)) ((w.g.sget b).toNat % 2 ^ 32) :=
  phasePassed_iff ..

theorem exec_bwait_passed (ready : SReady s w [a, b]) (bar : BarReadable s w a p t)
    (passed : PhaseTest (leNat (t.spRead p.2 4)) ((w.g.sget b).toNat % 2 ^ 32)) :
    exec (.bwait a b) s = .next ((s.acquire w.core w.ctx (t.barScope p.2)).setGroup w.gid w.g.next) := by
  rw [exec_bwait, execBwait, sBarRead_ready ready bar, if_pos (barPassed_iff.2 passed)]

theorem exec_bwait_not_passed (ready : SReady s w [a, b]) (bar : BarReadable s w a p t)
    (waits : ¬ PhaseTest (leNat (t.spRead p.2 4)) ((w.g.sget b).toNat % 2 ^ 32)) :
    exec (.bwait a b) s = s.sStall w.gid w.g .barrier (w.g.sget a) := by
  rw [exec_bwait, execBwait, sBarRead_ready ready bar, if_neg (mt barPassed_iff.1 waits)]

theorem exec_btest_passed {d : SReg} (ready : SReady s w [a, b, d]) (bar : BarReadable s w a p t)
    (passed : PhaseTest (leNat (t.spRead p.2 4)) ((w.g.sget b).toNat % 2 ^ 32)) :
    exec (.btest d a b) s = .next ((s.acquire w.core w.ctx (t.barScope p.2)).setGroup w.gid (w.g.sput d 1).next) := by
  rw [exec_btest, execBtest, sBarRead_ready ready bar, if_pos (barPassed_iff.2 passed)]

theorem exec_btest_not_passed {d : SReg} (ready : SReady s w [a, b, d]) (bar : BarReadable s w a p t)
    (waits : ¬ PhaseTest (leNat (t.spRead p.2 4)) ((w.g.sget b).toNat % 2 ^ 32)) :
    exec (.btest d a b) s = scalarResult s w d 0 := by
  rw [exec_btest, execBtest, sBarRead_ready ready bar, if_neg (mt barPassed_iff.1 waits), sWrite, scalarResult]

end

/-- Settles O21: each word ready to issue runs its body on the phase test, which on words is that of R286; the acquire of a passed phase keeps
memory, and the group's record is written after it. -/
theorem barrierTests : Obligations.BarrierTests := by
  intro s w d a b p t unpended place team settled phaseSound flagsSound phase n passed
  have bar : BarReadable s w a p t := ⟨unpended, place, team, settled, phaseSound, flagsSound⟩
  exact
    ⟨fun ready yes => ⟨_, exec_bwait_passed ready bar yes, aget_aset_same .., State.acquire_mem ..⟩,
     fun ready no => exec_bwait_not_passed ready bar no,
     fun ready yes => ⟨_, exec_btest_passed ready bar yes, aget_aset_same ..⟩,
     fun ready no => exec_btest_not_passed ready bar no⟩

end Sys2Proof.Machine
end

section
/-!
SUPPORT. The floors of a core (R321, R322): what raising one changes and leaves, and what `rnd.flr` does where it stands ready outside a region.
-/
namespace Sys2Proof.Machine

/-- The floor that is put is the greater of the old one and the value given. -/
theorem Core.floor_putFloor_same (k : Core) (c i : Nat) (v : Word) (pending : Bool) :
    (k.putFloor c i v pending).floor c i = if k.floor c i < v then v else k.floor c i := by
  rw [Core.floor, Core.putFloor, List.find?_cons_of_pos (by simp)]
  rfl

/-- The entry put first and the entries taken out are of one floor alone, so the search for another meets the same entry as before. -/
theorem Core.floor_putFloor_ne (k : Core) {c i c' i' : Nat} (v : Word) (pending : Bool) (other : (c', i') ≠ (c, i)) :
    (k.putFloor c i v pending).floor c' i' = k.floor c' i' := by
  have distinct : ∀ j j', j = c' ∧ j' = i' → ¬ (j = c ∧ j' = i) := by
    rintro _ _ ⟨rfl, rfl⟩ ⟨rfl, rfl⟩
    exact other rfl
  have first : ¬ (c = c' ∧ i = i') := fun h => distinct c i h ⟨rfl, rfl⟩
  have rest : ((k.floors.filter fun f => !(f.ctx = c && f.region = i)).find? fun f => f.ctx = c' && f.region = i') =
      k.floors.find? fun f => f.ctx = c' && f.region = i' := by
    rw [List.find?_filter]
    refine congrArg (k.floors.find? ·) (funext fun f => ?_)
    rw [Bool.eq_iff_iff]
    simp only [Bool.not_eq_true', Bool.and_eq_true, Bool.and_eq_false_imp, decide_eq_true_eq, decide_eq_false_iff_not]
    exact ⟨And.right, fun h => ⟨fun hc hi => distinct _ _ h ⟨hc, hi⟩, h⟩⟩
  rw [Core.floor, Core.putFloor, List.find?_cons_of_neg (by simpa using first), rest]
  rfl

@[simp] theorem State.core_modCore_same (s : State) (k : CoreKey) (f : Core → Core) : (s.modCore k f).core k = f (s.core k) := by
  rw [State.core, State.modCore_cores, aget_aset_same, Option.getD_some]

@[simp] theorem State.core_setGroup (s : State) (gid : Nat) (g : Group) (k : CoreKey) : (s.setGroup gid g).core k = s.core k := rfl

section
variable {g : Group} (outside : g.region = none)
include outside

theorem Group.addReturning_outside : g.addReturning = g := by rw [Group.addReturning, outside]

theorem Group.countFlr_outside : g.countFlr = g := by
  rw [Group.countFlr, outside, Option.map_none, ← outside]

theorem Group.logS_outside (o : Nat) (v : DWord) : g.logS o v = g := by rw [Group.logS, outside]

theorem Group.logFull_outside : g.logFull = false := by rw [Group.logFull, outside]

end

section
variable {s : State} {w : Who} {need : List SReg} {d a b : SReg}

/-- A region number below 4,096 has no bit above [11:0] (R313). -/
theorem sRegion_ready (ready : SReady s w need) (named : (w.g.sget a).toNat < 4096) (body : Who → Nat → Out) :
    sRegion s need a body = body w (w.g.sget a).toNat := by
  have high : dbits (w.g.sget a) 63 12 = 0 := by
    rw [dbits, bitsOf, show 2 ^ 12 = 4096 from rfl, Nat.div_eq_of_lt named, Nat.zero_mod]
  rw [sRegion, sIssueWho_ready ready, if_neg (not_not_intro high)]

/-- Outside a region nothing is logged or counted: `rnd.flr` raises the floor and writes the old one. -/
theorem exec_rndFlr_ready (ready : SReady s w [a, b, d]) (named : (w.g.sget a).toNat < 4096) (outside : w.g.region = none) :
    exec (.rndFlr d a b) s =
      .next ((s.modCore w.core fun k => k.raiseFloor w.ctx (w.g.sget a).toNat ((w.g.sget b).setWidth 32)).setGroup w.gid
        (w.g.sput d (((s.core w.core).floor w.ctx (w.g.sget a).toNat).setWidth 64)).next) := by
  have written : ∀ v, (w.g.sput d v).region = none := fun v => (Group.sput_region ..).trans outside
  rw [exec_rndFlr, execRndFlr, sRegion_ready ready named]
  simp [Group.logFull_outside outside, Group.addReturning_outside outside, Group.countFlr_outside outside, Group.logS_outside (written _), outside]

end

/-- Settles O24: the word ready to issue raises one floor of its core, and the laws of a put floor give each floor read afterwards. -/
theorem roundFloor : Obligations.RoundFloor := by
  intro s w d a b ready named outside i old n
  refine ⟨_, exec_rndFlr_ready ready named outside, aget_aset_same .., ?raised, fun c j other => ?kept, rfl, rfl, rfl⟩
  case raised => rw [State.core_setGroup, State.core_modCore_same, Core.raiseFloor, Core.floor_putFloor_same]
  case kept => rw [State.core_setGroup, State.core_modCore_same, Core.raiseFloor, Core.floor_putFloor_ne _ _ _ other]

end Sys2Proof.Machine
end
